-- ==== Sys2Proof/Word.lean ====
section
/-!
DEFINITION. Sys2Proof/Word.lean: the word types of the manual and the one shape of keyed data.
-/

namespace Sys2Proof

/-- A byte of memory, scratchpad or tile storage. -/
abbrev Byte := BitVec 8

/-- A 32-bit vector register, queue item, producer register or command word. -/
abbrev Word := BitVec 32

/-- A 64-bit uniform register or special register. -/
abbrev DWord := BitVec 64

/-- A mask with one bit for each lane of a group (16, 32 or 64 lanes, R76). -/
abbrev Mask := BitVec 64

/-- A code pointer: bits [56:6] a line address, bits [2:0] a slot number (R87). -/
abbrev CodePtr := BitVec 64

/-- A line's version (R298). -/
abbrev Version := BitVec 48

/-- A view tag: change count in [47:32], digest in [31:0] (R363). -/
abbrev Tag := BitVec 48

/-- Keyed data: pairs of a key and a value, keys rising, no entry equal to what an unlisted key reads as
(the operations that keep this form are in Sys2Proof/Machine/Maps.lean). -/
abbrev Map (α : Type) := List (Nat × α)

end Sys2Proof
end

