-- ==== Sys2Proof/Config.lean ====
section
/-!
DEFINITION. Sys2Proof/Config.lean: the free values, which the manual leaves open: constants without a body, so that no
proof can see what they are, applied to a counter of the state or to the operands they depend on.
-/

namespace Sys2Proof.Config

/-- Which enabled move comes next when the agenda is empty (DESIGN CHOICE, log 2), by step count. -/
opaque pick : Nat → Nat

/-- How many core cycles pass before a move that a free value picks (DESIGN CHOICE, log 2), by step count. -/
opaque elapsed : Nat → Nat

/-- Which of the free group slots or private-memory slots a placement takes (R84, R280, DESIGN CHOICE, log 9), by step count. -/
opaque room : Nat → Nat

/-- Whether an access uses a cached translation that the tables no longer give (R277, DESIGN CHOICE, log 5), by step count. -/
opaque staleHit : Nat → Bool

/-- Sixteenths of a line that a nonzero line compresses to, less one, taken modulo 4 (R316, DESIGN CHOICE, log 6). -/
opaque lineClass : List Byte → Nat

/-- How the lines of a plain frame without the stripe attribute lie in its rows (R331, DESIGN CHOICE, log 10): a permutation's number, by frame. -/
opaque rowLayout : Nat → Nat

/-- What an approximate function delivers before its bound is applied (R155, DESIGN CHOICE, log 7): function number and operand. -/
opaque approx : Nat → Word → Word

/-- Eighths of the body length of an image record, by type and number of records (R397, DESIGN CHOICE, log 12). -/
opaque recordLen : Nat → Nat → Nat

/-- The part number that an image header holds (R397, DESIGN CHOICE, log 12). -/
opaque partNumber : BitVec 32

/-- The package's identity in attestation reports, and the signatures of a report, under RSA-3072 and SLH-DSA, and its ephemeral P-384 key, by
step count (R411, DESIGN CHOICE, log 37). -/
opaque packageId : Nat
opaque signRsa : Nat → List (BitVec 8)
opaque signSlh : Nat → List (BitVec 8)
opaque ephemeral : Nat → List (BitVec 8)

/-- The version and the SHA-384 digest of the images that run before one of their kind is loaded: boot 0, runtime 1, collective kernels 2
(R411, DESIGN CHOICE, log 37). -/
opaque fwVersion : Nat → BitVec 32
opaque fwDigest : Nat → BitVec 384

/-- The bytes of an image record's body (R397, DESIGN CHOICE, log 12), by step count, place of the record, and offset. -/
opaque imageByte : Nat → Nat → Nat → BitVec 8

/-- The 32 bytes of a spilled pending record (R90, DESIGN CHOICE, log 47), by step count and offset. -/
opaque spillByte : Nat → Nat → BitVec 8

/-- Which of the 48 slices of the die that holds a machine line is the line's home, taken modulo 48 (R290, DESIGN CHOICE, log 44). -/
opaque homeSlice : Nat → Nat

/-- The 256-bit AES key and the 32-bit salt of an attested session, by its number (R403, R411, DESIGN CHOICE, log 37). -/
opaque sessionKey : BitVec 16 → BitVec 256
opaque sessionSalt : BitVec 16 → BitVec 32

/-- The cycles by which a core's clock differs from the others' (R81, DESIGN CHOICE, log 13), by core. -/
opaque clockSkew : Nat → Nat

/-- The fuse that holds the lowest loadable version of firmware (R410, DESIGN CHOICE, log 3). -/
opaque fwMin : BitVec 32

end Sys2Proof.Config
end

