-- ==== Sys2Proof/Syntax.lean ====
section
/-!
DEFINITION. Sys2Proof/Syntax.lean: the ONE inductive of instructions and events, one constructor for each row of
the table of operations and events. The instructions of a fetch line carry the fields of their format (R58), and
`Slot` adds the common header (R56); producer micro-operations carry the fields of R255; machine events carry what the event is about.
-/

namespace Sys2Proof

/-- The types of R15, R16 and R21, in the order of their ty codes (R60). -/
inductive Ty where
  | n8 | n16 | n32 | n64 | i8 | i16 | i32 | i64
  | f32 | f16 | bf16 | e4m3 | e5m2 | e2m1 | hs4 | hs8
deriving DecidableEq, Repr

/-- Rounding modes (R27). -/
inductive Rm where
  | rne | rtz | rdn | rup
deriving DecidableEq, Repr

/-- Integer conditions of `cmp` and `ucmp` (R68). -/
inductive Cond where
  | eq | ne | lt | le | gt | ge
deriving DecidableEq, Repr

/-- Floating conditions of `fcmp` (R153). -/
inductive FCond where
  | eq | ne | lt | le | gt | ge | un
deriving DecidableEq, Repr

/-- Modes of `shfl` (R138). -/
inductive ShflMode where
  | idx | up | down | xor
deriving DecidableEq, Repr

/-- Operations of `vred`, `vscan` and `cpyred` (R68). -/
inductive RedOp where
  | add | min | max | and | or | xor
deriving DecidableEq, Repr

/-- Operations of `atm` and `atms` (R68). -/
inductive AtmOp where
  | add | sub | min | max | and | or | xor | xchg | cas
deriving DecidableEq, Repr

/-- Operations of `red` (R68). -/
inductive MemRedOp where
  | add | sub | min | max | and | or | xor
deriving DecidableEq, Repr

/-- The common header (R56), less op and fn, which the constructor stands for. -/
structure Hdr where
  sp : Bool
  pr : BitVec 3
  pn : Bool
  fl : BitVec 2
deriving DecidableEq, Repr

/-- Format A (R58). -/
structure FmtA where
  ty : Ty
  d : BitVec 8
  a : BitVec 8
  b : BitVec 8
  c : BitVec 8
  sat : Bool
  rm : Rm
  na : Bool
  nb : Bool
  nc : Bool
  bsel : BitVec 2
  imm : BitVec 32
deriving DecidableEq, Repr

/-- Format M (R58). -/
structure FmtM where
  ty : Ty
  d : BitVec 8
  bf : BitVec 5
  x : BitVec 8
  ix : BitVec 2
  cnt : BitVec 4
  hint : BitVec 5
  zero : BitVec 8
  off : BitVec 32
deriving DecidableEq, Repr

/-- Format B (R58). -/
structure FmtB where
  tslot : BitVec 3
  tline : BitVec 29
  jslot : BitVec 3
  jline : BitVec 29
  a : BitVec 8
  zero : BitVec 4
deriving DecidableEq, Repr

/-- Format T (R58). -/
structure FmtT where
  ty : Ty
  md : BitVec 4
  ma : BitVec 4
  mb : BitVec 4
  mc : BitVec 4
  sa : BitVec 8
  sb : BitVec 8
  tmod : BitVec 8
  imm : BitVec 32
deriving DecidableEq, Repr

/-- Format E (R58). -/
structure FmtE where
  sub : BitVec 4
  d : BitVec 8
  a : BitVec 8
  b : BitVec 8
  ts : BitVec 5
  wq : BitVec 4
  bt : BitVec 4
  zero : BitVec 3
  imm : BitVec 32
deriving DecidableEq, Repr

/-- Format S (R58). -/
structure FmtS where
  sreg : BitVec 12
  a : BitVec 8
  imm : BitVec 56
deriving DecidableEq, Repr

/-- A fragment: team, group of the team, split-table entry of the group (R88). -/
structure FragRef where
  team : Nat
  group : Nat
  entry : Nat
deriving DecidableEq, Repr

/-- What a home is asked to do (R290, R298). -/
inductive HomeAct where
  | fill (agent : Nat)
  | grant (agent : Nat)
  | writeBack (agent : Nat)
  | write (agent : Nat) (offset : Nat) (bytes : List Byte)
  | fail
  | corrected
deriving DecidableEq, Repr

/-- A remote access, at its requester and at its destination (R361). -/
inductive RemoteKind where
  | read
  | write (bytes : List (Nat × Byte))
  | atomic (op : AtmOp) (ty : Ty) (offset : Nat) (operand : DWord) (swap : DWord)
  | reduce (op : MemRedOp) (ty : Ty) (offset : Nat) (operand : DWord)
  | update (op : RedOp) (ty : Ty) (elems : List (Nat × DWord))
  | place (width : Nat) (elems : List (Nat × DWord))
  | note (fctx : Nat) (value : DWord)
deriving DecidableEq, Repr

/-- What a peer answers (R362). -/
inductive RemoteReply where
  | data (bytes : List Byte)
  | done
  | refused (cause : Nat)
  | stale
  | appended (ok : Bool)
deriving DecidableEq, Repr

/-- The number of a request (R310): its requester, the fabric port of its sender for which it was counted (R361), and the 16-bit count that
this requester keeps for the line's home. -/
structure ReqNo where
  port : Nat
  count : BitVec 16
deriving DecidableEq, Repr

/-- A message of a collective (R375, R431): a result comes with its trailer's mask, status and tag. -/
inductive CollMsg where
  | contribution (bytes : List Byte)
  | result (mask : BitVec 288) (bytes : List Byte) (status : Nat) (tag : Tag)
  | arrived
deriving DecidableEq, Repr

/-- The proposal that an acceptance answers (R367). -/
structure Ballot where
  members : BitVec 288
  count : BitVec 16
deriving DecidableEq, Repr

/-- The kinds of firmware images (R410). -/
inductive FwKind where
  | boot | runtime | kernels
deriving DecidableEq, Repr

/-- A firmware image: its kind, and the version and digest that its signatures cover (R410). -/
structure FwImage where
  kind : FwKind
  version : BitVec 32
  digest : BitVec 384
deriving DecidableEq, Repr

/-- The other end of a mutual attestation: the session's number and the peer package (R411). -/
structure AttestPeer where
  session : BitVec 16
  package : Nat
deriving DecidableEq, Repr

/-- The masters of R404. -/
inductive Master where
  | host | board | fabric
deriving DecidableEq, Repr

/-- What a host access does (R408). -/
inductive HostAct where
  | memWrite (addr : Nat) (bytes : List Byte)
  | memRead (addr : Nat) (count : Nat)
  | regRead (sreg : Nat)
  | newContext (id : Nat) (owner : Bool)
  | context (id : Nat) (sreg : Nat) (value : DWord)
  | policy (id : Nat) (index : Nat) (value : DWord)
deriving DecidableEq, Repr

/-- What a Locket message carries (R400 to R403). -/
inductive LocketBody where
  | granule (round range offset source : Nat) (bytes : List Byte)
  | image (slot : Nat)
  | badTag
deriving DecidableEq, Repr

/-- In-bank command words (R342). -/
inductive BguCmd where
  | nop
  | openRow (all : Bool) (bank : BitVec 2) (cx : Bool) (k : BitVec 2) (row : BitVec 16)
  | col (n : BitVec 4)
  | mac (inc cj : Bool) (k : BitVec 2) (j : BitVec 6) (bv : BitVec 3)
  | macx (inc cj : Bool) (k : BitVec 2) (j : BitVec 6) (sc : BitVec 2) (q : Bool)
  | ldbv (inc : Bool) (bv : BitVec 3)
  | stacc (inc half : Bool) (hi : Bool) (g : BitVec 2)
  | zacc (mask : BitVec 4)
  | setc (k : BitVec 2) (v : BitVec 16)
  | loop (k : BitVec 2) (target : BitVec 6)
  | incr (k : BitVec 2) (imm : BitVec 16)
  | nextb
  | halt
deriving DecidableEq, Repr


/-- Every instruction of a fetch line, micro-operation of the producer slot and event of the machine. -/
inductive Instr where
  /-- `BRA` (R89). -/
  | bra (f : FmtB)
  /-- `BRA_U` (R93). -/
  | braU (f : FmtB)
  /-- `JMP` (R93). -/
  | jmp (f : FmtB)
  /-- `JMPI` (R94). -/
  | jmpi (f : FmtB)
  /-- `CALL` (R93). -/
  | call (f : FmtB)
  /-- `RET` (R94). -/
  | ret (f : FmtB)
  /-- `LOOP` (R93). -/
  | loop (f : FmtB)
  /-- `MFEM` (R86). -/
  | mfem (f : FmtA)
  /-- `MTEM` (R86). -/
  | mtem (f : FmtA)
  /-- `MFOM` (R86). -/
  | mfom (f : FmtA)
  /-- `NAP` (R96). -/
  | nap (f : FmtA)
  /-- `SPAWN` (R110). -/
  | spawn (f : FmtE)
  /-- `ADD` (R125). -/
  | add (f : FmtA)
  /-- `SUB` (R125). -/
  | sub (f : FmtA)
  /-- `ADDC` (R126). -/
  | addc (f : FmtA)
  /-- `SUBB` (R126). -/
  | subb (f : FmtA)
  /-- `MIN` (R125). -/
  | min (f : FmtA)
  /-- `MAX` (R125). -/
  | max (f : FmtA)
  /-- `ABS` (R125). -/
  | abs (f : FmtA)
  /-- `NEG` (R125). -/
  | neg (f : FmtA)
  /-- `MUL` (R127). -/
  | mul (f : FmtA)
  /-- `MULH` (R127). -/
  | mulh (f : FmtA)
  /-- `MULHU` (R127). -/
  | mulhu (f : FmtA)
  /-- `MAD` (R127). -/
  | mad (f : FmtA)
  /-- `MADW` (R127). -/
  | madw (f : FmtA)
  /-- `DIV` (R128). -/
  | div (f : FmtA)
  /-- `DIVU` (R128). -/
  | divu (f : FmtA)
  /-- `REM` (R128). -/
  | rem (f : FmtA)
  /-- `REMU` (R128). -/
  | remu (f : FmtA)
  /-- `AND` (R129). -/
  | and (f : FmtA)
  /-- `OR` (R129). -/
  | or (f : FmtA)
  /-- `XOR` (R129). -/
  | xor (f : FmtA)
  /-- `NOT` (R129). -/
  | not (f : FmtA)
  /-- `ANDN` (R129). -/
  | andn (f : FmtA)
  /-- `LOP3` (R130). -/
  | lop3 (f : FmtA)
  /-- `SHL` (R131). -/
  | shl (f : FmtA)
  /-- `SHR` (R131). -/
  | shr (f : FmtA)
  /-- `SRA` (R131). -/
  | sra (f : FmtA)
  /-- `ROL` (R131). -/
  | rol (f : FmtA)
  /-- `ROR` (R131). -/
  | ror (f : FmtA)
  /-- `BFX` (R132). -/
  | bfx (f : FmtA)
  /-- `BFI` (R132). -/
  | bfi (f : FmtA)
  /-- `POPC` (R132). -/
  | popc (f : FmtA)
  /-- `CLZ` (R132). -/
  | clz (f : FmtA)
  /-- `CTZ` (R132). -/
  | ctz (f : FmtA)
  /-- `BREV` (R132). -/
  | brev (f : FmtA)
  /-- `BPERM` (R133). -/
  | bperm (f : FmtA)
  /-- `CMP` (R134). -/
  | cmp (c : Cond) (f : FmtA)
  /-- `MOV` (R135). -/
  | mov (f : FmtA)
  /-- `MOVI` (R135). -/
  | movi (f : FmtA)
  /-- `SEL` (R135). -/
  | sel (f : FmtA)
  /-- `SEXT` (R135). -/
  | sext (f : FmtA)
  /-- `ZEXT` (R135). -/
  | zext (f : FmtA)
  /-- `LEA` (R135). -/
  | lea (f : FmtA)
  /-- `PAND` (R136). -/
  | pand (f : FmtA)
  /-- `POR` (R136). -/
  | por (f : FmtA)
  /-- `PXOR` (R136). -/
  | pxor (f : FmtA)
  /-- `PNOT` (R136). -/
  | pnot (f : FmtA)
  /-- `PMFS` (R136). -/
  | pmfs (f : FmtA)
  /-- `PMTS` (R136). -/
  | pmts (f : FmtA)
  /-- `SHFL` (R138). -/
  | shfl (m : ShflMode) (f : FmtA)
  /-- `VANY` (R139). -/
  | vany (f : FmtA)
  /-- `VALL` (R139). -/
  | vall (f : FmtA)
  /-- `VBAL` (R139). -/
  | vbal (f : FmtA)
  /-- `VRED` (R140). -/
  | vred (op : RedOp) (f : FmtA)
  /-- `VSCAN` (R140). -/
  | vscan (excl : Bool) (op : RedOp) (f : FmtA)
  /-- `VCOMP` (R141). -/
  | vcomp (f : FmtA)
  /-- `MFL` (R142). -/
  | mfl (f : FmtA)
  /-- `MTL` (R142). -/
  | mtl (f : FmtA)
  /-- `UADD` (R144). -/
  | uadd (f : FmtA)
  /-- `USUB` (R144). -/
  | usub (f : FmtA)
  /-- `UMIN` (R144). -/
  | umin (f : FmtA)
  /-- `UMAX` (R144). -/
  | umax (f : FmtA)
  /-- `UMUL` (R144). -/
  | umul (f : FmtA)
  /-- `UMAD` (R144). -/
  | umad (f : FmtA)
  /-- `UAND` (R144). -/
  | uand (f : FmtA)
  /-- `UOR` (R144). -/
  | uor (f : FmtA)
  /-- `UXOR` (R144). -/
  | uxor (f : FmtA)
  /-- `USHL` (R144). -/
  | ushl (f : FmtA)
  /-- `USHR` (R144). -/
  | ushr (f : FmtA)
  /-- `USRA` (R144). -/
  | usra (f : FmtA)
  /-- `UBFX` (R144). -/
  | ubfx (f : FmtA)
  /-- `UBFI` (R144). -/
  | ubfi (f : FmtA)
  /-- `UPOPC` (R144). -/
  | upopc (f : FmtA)
  /-- `UCMP` (R144). -/
  | ucmp (c : Cond) (f : FmtA)
  /-- `UMOV` (R144). -/
  | umov (f : FmtA)
  /-- `UMOVI` (R144). -/
  | umovi (f : FmtA)
  /-- `ULEA` (R144). -/
  | ulea (f : FmtA)
  /-- `FADD` (R151). -/
  | fadd (f : FmtA)
  /-- `FSUB` (R151). -/
  | fsub (f : FmtA)
  /-- `FMUL` (R151). -/
  | fmul (f : FmtA)
  /-- `FFMA` (R151). -/
  | ffma (f : FmtA)
  /-- `FFMS` (R151). -/
  | ffms (f : FmtA)
  /-- `FNMA` (R151). -/
  | fnma (f : FmtA)
  /-- `FMIN` (R152). -/
  | fmin (f : FmtA)
  /-- `FMAX` (R152). -/
  | fmax (f : FmtA)
  /-- `FCMP` (R153). -/
  | fcmp (c : FCond) (f : FmtA)
  /-- `FDIV` (R154). -/
  | fdiv (f : FmtA)
  /-- `FSQRT` (R154). -/
  | fsqrt (f : FmtA)
  /-- `FRCP` (R155). -/
  | frcp (f : FmtA)
  /-- `FRSQ` (R155). -/
  | frsq (f : FmtA)
  /-- `FEX2` (R155). -/
  | fex2 (f : FmtA)
  /-- `FLG2` (R155). -/
  | flg2 (f : FmtA)
  /-- `FSIN` (R155). -/
  | fsin (f : FmtA)
  /-- `FCOS` (R155). -/
  | fcos (f : FmtA)
  /-- `FTANH` (R155). -/
  | ftanh (f : FmtA)
  /-- `FRND` (R157). -/
  | frnd (f : FmtA)
  /-- `FFRAC` (R157). -/
  | ffrac (f : FmtA)
  /-- `FCLASS` (R158). -/
  | fclass (f : FmtA)
  /-- `FSCALE` (R157). -/
  | fscale (f : FmtA)
  /-- `HADD2` (R159). -/
  | hadd2 (f : FmtA)
  /-- `HMUL2` (R159). -/
  | hmul2 (f : FmtA)
  /-- `HFMA2` (R159). -/
  | hfma2 (f : FmtA)
  /-- `HMIN2` (R159). -/
  | hmin2 (f : FmtA)
  /-- `HMAX2` (R159). -/
  | hmax2 (f : FmtA)
  /-- `CVT` (R161). -/
  | cvt (f : FmtA)
  /-- `CVTPK` (R162). -/
  | cvtpk (f : FmtA)
  /-- `CVTUN` (R163). -/
  | cvtun (f : FmtA)
  /-- `DP2_BF16` (R164). -/
  | dp2Bf16 (f : FmtA)
  /-- `DP2_F16` (R164). -/
  | dp2F16 (f : FmtA)
  /-- `DP4_E4M3` (R164). -/
  | dp4E4m3 (f : FmtA)
  /-- `DP4_E5M2` (R164). -/
  | dp4E5m2 (f : FmtA)
  /-- `DP4_HS8` (R37). -/
  | dp4Hs8 (f : FmtA)
  /-- `DP8_HS4` (R37). -/
  | dp8Hs4 (f : FmtA)
  /-- `DP8_E2M1` (R164). -/
  | dp8E2m1 (f : FmtA)
  /-- `DP4_I8` (R36). -/
  | dp4I8 (f : FmtA)
  /-- `DP4_N8` (R36). -/
  | dp4N8 (f : FmtA)
  /-- `MXS` (R166). -/
  | mxs (f : FmtA)
  /-- `MZERO` (R177). -/
  | mzero (f : FmtT)
  /-- `MLD` (R178). -/
  | mld (f : FmtT)
  /-- `MST` (R178). -/
  | mst (f : FmtT)
  /-- `MLANE_GET` (R179). -/
  | mlaneGet (f : FmtT)
  /-- `MLANE_PUT` (R179). -/
  | mlanePut (f : FmtT)
  /-- `MXLANE_GET` (R180). -/
  | mxlaneGet (f : FmtT)
  /-- `MXLANE_PUT` (R180). -/
  | mxlanePut (f : FmtT)
  /-- `MMA` (R181). -/
  | mma (f : FmtT)
  /-- `MMAS` (R183). -/
  | mmas (f : FmtT)
  /-- `MGATH` (R184). -/
  | mgath (f : FmtT)
  /-- `MCVT` (R185). -/
  | mcvt (f : FmtT)
  /-- `MADD` (R186). -/
  | madd (f : FmtT)
  /-- `MTR` (R187). -/
  | mtr (f : FmtT)
  /-- `MREL` (R188). -/
  | mrel (f : FmtT)
  /-- `LDS` (R200). -/
  | lds (f : FmtE)
  /-- `STS` (R200). -/
  | sts (f : FmtE)
  /-- `ATMS` (R201). -/
  | atms (op : AtmOp) (f : FmtE)
  /-- `PLD` (R202). -/
  | pld (f : FmtE)
  /-- `PST` (R202). -/
  | pst (f : FmtE)
  /-- `WBIND` (R204). -/
  | wbind (f : FmtE)
  /-- `WTOUCH` (R205). -/
  | wtouch (f : FmtE)
  /-- `WSTAT` (R206). -/
  | wstat (f : FmtE)
  /-- `WUNBIND` (R207). -/
  | wunbind (f : FmtE)
  /-- `QCFG` (R210). -/
  | qcfg (f : FmtE)
  /-- `QPUSH` (R211). -/
  | qpush (f : FmtE)
  /-- `QPUSH_U` (R211). -/
  | qpushU (f : FmtE)
  /-- `QPUSH_TRY` (R211). -/
  | qpushTry (f : FmtE)
  /-- `QPOP` (R211). -/
  | qpop (f : FmtE)
  /-- `QPOP_U` (R211). -/
  | qpopU (f : FmtE)
  /-- `QPOP_TRY` (R211). -/
  | qpopTry (f : FmtE)
  /-- `QCLOSE` (R212). -/
  | qclose (f : FmtE)
  /-- `QSTAT` (R213). -/
  | qstat (f : FmtE)
  /-- `CINIT` (R216). -/
  | cinit (f : FmtE)
  /-- `CARRIVE` (R217). -/
  | carrive (f : FmtE)
  /-- `CARRIVE_WAIT` (R219). -/
  | carriveWait (f : FmtE)
  /-- `CEXPECT` (R218). -/
  | cexpect (f : FmtE)
  /-- `CWAIT` (R219). -/
  | cwait (f : FmtE)
  /-- `CTEST` (R219). -/
  | ctest (f : FmtE)
  /-- `LD` (R270). -/
  | ld (f : FmtM)
  /-- `ST` (R270). -/
  | st (f : FmtM)
  /-- `LDU` (R270). -/
  | ldu (f : FmtM)
  /-- `STU` (R270). -/
  | stu (f : FmtM)
  /-- `PFH` (R271). -/
  | pfh (f : FmtM)
  /-- `LDBF` (R272). -/
  | ldbf (f : FmtM)
  /-- `MKBF` (R272). -/
  | mkbf (f : FmtE)
  /-- `BFQ` (R272). -/
  | bfq (f : FmtE)
  /-- `WBL` (R285). -/
  | wbl (f : FmtM)
  /-- `INVL` (R285). -/
  | invl (f : FmtM)
  /-- `DHARV` (R288). -/
  | dharv (f : FmtE)
  /-- `RNGW` (R286). -/
  | rngw (f : FmtS)
  /-- `ATM` (R309). -/
  | atm (op : AtmOp) (f : FmtM)
  /-- `RED` (R309). -/
  | red (op : MemRedOp) (f : FmtM)
  /-- `LDV` (R303). -/
  | ldv (f : FmtM)
  /-- `VERQ` (R303). -/
  | verq (f : FmtM)
  /-- `CASV` (R303). -/
  | casv (f : FmtM)
  /-- `VADD_U` (R305). -/
  | vaddU (f : FmtE)
  /-- `VADD` (R305). -/
  | vadd (f : FmtE)
  /-- `VSTC` (R306). -/
  | vstc (f : FmtM)
  /-- `VCOMMIT` (R307). -/
  | vcommit (f : FmtE)
  /-- `TSLOAD` (R229). -/
  | tsload (f : FmtE)
  /-- `TSEVICT` (R229). -/
  | tsevict (f : FmtE)
  /-- `CPYLD` (R233). -/
  | cpyld (f : FmtE)
  /-- `CPYST` (R233). -/
  | cpyst (f : FmtE)
  /-- `CPYRED` (R234). -/
  | cpyred (op : RedOp) (f : FmtE)
  /-- `CPYMC` (R233). -/
  | cpymc (f : FmtE)
  /-- `CPYG` (R235). -/
  | cpyg (f : FmtE)
  /-- `CPYSTRIPE` (R237). -/
  | cpystripe (f : FmtE)
  /-- `CSEAL` (R241). -/
  | cseal (f : FmtE)
  /-- `CWAITB` (R242). -/
  | cwaitb (f : FmtE)
  /-- `CSTAT` (R243). -/
  | cstat (f : FmtE)
  /-- `PDLOAD` (R250). -/
  | pdload (f : FmtE)
  /-- `PDLOAD_TRY` (R250). -/
  | pdloadTry (f : FmtE)
  /-- `PDSTART` (R252). -/
  | pdstart (f : FmtE)
  /-- `PDSTART_CONT` (R252). -/
  | pdstartCont (f : FmtE)
  /-- `PDSTAT` (R254). -/
  | pdstat (f : FmtE)
  /-- `END` (R256). -/
  | endp (mask : BitVec 16)
  /-- `RD` (R256). -/
  | rd (d : BitVec 4) (st : Bool) (n : BitVec 3)
  /-- `UNP` (R256). -/
  | unp (d : BitVec 4) (st : Bool) (k : BitVec 5)
  /-- `LUT` (R256). -/
  | lut (d a : BitVec 4) (tb : Bool)
  /-- `TLD` (R256). -/
  | tld (tb st : Bool) (e : BitVec 3)
  /-- `STREAM_CVT` (R256). -/
  | streamCvt (d a : BitVec 4) (dty sty : Ty) (pol : BitVec 3) (rm : Rm)
  /-- `SCL` (R256). -/
  | scl (d a b : BitVec 4) (rm : Rm)
  /-- `PUSH` (R256). -/
  | push (a : BitVec 4) (land : Bool) (q : BitVec 4)
  /-- `WAITC` (R256). -/
  | waitc (par : Bool) (addr : BitVec 16)
  /-- `STREAM_LOOP` (R256). -/
  | streamLoop (a : BitVec 4) (target : BitVec 8)
  /-- `STREAM_ADD_SHIFT` (R256). -/
  | streamAddShift (d a b : BitVec 4) (sh : BitVec 5)
  /-- `STREAM_ADD_IMM` (R256). -/
  | streamAddImm (d a : BitVec 4) (imm : BitVec 15)
  /-- `WLAPP` (R112). -/
  | wlapp (f : FmtE)
  /-- `WLPOP` (R112). -/
  | wlpop (f : FmtE)
  /-- `WLQUIET` (R113). -/
  | wlquiet (f : FmtE)
  /-- `IBSESS` (R339). -/
  | ibsess (f : FmtE)
  /-- `IBSESS_TRY` (R339). -/
  | ibsessTry (f : FmtE)
  /-- `IBPROG` (R347). -/
  | ibprog (f : FmtE)
  /-- `IBVEC` (R348). -/
  | ibvec (f : FmtE)
  /-- `IBSCALE` (R348). -/
  | ibscale (f : FmtE)
  /-- `IBSCALE_U` (R348). -/
  | ibscaleU (f : FmtE)
  /-- `IBSTEP` (R349). -/
  | ibstep (f : FmtE)
  /-- `IBSTEP_REG` (R349). -/
  | ibstepReg (f : FmtE)
  /-- `IBREAD` (R350). -/
  | ibread (f : FmtE)
  /-- `IBFENCE_IN` (R335). -/
  | ibfenceIn (f : FmtM)
  /-- `IBFENCE_OUT` (R336). -/
  | ibfenceOut (f : FmtM)
  /-- `IBSTAT` (R351). -/
  | ibstat (f : FmtE)
  /-- `COLL_ALLRED` (R377). -/
  | collAllred (f : FmtE)
  /-- `COLL_REDSCAT` (R377). -/
  | collRedscat (f : FmtE)
  /-- `COLL_ALLGATH` (R377). -/
  | collAllgath (f : FmtE)
  /-- `COLL_BCAST` (R377). -/
  | collBcast (f : FmtE)
  /-- `COLL_BARRIER` (R378). -/
  | collBarrier (f : FmtE)
  /-- `VWQ` (R372). -/
  | vwq (f : FmtE)
  /-- `VJOIN` (R373). -/
  | vjoin (f : FmtE)
  /-- `FNOTE` (R380). -/
  | fnote (f : FmtE)
  /-- `FWAIT` (R380). -/
  | fwait (f : FmtE)
  /-- `FWAIT_TRY` (R380). -/
  | fwaitTry (f : FmtE)
  /-- `MFSP` (R390). -/
  | mfsp (f : FmtS)
  /-- `MTSP` (R390). -/
  | mtsp (f : FmtS)
  /-- `MFSV` (R390). -/
  | mfsv (f : FmtS)
  /-- `MTSV` (R390). -/
  | mtsv (f : FmtS)
  /-- `NOP` (R68). -/
  | nop
  /-- `LIVE_WORD` (R62). -/
  | liveWord
  /-- `JOIN` (R91). -/
  | join
  /-- `EXIT` (R93). -/
  | exit
  /-- `YIELD` (R96). -/
  | yield
  /-- `FRPLY` (R279). -/
  | frply
  /-- `VCLR` (R305). -/
  | vclr
  /-- `FENCE_DOM` (R296). -/
  | fenceDom
  /-- `FENCE_NC` (R296). -/
  | fenceNc
  /-- `FENCE_SYS` (R296). -/
  | fenceSys
  /-- `PDSTOP` (R253). -/
  | pdstop
  /-- `PDSTOP_REL` (R253). -/
  | pdstopRel
  /-- `WLQUIET_REG` (R113). -/
  | wlquietReg
  /-- `WLQUIET_UNREG` (R113). -/
  | wlquietUnreg
  /-- `IBEND` (R351). -/
  | ibend
  /-- `VACK` (R372). -/
  | vack
  /-- `TRAP` (R390). -/
  | trap
  /-- `TRET` (R390). -/
  | tret
  /-- `BKPT` (R390). -/
  | bkpt
  /-- `HALT` (R390). -/
  | halt
  /-- `PDEFER` (R393). -/
  | pdefer
  /-- `FRAGMENT_FUSE` (R91). -/
  | fragmentFuse (r : FragRef)
  /-- `NAP_EXPIRE` (R96). -/
  | napExpire (r : FragRef)
  /-- `WINDOW_COPY_LANDED` (R205). -/
  | windowCopyLanded (team w : Nat)
  /-- `CLASP_UPDATE` (R218). -/
  | claspUpdate (team addr : Nat)
  /-- `HOME_LINE_ACCESS` (R290). -/
  | homeLineAccess (line : Nat) (act : HomeAct)
  /-- `RED_ARRIVAL` (R292). -/
  | redArrival (die line : Nat) (op : MemRedOp) (ty : Ty) (offset : Nat) (operand : DWord)
  /-- `SIGNATURE_SQUASH` (R295). -/
  | signatureSquash (core line : Nat)
  /-- `L1_EVICTION` (R311). -/
  | l1Eviction (core line : Nat)
  /-- `REQUEST_REPLAY` (R310). -/
  | requestReplay (requester seq : Nat)
  /-- `CACHE_POWER_GATE` (R312). -/
  | cachePowerGate (core : Nat)
  /-- `CACHE_WAKE` (R312). -/
  | cacheWake (core : Nat)
  /-- `COPY_ENTRY_GRANT` (R224). -/
  | copyEntryGrant (team : Nat)
  /-- `COPY_LINE_TRANSFER` (R238). -/
  | copyLineTransfer (copy unit : Nat)
  /-- `FRAGMENT_UNPARK` (R197). -/
  | fragmentUnpark (r : FragRef)
  /-- `COPY_COMPLETE` (R241). -/
  | copyComplete (copy : Nat)
  /-- `COPY_FAULT` (R240). -/
  | copyFault (copy cause : Nat) (addr : Nat)
  /-- `TABLE_LANDED` (R258). -/
  | tableLanded (core : Nat) (tb : Bool)
  /-- `PRODUCER_FAULT` (R259). -/
  | producerFault (core cause : Nat) (addr : Nat)
  /-- `WORKLIST_QUIESCENT` (R113). -/
  | worklistQuiescent (die : Nat)
  /-- `SESSION_GRANT` (R339). -/
  | sessionGrant (die : Nat)
  /-- `IBFENCE_IN_FLIP` (R335). -/
  | ibfenceInFlip (r : FragRef)
  /-- `IBFENCE_OUT_FLIP` (R336). -/
  | ibfenceOutFlip (r : FragRef)
  /-- `SESSION_END` (R340). -/
  | sessionEnd (team group : Nat)
  /-- `IB_STEP` (R344). -/
  | ibStep (team group : Nat)
  /-- `IB_WATCHDOG_EXPIRY` (R352). -/
  | ibWatchdogExpiry (team group channel : Nat)
  /-- `COLLECTIVE_MESSAGE` (R364). -/
  | collectiveMessage (coll sender : Nat) (tag : Tag) (body : CollMsg)
  /-- `COLLECTIVE_STRAGGLER_TIMEOUT` (R378). -/
  | collectiveStragglerTimeout (coll : Nat)
  /-- `COLLECTIVE_COMPLETE` (R377). -/
  | collectiveComplete (coll : Nat)
  /-- `NOTIFICATION_ARRIVAL` (R380). -/
  | notificationArrival (sender fctx : Nat) (tag : Tag) (value : DWord)
  /-- `REMOTE_REQUEST_ARRIVAL` (R361). -/
  | remoteRequestArrival (sender : Nat) (seq : ReqNo) (tag : Tag) (line : Nat) (kind : RemoteKind)
  /-- `REMOTE_REPLY_ARRIVAL` (R362). -/
  | remoteReplyArrival (req : Nat) (tag : Tag) (reply : RemoteReply)
  /-- `FLIT_CRC_REPLAY` (R358). -/
  | flitCrcReplay (port : Nat)
  /-- `REQUEST_RETRANSMIT` (R358). -/
  | requestRetransmit (req : Nat)
  /-- `LINK_DOWN` (R360). -/
  | linkDown (port : Nat)
  /-- `LINK_TRAINING` (R357). -/
  | linkTraining (port : Nat) (extensions full : Bool)
  /-- `HEARTBEAT_SEND` (R365). -/
  | heartbeatSend
  /-- `HEARTBEAT_RECEIVE` (R365). -/
  | heartbeatReceive (sender : Nat)
  /-- `MEMBER_SUSPECT` (R366). -/
  | memberSuspect (member : Nat)
  /-- `SUSPICION` (R367). -/
  | suspicion (sender : Nat) (suspects : BitVec 288)
  /-- `PROPOSAL` (R367). -/
  | proposal (sender : Nat) (members : BitVec 288) (count : BitVec 16)
  /-- `ACCEPT` (R367). -/
  | accept (sender : Nat) (count : Ballot)
  /-- `COMMIT` (R367). -/
  | commit (sender : Nat) (members : BitVec 288) (count : BitVec 16)
  /-- `EXCLUSION_TIMEOUT` (R367). -/
  | exclusionTimeout
  /-- `JOIN_REQUEST` (R373). -/
  | joinRequest (sender : Nat) (session : BitVec 16)
  /-- `TRAP_ENTRY` (R386). -/
  | trapEntry (r : FragRef) (cause : BitVec 9) (mask : Mask) (info : DWord)
  /-- `IMPRECISE_CAUSE_DELIVERY` (R388). -/
  | impreciseCauseDelivery (r : FragRef)
  /-- `CONTEXT_FAULT_TRAP` (R324). -/
  | contextFaultTrap (r : FragRef)
  /-- `FETCH_LINE` (R45). -/
  | fetchLine (r : FragRef) (flip : BitVec 512)
  /-- `FETCH_LINE_REFETCH` (R45). -/
  | fetchLineRefetch (r : FragRef) (flip : BitVec 512)
  /-- `PORT_ISSUE` (R99). -/
  | portIssue (core port : Nat)
  /-- `INSTRUCTION_COMPLETE` (R50). -/
  | instructionComplete (team group id : Nat)
  /-- `FRAGMENT_PROMOTE` (R100). -/
  | fragmentPromote (r : FragRef)
  /-- `CORE_SWAP` (R103). -/
  | coreSwap (core : Nat)
  /-- `LAUNCH_RECORD_TAKE` (R108). -/
  | launchRecordTake (ctx list : Nat)
  /-- `TEAM_PLACE` (R84). -/
  | teamPlace (launch origin : Nat)
  /-- `TEAM_RETIRE` (R80). -/
  | teamRetire (team : Nat)
  /-- `LAUNCH_COMPLETE` (R109). -/
  | launchComplete (launch : Nat)
  /-- `CRETIRE` (R83). -/
  | cretire (core : BitVec 8)
  /-- `CORE_RETIRE_EFFECT` (R83). -/
  | coreRetireEffect (core : BitVec 8)
  /-- `TLBINV` (R277). -/
  | tlbinv (ctx : Nat) (value : DWord)
  /-- `PREEMPT_REQUEST` (R392). -/
  | preemptRequest (team : Nat)
  /-- `FORCED_STOP` (R392). -/
  | forcedStop (team group : Nat)
  /-- `TEAM_DRAIN` (R394). -/
  | teamDrain (team : Nat)
  /-- `IMAGE_WRITE` (R396). -/
  | imageWrite (team : Nat)
  /-- `CTXRES` (R395). -/
  | ctxres (ctx : Nat) (value : DWord)
  /-- `IMAGE_RESTORE` (R398). -/
  | imageRestore (ctx slot core : Nat)
  /-- `HELD_WRITE_PLACE` (R319). -/
  | heldWritePlace
  /-- `BALLOON_RECLAIM` (R320). -/
  | balloonReclaim
  /-- `CLOCK_SWEEP` (R321). -/
  | clockSweep
  /-- `EVICTED_FRAME_RETURN` (R323). -/
  | evictedFrameReturn (frame : Nat)
  /-- `RECLAIM_TIMEOUT` (R324). -/
  | reclaimTimeout
  /-- `CAPCMD_ASSIGN` (R327). -/
  | capcmdAssign (count : BitVec 20)
  /-- `CAPCMD_RETURN` (R327). -/
  | capcmdReturn (count : BitVec 20)
  /-- `CAPCMD_PIN` (R327). -/
  | capcmdPin (count : BitVec 20)
  /-- `CAPCMD_UNPIN` (R327). -/
  | capcmdUnpin (count : BitVec 20)
  /-- `CAPCMD_STRIPE_ON` (R327). -/
  | capcmdStripeOn (count : BitVec 20)
  /-- `CAPCMD_STRIPE_OFF` (R327). -/
  | capcmdStripeOff (count : BitVec 20)
  /-- `LOCKET_PRECOPY` (R401). -/
  | locketPrecopy
  /-- `LOCKET_STOP_AND_COPY` (R402). -/
  | locketStopAndCopy
  /-- `LOCKET_ABORT` (R400). -/
  | locketAbort
  /-- `LOCKET_RECEIVE` (R400). -/
  | locketReceive
  /-- `LOCKET_MESSAGE` (R403). -/
  | locketMessage (seq : Nat) (body : LocketBody)
  /-- `OWNCLAIM_CLAIM` (R406). -/
  | ownclaimClaim (m : Master) (prio : BitVec 8) (nonce : BitVec 32)
  /-- `ELECTION_CLOSE` (R406). -/
  | electionClose
  /-- `OWNCLAIM_HAND` (R407). -/
  | ownclaimHand (m : Master) (succ : BitVec 2)
  /-- `OWNER_PATH_TIMEOUT` (R407). -/
  | ownerPathTimeout
  /-- `HOSTIRQ_ENABLE` (R409). -/
  | hostirqEnable (en : BitVec 5)
  /-- `HOST_ACCESS` (R408). -/
  | hostAccess (act : HostAct)
  /-- `FIRMWARE_LOAD` (R410). -/
  | firmwareLoad (version : FwImage) (rsa slh : Bool)
  /-- `ATTESTATION` (R411). -/
  | attestation (nonce : DWord) (peer : Option AttestPeer)
  /-- `PACKAGE_RESET` (R412). -/
  | packageReset
  /-- `POWER_THROTTLE` (R413). -/
  | powerThrottle (watts : BitVec 16)
  /-- `REGISTER_WRITE` (R404). -/
  | registerWrite (m : Master) (sreg : BitVec 12) (value : DWord)
  /-- `LOCKET_ACKNOWLEDGEMENT` (R402). -/
  | locketAcknowledgement (status : Nat)
  /-- `PRE_COPY_ROUND_END` (R401). -/
  | preCopyRoundEnd
  /-- `SCALE_OUT_LINK_FAILURE` (R400). -/
  | scaleOutLinkFailure
  /-- `HOST_STORE_ACKNOWLEDGEMENT` (R296). -/
  | hostStoreAcknowledgement
  /-- `JOIN_REFUSAL` (R373). -/
  | joinRefusal (sender : Nat)
deriving DecidableEq, Repr

/-- What a 96-bit slot holds: the common header (R56), the instruction, and, for an instruction that has no operand field
of its own (a constructor without arguments), bits [80:0] of the slot less fn: the immediate of `trap`, `bkpt` and `pdefer`, the live
state of the live word, and zero elsewhere. -/
structure Slot where
  hdr : Hdr
  body : BitVec 81
  ins : Instr
deriving DecidableEq, Repr

end Sys2Proof
end

