-- ==== Sys2Proof/WellFormed.lean ====
section
/-!
DEFINITION. Sys2Proof/WellFormed.lean: which encodings are legal. `Instr.legal` says, for each instruction, which of
the checks of R65 it fails by its own fields: a nonzero unused field or a reserved value (check 3, cause 0x002), a type
that is not legal (check 4, cause 0x010), and an odd register for a 64-bit value (R121, cause 0x002, made after R65).
-/

namespace Sys2Proof

namespace Ty

/-- The width of a type in bits (R15, R16, R21). -/
def bits : Ty → Nat
  | .n8 | .i8 | .e4m3 | .e5m2 | .hs8 => 8
  | .n16 | .i16 | .f16 | .bf16 => 16
  | .n32 | .i32 | .f32 => 32
  | .n64 | .i64 => 64
  | .e2m1 | .hs4 => 4

/-- Signed integer types. -/
def signed : Ty → Bool
  | .i8 | .i16 | .i32 | .i64 => true
  | _ => false

/-- Integer types (R15). -/
def isInt : Ty → Bool
  | .n8 | .n16 | .n32 | .n64 | .i8 | .i16 | .i32 | .i64 => true
  | _ => false

/-- All integer types. -/
def ints : List Ty := [.n8, .n16, .n32, .n64, .i8, .i16, .i32, .i64]

/-- n32, i32, n64 and i64. -/
def four : List Ty := [.n32, .i32, .n64, .i64]

/-- Every type. -/
def all : List Ty :=
  [.n8, .n16, .n32, .n64, .i8, .i16, .i32, .i64, .f32, .f16, .bf16, .e4m3, .e5m2, .e2m1, .hs4, .hs8]

/-- The types of `cvtpk` and `cvtun` (R162). -/
def packed : List Ty := [.f16, .bf16, .i16, .n16, .e4m3, .e5m2, .hs8, .i8, .n8, .e2m1, .hs4]

/-- Elements of a packed register (R162), 0 for a type that does not pack. -/
def packN : Ty → Nat
  | .f16 | .bf16 | .i16 | .n16 => 2
  | .e4m3 | .e5m2 | .hs8 | .i8 | .n8 => 4
  | .e2m1 | .hs4 => 8
  | _ => 0

/-- The ty code (R60). -/
def code : Ty → BitVec 4
  | .n8 => 0x0 | .n16 => 0x1 | .n32 => 0x2 | .n64 => 0x3 | .i8 => 0x4 | .i16 => 0x5 | .i32 => 0x6 | .i64 => 0x7
  | .f32 => 0x8 | .f16 => 0x9 | .bf16 => 0xA | .e4m3 => 0xB | .e5m2 => 0xC | .e2m1 => 0xD | .hs4 => 0xE | .hs8 => 0xF

/-- The type of a ty code (R60). -/
def ofCode (c : BitVec 4) : Ty :=
  match c.toNat with
  | 0 => .n8 | 1 => .n16 | 2 => .n32 | 3 => .n64 | 4 => .i8 | 5 => .i16 | 6 => .i32 | 7 => .i64
  | 8 => .f32 | 9 => .f16 | 10 => .bf16 | 11 => .e4m3 | 12 => .e5m2 | 13 => .e2m1 | 14 => .hs4 | _ => .hs8

end Ty

/-- The checks an encoding fails by its fields alone: `reserved` is check 3 of R65, `badType` check 4, and
`oddReg` the check of R121. -/
structure Legal where
  reserved : Bool
  badType : Bool
  oddReg : Bool
deriving DecidableEq, Repr

namespace Legal

/-- No check failed. -/
def clean : Legal := ⟨false, false, false⟩

def orReserved (l : Legal) (b : Bool) : Legal := { l with reserved := l.reserved || b }

def orType (l : Legal) (b : Bool) : Legal := { l with badType := l.badType || b }

def orOdd (l : Legal) (b : Bool) : Legal := { l with oddReg := l.oddReg || b }

end Legal

/-- Whether a register number is odd (R121). -/
def odd (r : BitVec 8) : Bool := r.getLsbD 0

/-- pr = 7 with pn = 1, or fl = 11 (R57, R56). -/
def Hdr.bad (h : Hdr) : Bool := (h.pr == 7 && h.pn) || h.fl == 3

/-- An instruction marked fixed needs pr = 7 and pn = 0 (R93). -/
def Hdr.fixed (h : Hdr) : Bool := h.pr == 7 && !h.pn

/-- What an instruction asks of its ty field. -/
inductive TyRule where
  | unused
  | oneOf (l : List Ty)
deriving DecidableEq, Repr

def TyRule.nonzeroUnused (r : TyRule) (t : Ty) : Bool :=
  match r with
  | .unused => t != .n8
  | .oneOf _ => false

def TyRule.bad (r : TyRule) (t : Ty) : Bool :=
  match r with
  | .unused => false
  | .oneOf l => !l.contains t

/-- Which fields of format A an instruction uses: the md bits it allows, its bsel values (none when it has no b
operand), the imm bits it allows beside an immediate b, the operands that are pairs for a 64-bit type (R121), and the
largest value of a register field that names a predicate. -/
structure APat where
  ty : TyRule
  sat : Bool := false
  rm : Bool := false
  na : Bool := false
  nb : Bool := false
  nc : Bool := false
  bs : List (BitVec 2) := [0, 1, 2]
  useD : Bool := true
  useA : Bool := true
  useC : Bool := false
  immMask : BitVec 32 := 0
  pd : Bool := false
  pa : Bool := false
  pb : Bool := false
  pc : Bool := false
  maxD : BitVec 8 := 255
  maxA : BitVec 8 := 255
  maxB : BitVec 8 := 255
  maxC : BitVec 8 := 255

def FmtA.legal (h : Hdr) (f : FmtA) (p : APat) : Legal where
  reserved :=
    h.bad || p.ty.nonzeroUnused f.ty
    || (!p.useD && f.d != 0) || (!p.useA && f.a != 0) || (!p.useC && f.c != 0)
    || (if p.bs.isEmpty then f.bsel != 0 || f.b != 0
        else !p.bs.contains f.bsel || (f.bsel == 2 && f.b != 0))
    || (if f.bsel == 2 then false else f.imm &&& ~~~p.immMask != 0)
    || (!p.sat && f.sat) || (!p.rm && f.rm != .rne) || (!p.na && f.na) || (!p.nb && f.nb) || (!p.nc && f.nc)
    || decide (p.maxD < f.d) || decide (p.maxA < f.a) || (f.bsel == 0 && decide (p.maxB < f.b))
    || decide (p.maxC < f.c)
  badType := p.ty.bad f.ty
  oddReg :=
    f.ty.bits == 64 &&
      ((p.pd && odd f.d) || (p.pa && odd f.a) || (p.pb && f.bsel == 0 && odd f.b) || (p.pc && odd f.c))

/-- The source type of `cvt` (R160). -/
def FmtA.cvtSrc (f : FmtA) : Ty := Ty.ofCode (f.imm.extractLsb' 0 4)

/-- Which fields of format B an instruction uses. -/
structure BPat where
  target : Bool := false
  joinTo : Bool := false
  useA : Bool := false

def FmtB.legal (h : Hdr) (f : FmtB) (p : BPat) : Legal where
  reserved :=
    h.bad || f.zero != 0 || (!p.useA && f.a != 0)
    || (if p.target then decide (4 < f.tslot.toNat) else f.tslot != 0 || f.tline != 0)
    || (if p.joinTo then decide (4 < f.jslot.toNat) else f.jslot != 0 || f.jline != 0)
  badType := false
  oddReg := false

/-- Which fields of format T an instruction uses (R176). -/
structure TPat where
  ty : TyRule := .unused
  md : Bool := false
  ma : Bool := false
  mb : Bool := false
  mc : Bool := false
  sa : Bool := false
  sb : Bool := false
  tmods : List (BitVec 8) := [0]
  immMask : BitVec 32 := 0

/-- tmod bit 0 of `mma` and `mmas`: no C operand (R176). -/
def FmtT.zc (f : FmtT) : Bool := f.tmod.getLsbD 0

def FmtT.legal (h : Hdr) (f : FmtT) (p : TPat) : Legal where
  reserved :=
    h.bad || p.ty.nonzeroUnused f.ty || (!p.md && f.md != 0) || (!p.ma && f.ma != 0) || (!p.mb && f.mb != 0)
    || (!p.mc && f.mc != 0) || (!p.sa && f.sa != 0) || (!p.sb && f.sb != 0) || !p.tmods.contains f.tmod
    || f.imm &&& ~~~p.immMask != 0
  badType := p.ty.bad f.ty
  oddReg := false

/-- Which fields of format E an instruction uses; `peer` allows the peer form of R209. -/
structure EPat where
  subs : List (BitVec 4) := [0]
  d : Bool := false
  a : Bool := false
  b : Bool := false
  ts : Bool := false
  wq : Bool := false
  bt : Bool := false
  immMask : BitVec 32 := 0
  peer : Bool := false
  maxD : BitVec 8 := 255
  maxA : BitVec 8 := 255
  maxB : BitVec 8 := 255

/-- A local form has imm zero; a peer form has imm[16] set, a route below and zeros above (R209). -/
def FmtE.peerOk (f : FmtE) : Bool := f.imm == 0 || f.imm.extractLsb' 16 16 == 1

def FmtE.legal (h : Hdr) (f : FmtE) (p : EPat) : Legal where
  reserved :=
    h.bad || f.zero != 0 || !p.subs.contains f.sub || (!p.d && f.d != 0) || (!p.a && f.a != 0) || (!p.b && f.b != 0)
    || (!p.ts && f.ts != 0) || (!p.wq && f.wq != 0) || (!p.bt && f.bt != 0)
    || (if p.peer then !f.peerOk else f.imm &&& ~~~p.immMask != 0)
    || decide (p.maxD < f.d) || decide (p.maxA < f.a) || decide (p.maxB < f.b)
  badType := false
  oddReg := false

/-- `atms`: sub is the type (R201). -/
def FmtE.atmsLegal (h : Hdr) (f : FmtE) (op : AtmOp) : Legal :=
  let t := Ty.ofCode f.sub
  let l := f.legal h { subs := [f.sub], d := true, a := true, b := true, immMask := 0xFFFFFFFF }
  ((l.orType (!([Ty.n32, .n64, .i32, .i64, .f32].contains t))).orType
    (t == .f32 && (op == .and || op == .or || op == .xor))).orOdd
    (t.bits == 64 && (odd f.d || odd f.b || (op == .cas && f.b.toNat % 4 != 0)))

/-- The clasp address of `pdstart` is used only with imm[31] (R249). -/
def FmtE.claspShown (f : FmtE) : Bool := f.imm.getLsbD 31 || f.imm == 0

/-- Which fields of format M an instruction uses. -/
structure MPat where
  ty : TyRule
  useD : Bool := true
  ixs : List (BitVec 2) := [0, 1, 2]
  anyCnt : Bool := false
  cnt : BitVec 4 := 0
  hintMask : BitVec 5 := 0x18
  maxD : BitVec 8 := 255

def FmtM.legal (h : Hdr) (f : FmtM) (p : MPat) : Legal where
  reserved :=
    h.bad || f.zero != 0 || p.ty.nonzeroUnused f.ty || (!p.useD && f.d != 0) || !p.ixs.contains f.ix
    || (f.ix == 2 && f.x != 0) || (!p.anyCnt && f.cnt != p.cnt) || f.hint &&& ~~~p.hintMask != 0
    || decide (p.maxD < f.d)
  badType := p.ty.bad f.ty
  oddReg := false

/-- `ld`, `st` and `vstc` (R269): cnt 0 for the narrow types, any for n32, odd with an even d for n64. -/
def FmtM.ldLegal (h : Hdr) (f : FmtM) (tys : List Ty) : Legal :=
  let l := f.legal h { ty := .oneOf tys, anyCnt := true }
  (l.orReserved (tys.contains f.ty &&
    match f.ty with
    | .n32 => false
    | .n64 => !f.cnt.getLsbD 0
    | _ => f.cnt != 0)).orOdd (f.ty == .n64 && odd f.d)

/-- `atm` and `red` (R308): the register count follows the type and the form. -/
def FmtM.atmLegal (h : Hdr) (f : FmtM) (bitwise cas : Bool) : Legal :=
  let tys : List Ty := [.n32, .i32, .n64, .i64, .f32, .bf16]
  let wide := f.ty.bits == 64
  let l := f.legal h
    { ty := .oneOf tys, anyCnt := !tys.contains f.ty
      cnt := if cas then (if wide then 3 else 1) else (if wide then 1 else 0) }
  let l := l.orOdd (wide && odd f.d)
  l.orType (bitwise && (f.ty == .f32 || f.ty == .bf16))

/-- `ldv` and `casv` (R302): hint bit 0 is the uniform form of `ldv`. -/
def FmtM.versionLegal (h : Hdr) (f : FmtM) (tys : List Ty) (uniformForm : Bool) : Legal :=
  let u := f.hint.getLsbD 0
  if u && uniformForm then
    f.legal h { ty := .oneOf tys, ixs := [1, 2], hintMask := 1 }
  else
    (f.legal h { ty := .oneOf tys, cnt := if f.ty == .n64 then 3 else 2, hintMask := 0 }).orOdd
      (f.ty == .n64 && odd f.d)

/-- `verq` (R302). -/
def FmtM.verqLegal (h : Hdr) (f : FmtM) : Legal :=
  if f.hint.getLsbD 0 then f.legal h { ty := .oneOf [.n8], ixs := [1, 2], hintMask := 1 }
  else f.legal h { ty := .oneOf [.n8], cnt := 1, hintMask := 0 }

/-- The assigned special-register numbers (R81 and the register tables of every chapter). -/
def assignedSreg (n : Nat) : Bool :=
  n ≤ 0x008 || (0x010 ≤ n && n ≤ 0x018) || (0x020 ≤ n && n ≤ 0x030)
  || (0x400 ≤ n && n ≤ 0x406) || (0x409 ≤ n && n ≤ 0x40C) || (0x410 ≤ n && n ≤ 0x430) || n == 0x440
  || n == 0x448 || n == 0x449 || (0x450 ≤ n && n ≤ 0x456) || (0x460 ≤ n && n ≤ 0x463) || (0x470 ≤ n && n ≤ 0x47A)
  || (0x800 ≤ n && n ≤ 0x806) || (0x810 ≤ n && n ≤ 0x81C) || n == 0x820 || n == 0x821
  || (0x830 ≤ n && n ≤ 0x835) || (0x840 ≤ n && n ≤ 0x845) || (0x850 ≤ n && n ≤ 0x854)

/-- The registers that software can write: a field of theirs is RW, WO or W1C (R390). `lane` takes no write (R81). -/
def writableSreg (n : Nat) : Bool :=
  assignedSreg n && !((1 ≤ n && n ≤ 7) || n == 0x404 || (0x410 ≤ n && n ≤ 0x42F) || (0x460 ≤ n && n ≤ 0x463) || n == 0x812
    || n == 0x813 || n == 0x81C || n == 0x844 || n == 0x845)

/-- Which fields of format S an instruction uses. -/
structure SPat where
  sreg : Bool := false
  a : Bool := false
  immMask : BitVec 56 := 0

def FmtS.legal (h : Hdr) (f : FmtS) (p : SPat) : Legal where
  reserved :=
    h.bad || (if p.sreg then !assignedSreg f.sreg.toNat else f.sreg != 0) || (!p.a && f.a != 0)
    || f.imm &&& ~~~p.immMask != 0
  badType := false
  oddReg := false

/-- An instruction with no operand field of its own: every bit outside `mask` is zero (R58). -/
def bodyLegal (h : Hdr) (body : BitVec 81) (mask : BitVec 81) : Legal where
  reserved := h.bad || body &&& ~~~mask != 0
  badType := false
  oddReg := false

/-- The checks of R65 and R121 that depend on a slot's own fields: the header, the body bits of an instruction without
operand fields, and the instruction. -/
def Instr.legal (h : Hdr) (body : BitVec 81) : Instr → Legal
  | .nop => .clean
  | .liveWord => .clean
  | .bra f => f.legal h { target := true, joinTo := true }
  | .braU f => f.legal h { target := true }
  | .jmp f => (f.legal h { target := true }).orReserved (!h.fixed)
  | .jmpi f => (f.legal h { useA := true }).orReserved (!h.fixed)
  | .call f => ((f.legal h { target := true, useA := true }).orReserved (!h.fixed)).orReserved (odd f.a)
  | .ret f => ((f.legal h { useA := true }).orReserved (!h.fixed)).orReserved (odd f.a)
  | .join => (bodyLegal h body 0).orReserved (!h.fixed)
  | .fragmentFuse _ => .clean
  | .exit => bodyLegal h body 0
  | .loop f => f.legal h { target := true, useA := true }
  | .mfem f => (f.legal h { ty := .unused, bs := [], useA := false }).orReserved (!h.fixed)
  | .mtem f => (f.legal h { ty := .unused, bs := [1, 2], useD := false, useA := false }).orReserved (!h.fixed)
  | .mfom f => (f.legal h { ty := .unused, bs := [], useA := false }).orReserved (!h.fixed)
  | .nap f => f.legal h { ty := .unused, bs := [], useD := false, useA := false, immMask := 0xFFFF }
  | .napExpire _ => .clean
  | .yield => bodyLegal h body 0
  | .spawn f => f.legal h { subs := [0, 1, 2, 3], d := true, a := true }
  | .add f => f.legal h { ty := .oneOf Ty.ints, sat := true, pd := true, pa := true, pb := true }
  | .sub f => f.legal h { ty := .oneOf Ty.ints, sat := true, pd := true, pa := true, pb := true }
  | .addc f => f.legal h { ty := .oneOf [.n32, .n64], nc := f.c != 7, useC := true, maxC := 7, pd := true, pa := true, pb := true }
  | .subb f => f.legal h { ty := .oneOf [.n32, .n64], nc := f.c != 7, useC := true, maxC := 7, pd := true, pa := true, pb := true }
  | .min f => f.legal h { ty := .oneOf Ty.ints, pd := true, pa := true, pb := true }
  | .max f => f.legal h { ty := .oneOf Ty.ints, pd := true, pa := true, pb := true }
  | .abs f => f.legal h { ty := .oneOf Ty.ints, sat := true, bs := [], pd := true, pa := true }
  | .neg f => f.legal h { ty := .oneOf Ty.ints, sat := true, bs := [], pd := true, pa := true }
  | .mul f => f.legal h { ty := .oneOf Ty.four, sat := true, pd := true, pa := true, pb := true }
  | .mulh f => f.legal h { ty := .oneOf [.i32, .i64], pd := true, pa := true, pb := true }
  | .mulhu f => f.legal h { ty := .oneOf [.n32, .n64], pd := true, pa := true, pb := true }
  | .mad f => f.legal h { ty := .oneOf Ty.four, sat := true, useC := true, pd := true, pa := true, pb := true, pc := true }
  | .madw f => (f.legal h { ty := .oneOf [.i32, .n32], sat := true, useC := true }).orOdd (odd f.d || odd f.c)
  | .div f => f.legal h { ty := .oneOf [.i32, .i64], sat := true, pd := true, pa := true, pb := true }
  | .divu f => f.legal h { ty := .oneOf [.n32, .n64], pd := true, pa := true, pb := true }
  | .rem f => f.legal h { ty := .oneOf [.i32, .i64], pd := true, pa := true, pb := true }
  | .remu f => f.legal h { ty := .oneOf [.n32, .n64], pd := true, pa := true, pb := true }
  | .and f => f.legal h { ty := .oneOf Ty.four, pd := true, pa := true, pb := true }
  | .or f => f.legal h { ty := .oneOf Ty.four, pd := true, pa := true, pb := true }
  | .xor f => f.legal h { ty := .oneOf Ty.four, pd := true, pa := true, pb := true }
  | .not f => f.legal h { ty := .oneOf Ty.four, bs := [], pd := true, pa := true }
  | .andn f => f.legal h { ty := .oneOf Ty.four, pd := true, pa := true, pb := true }
  | .lop3 f => f.legal h { ty := .oneOf Ty.four, bs := [0, 1], useC := true, immMask := 0xFF, pd := true, pa := true, pb := true, pc := true }
  | .shl f => f.legal h { ty := .oneOf Ty.four, pd := true, pa := true }
  | .shr f => f.legal h { ty := .oneOf Ty.four, pd := true, pa := true }
  | .sra f => f.legal h { ty := .oneOf Ty.four, pd := true, pa := true }
  | .rol f => f.legal h { ty := .oneOf Ty.four, pd := true, pa := true }
  | .ror f => f.legal h { ty := .oneOf Ty.four, pd := true, pa := true }
  | .bfx f => f.legal h { ty := .oneOf Ty.four, pd := true, pa := true }
  | .bfi f => f.legal h { ty := .oneOf Ty.four, useC := true, pd := true, pa := true, pc := true }
  | .popc f => f.legal h { ty := .oneOf [.n32, .n64], bs := [], pa := true }
  | .clz f => f.legal h { ty := .oneOf [.n32, .n64], bs := [], pa := true }
  | .ctz f => f.legal h { ty := .oneOf [.n32, .n64], bs := [], pa := true }
  | .brev f => f.legal h { ty := .oneOf [.n32, .n64], bs := [], pd := true, pa := true }
  | .bperm f => f.legal h { ty := .oneOf [.n32], useC := true }
  | .cmp _ f => f.legal h { ty := .oneOf Ty.ints, maxD := 6, nc := f.c != 7, useC := true, maxC := 7, pa := true, pb := true }
  | .mov f => f.legal h { ty := .oneOf Ty.four, useA := false, bs := [0, 1], pd := true, pb := true }
  | .movi f => f.legal h { ty := .oneOf Ty.four, useA := false, bs := [2], pd := true }
  | .sel f => f.legal h { ty := .oneOf [.n32, .n64], nc := true, useC := true, maxC := 6, pd := true, pa := true, pb := true }
  | .sext f => (f.legal h { ty := .oneOf [.i8, .i16, .i32], bs := [] }).orOdd (f.ty == .i32 && odd f.d)
  | .zext f => (f.legal h { ty := .oneOf [.n8, .n16, .n32], bs := [] }).orOdd (f.ty == .n32 && odd f.d)
  | .lea f => (f.legal h { ty := .oneOf Ty.four, useC := true, pd := true, pa := true }).orReserved (decide (f.ty.bits ≤ f.c.toNat))
  | .pand f => f.legal h { ty := .unused, na := true, nb := true, bs := [0], maxD := 6, maxA := 7, maxB := 7 }
  | .por f => f.legal h { ty := .unused, na := true, nb := true, bs := [0], maxD := 6, maxA := 7, maxB := 7 }
  | .pxor f => f.legal h { ty := .unused, na := true, nb := true, bs := [0], maxD := 6, maxA := 7, maxB := 7 }
  | .pnot f => f.legal h { ty := .unused, na := true, bs := [], maxD := 6, maxA := 7 }
  | .pmfs f => f.legal h { ty := .unused, bs := [], useA := false }
  | .pmts f => (f.legal h { ty := .unused, bs := [2], useD := false }).orReserved (f.imm &&& 0xFFFFFF80#32 != 0)
  | .shfl _ f => f.legal h { ty := .oneOf [.n32, .n64], useC := true, maxC := 7, pd := true, pa := true, pb := true }
  | .vany f => f.legal h { ty := .unused, na := true, bs := [], maxD := 6, maxA := 7 }
  | .vall f => f.legal h { ty := .unused, na := true, bs := [], maxD := 6, maxA := 7 }
  | .vbal f => f.legal h { ty := .unused, na := true, bs := [], maxA := 7 }
  | .vred op f => f.legal h { ty := .oneOf Ty.four, sat := op == .add, bs := [], pa := true }
  | .vscan _ op f => f.legal h { ty := .oneOf Ty.four, sat := op == .add, bs := [], pd := true, pa := true }
  | .vcomp f => f.legal h { ty := .oneOf [.n32, .n64], nc := true, bs := [1], useC := true, maxC := 6, pd := true, pa := true }
  | .mfl f => f.legal h { ty := .oneOf [.n32, .n64], bs := [1, 2], pa := true }
  | .mtl f => f.legal h { ty := .oneOf [.n32, .n64], bs := [1, 2], pd := true }
  | .uadd f => f.legal h { ty := .oneOf Ty.four, sat := true, bs := [1, 2] }
  | .usub f => f.legal h { ty := .oneOf Ty.four, sat := true, bs := [1, 2] }
  | .umin f => f.legal h { ty := .oneOf Ty.four, bs := [1, 2] }
  | .umax f => f.legal h { ty := .oneOf Ty.four, bs := [1, 2] }
  | .umul f => f.legal h { ty := .oneOf Ty.four, sat := true, bs := [1, 2] }
  | .umad f => f.legal h { ty := .oneOf Ty.four, sat := true, bs := [1, 2], useC := true }
  | .uand f => f.legal h { ty := .oneOf Ty.four, bs := [1, 2] }
  | .uor f => f.legal h { ty := .oneOf Ty.four, bs := [1, 2] }
  | .uxor f => f.legal h { ty := .oneOf Ty.four, bs := [1, 2] }
  | .ushl f => f.legal h { ty := .oneOf Ty.four, bs := [1, 2] }
  | .ushr f => f.legal h { ty := .oneOf Ty.four, bs := [1, 2] }
  | .usra f => f.legal h { ty := .oneOf Ty.four, bs := [1, 2] }
  | .ubfx f => f.legal h { ty := .oneOf Ty.four, bs := [1, 2] }
  | .ubfi f => f.legal h { ty := .oneOf Ty.four, bs := [1, 2], useC := true }
  | .upopc f => f.legal h { ty := .oneOf [.n32, .n64], bs := [] }
  | .ucmp _ f => f.legal h { ty := .oneOf Ty.four, maxD := 6, nc := f.c != 7, bs := [1, 2], useC := true, maxC := 7 }
  | .umov f => f.legal h { ty := .oneOf Ty.four, useA := false, bs := [1] }
  | .umovi f => f.legal h { ty := .oneOf Ty.four, useA := false, bs := [2] }
  | .ulea f => (f.legal h { ty := .oneOf Ty.four, bs := [1, 2], useC := true }).orReserved (decide (f.ty.bits ≤ f.c.toNat))
  | .fadd f => f.legal h { ty := .oneOf [.f32], sat := true, rm := true, na := true, nb := true }
  | .fsub f => f.legal h { ty := .oneOf [.f32], sat := true, rm := true, na := true, nb := true }
  | .fmul f => f.legal h { ty := .oneOf [.f32], sat := true, rm := true, na := true, nb := true }
  | .ffma f => f.legal h { ty := .oneOf [.f32], sat := true, rm := true, na := true, nb := true, nc := true, useC := true }
  | .ffms f => f.legal h { ty := .oneOf [.f32], sat := true, rm := true, na := true, nb := true, nc := true, useC := true }
  | .fnma f => f.legal h { ty := .oneOf [.f32], sat := true, rm := true, na := true, nb := true, nc := true, useC := true }
  | .fmin f => f.legal h { ty := .oneOf [.f32], na := true, nb := true }
  | .fmax f => f.legal h { ty := .oneOf [.f32], na := true, nb := true }
  | .fcmp _ f => (f.legal h { ty := .oneOf [.f32, .f16, .bf16], maxD := 6, na := true, nb := true, nc := f.c != 7, useC := true, maxC := 7 }).orReserved (f.ty.bits == 16 && f.bsel == 2 && f.imm.extractLsb' 16 16 != 0)
  | .fdiv f => f.legal h { ty := .oneOf [.f32], sat := true, rm := true, na := true, nb := true }
  | .fsqrt f => f.legal h { ty := .oneOf [.f32], rm := true, na := true, bs := [] }
  | .frcp f => f.legal h { ty := .oneOf [.f32], na := true, bs := [] }
  | .frsq f => f.legal h { ty := .oneOf [.f32], na := true, bs := [] }
  | .fex2 f => f.legal h { ty := .oneOf [.f32], na := true, bs := [] }
  | .flg2 f => f.legal h { ty := .oneOf [.f32], na := true, bs := [] }
  | .fsin f => f.legal h { ty := .oneOf [.f32], na := true, bs := [] }
  | .fcos f => f.legal h { ty := .oneOf [.f32], na := true, bs := [] }
  | .ftanh f => f.legal h { ty := .oneOf [.f32], na := true, bs := [] }
  | .frnd f => f.legal h { ty := .oneOf [.f32], rm := true, na := true, bs := [] }
  | .ffrac f => f.legal h { ty := .oneOf [.f32], na := true, bs := [] }
  | .fclass f => f.legal h { ty := .oneOf [.f32, .f16, .bf16], na := true, bs := [] }
  | .fscale f => f.legal h { ty := .oneOf [.f32], sat := true, rm := true, na := true }
  | .hadd2 f => f.legal h { ty := .oneOf [.f16, .bf16], sat := true, rm := true, na := true, nb := true }
  | .hmul2 f => f.legal h { ty := .oneOf [.f16, .bf16], sat := true, rm := true, na := true, nb := true }
  | .hfma2 f => f.legal h { ty := .oneOf [.f16, .bf16], sat := true, rm := true, na := true, nb := true, nc := true, useC := true }
  | .hmin2 f => f.legal h { ty := .oneOf [.f16, .bf16], na := true, nb := true }
  | .hmax2 f => f.legal h { ty := .oneOf [.f16, .bf16], na := true, nb := true }
  | .cvt f => ((f.legal h { ty := .oneOf Ty.all, rm := true, bs := [], immMask := 0x7F, pd := true }).orType (f.cvtSrc == f.ty)).orOdd (f.cvtSrc.bits == 64 && odd f.a)
  | .cvtpk f => (f.legal h { ty := .oneOf Ty.packed, rm := true, bs := [], immMask := 7 }).orReserved (f.ty.packN != 0 && f.a.toNat % f.ty.packN != 0)
  | .cvtun f => (f.legal h { ty := .oneOf Ty.packed, rm := true, bs := [], immMask := 7 }).orReserved (f.ty.packN != 0 && f.d.toNat % f.ty.packN != 0)
  | .dp2Bf16 f => f.legal h { ty := .oneOf [.f32], na := true, nb := true, nc := true, useC := true }
  | .dp2F16 f => f.legal h { ty := .oneOf [.f32], na := true, nb := true, nc := true, useC := true }
  | .dp4E4m3 f => f.legal h { ty := .oneOf [.f32], na := true, nb := true, nc := true, useC := true }
  | .dp4E5m2 f => f.legal h { ty := .oneOf [.f32], na := true, nb := true, nc := true, useC := true }
  | .dp4Hs8 f => f.legal h { ty := .oneOf [.i32], sat := true, useC := true }
  | .dp8Hs4 f => f.legal h { ty := .oneOf [.i32], sat := true, useC := true }
  | .dp8E2m1 f => f.legal h { ty := .oneOf [.f32], na := true, nb := true, nc := true, useC := true }
  | .dp4I8 f => f.legal h { ty := .oneOf [.i32], sat := true, useC := true }
  | .dp4N8 f => f.legal h { ty := .oneOf [.n32], sat := true, useC := true }
  | .mxs f => f.legal h { ty := .oneOf [.f32, .i32], sat := true, rm := true, na := true }
  | .mzero f => f.legal h { md := true }
  | .mld f => f.legal h { md := true, sa := true, immMask := 0xFFFFFFFF }
  | .mst f => f.legal h { ma := true, sa := true, immMask := 0xFFFFFFFF }
  | .mlaneGet f => f.legal h { ma := true, sa := true }
  | .mlanePut f => f.legal h { md := true, sa := true, tmods := [1] }
  | .mxlaneGet f => f.legal h { ma := true, sa := true, sb := true, tmods := [0, 2] }
  | .mxlanePut f => f.legal h { md := true, sa := true, sb := true, tmods := [1, 3] }
  | .mma f => (f.legal h { ty := .oneOf [.bf16, .f16, .e4m3, .e5m2, .hs8, .hs4, .e2m1, .i8], md := true, ma := true, mb := true, mc := !f.zc, sa := f.ty == .e2m1, sb := f.ty == .e2m1, tmods := [0, 1, 2, 3, 4, 5, 6, 7] })
  | .mmas f => (f.legal h { ty := .oneOf [.e4m3, .e5m2, .hs8, .hs4, .e2m1], md := true, ma := true, mb := true, mc := !f.zc, sa := true, sb := true, tmods := [0, 1, 2, 3, 4, 5, 6, 7] })
  | .mgath f => f.legal h { md := true, sa := true, sb := true, immMask := 0xFFFF }
  | .mcvt f => f.legal h { md := true, ma := true, tmods := [0, 1, 2, 3], immMask := 7 }
  | .madd f => f.legal h { md := true, ma := true, mb := true, tmods := [0, 1, 2, 3, 4, 5, 6, 7, 8, 9, 10, 11, 12, 13, 14, 15] }
  | .mtr f => f.legal h { md := true, ma := true }
  | .mrel f => f.legal h { immMask := 0xFFFF }
  | .lds f => (f.legal h { subs := [0, 1, 2, 3, 4, 5], d := true, a := true, immMask := 0xFFFFFFFF }).orOdd (f.sub == 5 && odd f.d)
  | .sts f => (f.legal h { subs := [0, 2, 4, 5], a := true, b := true, immMask := 0xFFFFFFFF }).orOdd (f.sub == 5 && odd f.b)
  | .atms op f => f.atmsLegal h op
  | .pld f => (f.legal h { subs := [0, 1, 2, 3, 4, 5], d := true, a := true, immMask := 0xFFFFFFFF }).orOdd (f.sub == 5 && odd f.d)
  | .pst f => (f.legal h { subs := [0, 2, 4, 5], a := true, b := true, immMask := 0xFFFFFFFF }).orOdd (f.sub == 5 && odd f.b)
  | .wbind f => f.legal h { a := true, b := true, ts := true, wq := true }
  | .wtouch f => f.legal h { wq := true }
  | .windowCopyLanded _ _ => .clean
  | .wstat f => f.legal h { d := true, wq := true }
  | .wunbind f => f.legal h { wq := true }
  | .qcfg f => f.legal h { a := true, wq := true }
  | .qpush f => (f.legal h { a := true, wq := true, peer := true })
  | .qpushU f => (f.legal h { subs := [1], a := true, wq := true, peer := true })
  | .qpushTry f => (f.legal h { subs := [0, 1], d := true, maxD := 6, a := true, wq := true, peer := true })
  | .qpop f => (f.legal h { d := true, b := true, maxB := 7, wq := true, peer := true })
  | .qpopU f => (f.legal h { subs := [1], d := true, b := true, maxB := 7, wq := true, peer := true })
  | .qpopTry f => (f.legal h { subs := [0, 1], d := true, b := true, maxB := 7, wq := true, peer := true })
  | .qclose f => (f.legal h { wq := true, peer := true })
  | .qstat f => (f.legal h { d := true, wq := true, peer := true })
  | .cinit f => f.legal h { a := true, b := true }
  | .carrive f => f.legal h { d := true, a := true, peer := true }
  | .carriveWait f => f.legal h { d := true, a := true, peer := true }
  | .cexpect f => f.legal h { a := true, b := true, peer := true }
  | .cwait f => f.legal h { subs := [0, 1], a := true, peer := true }
  | .ctest f => f.legal h { subs := [0, 1], d := true, maxD := 6, a := true, peer := true }
  | .claspUpdate _ _ => .clean
  | .ld f => f.ldLegal h [.n8, .i8, .n16, .i16, .n32, .n64]
  | .st f => f.ldLegal h [.n8, .n16, .n32, .n64]
  | .ldu f => f.legal h { ty := .oneOf [.n32, .n64], ixs := [1, 2], anyCnt := true }
  | .stu f => f.legal h { ty := .oneOf [.n32, .n64], ixs := [1, 2], anyCnt := true }
  | .pfh f => f.legal h { ty := .oneOf [.n8], useD := false }
  | .ldbf f => f.legal h { ty := .oneOf [.n8], ixs := [1, 2], maxD := 31 }
  | .mkbf f => f.legal h { a := true, immMask := 0x1F }
  | .bfq f => f.legal h { subs := [0, 1, 2, 3], d := true, immMask := 0x1F }
  | .wbl f => f.legal h { ty := .oneOf [.n8], useD := false }
  | .invl f => f.legal h { ty := .oneOf [.n8], useD := false }
  | .frply => bodyLegal h body 0
  | .dharv f => f.legal h { d := true, a := true, b := true }
  | .rngw f => f.legal h { a := true, immMask := 0xF }
  | .atm op f => f.atmLegal h (op == .and || op == .or || op == .xor) (op == .cas)
  | .red op f => f.atmLegal h (op == .and || op == .or || op == .xor) false
  | .ldv f => f.versionLegal h [.n32, .n64] true
  | .verq f => f.verqLegal h
  | .casv f => f.versionLegal h [.n32, .n64] false
  | .vclr => (bodyLegal h body 0).orReserved (!h.fixed)
  | .vaddU f => f.legal h { a := true, b := true, immMask := 0x1F }
  | .vadd f => f.legal h { subs := [1], a := true, b := true, immMask := 0x1F }
  | .vstc f => f.ldLegal h [.n8, .n16, .n32, .n64]
  | .vcommit f => (f.legal h { d := true, maxD := 6 }).orReserved (!h.fixed)
  | .fenceDom => (bodyLegal h body 0).orReserved (!h.fixed)
  | .fenceNc => (bodyLegal h body 0).orReserved (!h.fixed)
  | .fenceSys => (bodyLegal h body 0).orReserved (!h.fixed)
  | .homeLineAccess _ _ => .clean
  | .redArrival _ _ _ _ _ _ => .clean
  | .signatureSquash _ _ => .clean
  | .l1Eviction _ _ => .clean
  | .requestReplay _ _ => .clean
  | .cachePowerGate _ => .clean
  | .cacheWake _ => .clean
  | .tsload f => f.legal h { a := true, ts := true, immMask := 0x1F }
  | .tsevict f => f.legal h { ts := true }
  | .cpyld f => f.legal h { a := true, b := true, ts := true }
  | .cpyst f => f.legal h { a := true, b := true, ts := true }
  | .cpyred _ f => f.legal h { a := true, b := true, ts := true }
  | .cpymc f => f.legal h { a := true, b := true, ts := true, immMask := 0xFFFF }
  | .cpyg f => f.legal h { d := true, a := true, b := true, immMask := 0x3FF }
  | .cpystripe f => f.legal h { a := true, b := true, ts := true, immMask := 0xFF1F }
  | .copyEntryGrant _ => .clean
  | .copyLineTransfer _ _ => .clean
  | .fragmentUnpark _ => .clean
  | .copyComplete _ => .clean
  | .copyFault _ _ _ => .clean
  | .cseal f => f.legal h { d := true }
  | .cwaitb f => (f.legal h { immMask := 0x1F }).orReserved (decide (16 < f.imm.toNat))
  | .cstat f => f.legal h { d := true }
  | .pdload f => f.legal h { d := true, a := true, immMask := 0xFF1F }
  | .pdloadTry f => f.legal h { subs := [1], d := true, a := true, immMask := 0xFF1F }
  | .pdstart f => (f.legal h { a := true, b := true, immMask := 0x8007FFFF }).orReserved (!f.claspShown)
  | .pdstartCont f => (f.legal h { subs := [1], a := true, b := true, immMask := 0x8007FFFF }).orReserved (!f.claspShown)
  | .pdstop => bodyLegal h body 0
  | .pdstopRel => bodyLegal h body 0
  | .pdstat f => f.legal h { d := true }
  | .endp _ => .clean
  | .rd _ _ _ => .clean
  | .unp _ _ _ => .clean
  | .lut _ _ _ => .clean
  | .tld _ _ _ => .clean
  | .tableLanded _ _ => .clean
  | .streamCvt _ _ _ _ _ _ => .clean
  | .scl _ _ _ _ => .clean
  | .push _ _ _ => .clean
  | .waitc _ _ => .clean
  | .streamLoop _ _ => .clean
  | .streamAddShift _ _ _ _ => .clean
  | .streamAddImm _ _ _ => .clean
  | .producerFault _ _ _ => .clean
  | .wlapp f => f.legal h { d := true, maxD := 6, a := true, b := true }
  | .wlpop f => f.legal h { d := true, a := true, maxA := 6, b := true }
  | .wlquiet f => f.legal h { d := true, a := true }
  | .wlquietReg => bodyLegal h body 0
  | .wlquietUnreg => bodyLegal h body 0
  | .worklistQuiescent _ => .clean
  | .ibsess f => f.legal h { a := true }
  | .ibsessTry f => f.legal h { d := true, maxD := 6, a := true }
  | .sessionGrant _ => .clean
  | .ibprog f => f.legal h { a := true, immMask := 0x3F1F }
  | .ibvec f => f.legal h { a := true, immMask := 7 }
  | .ibscale f => f.legal h { a := true, b := true, immMask := 3 }
  | .ibscaleU f => f.legal h { subs := [1], a := true, immMask := 3 }
  | .ibstep f => f.legal h { immMask := 0xFFFFFFFF }
  | .ibstepReg f => f.legal h { subs := [1], a := true }
  | .ibread f => f.legal h { d := true, a := true }
  | .ibfenceIn f => f.legal h { ty := .unused, ixs := [1, 2], hintMask := 0 }
  | .ibfenceInFlip _ => .clean
  | .ibfenceOut f => f.legal h { ty := .unused, ixs := [1, 2], hintMask := 0 }
  | .ibfenceOutFlip _ => .clean
  | .ibend => bodyLegal h body 0
  | .ibstat f => f.legal h { d := true }
  | .sessionEnd _ _ => .clean
  | .ibStep _ _ => .clean
  | .ibWatchdogExpiry _ _ _ => .clean
  | .collAllred f => f.legal h { subs := [0, 1, 2], a := true, b := true, bt := true, immMask := 0x1FF3 }
  | .collRedscat f => f.legal h { subs := [0, 1, 2], a := true, b := true, bt := true, immMask := 0x1FF3 }
  | .collAllgath f => f.legal h { subs := [0, 1, 2], a := true, b := true, bt := true, immMask := 0x1FF3 }
  | .collBcast f => f.legal h { subs := [0, 1, 2], a := true, b := true, bt := true, immMask := 0x1FF3 }
  | .collBarrier f => f.legal h { subs := [0, 1, 2], a := true, b := true, bt := true, immMask := 0x1FF3 }
  | .collectiveMessage _ _ _ _ => .clean
  | .collectiveStragglerTimeout _ => .clean
  | .collectiveComplete _ => .clean
  | .vwq f => f.legal h { subs := [0, 1, 2, 3, 4, 5, 6, 7], d := true }
  | .vack => (bodyLegal h body 0).orReserved (!h.fixed)
  | .vjoin f => f.legal h { d := true }
  | .fnote f => f.legal h { d := true, maxD := 6, a := true, b := true }
  | .fwait f => f.legal h { d := true }
  | .fwaitTry f => f.legal h { subs := [1], d := true }
  | .notificationArrival _ _ _ _ => .clean
  | .remoteRequestArrival _ _ _ _ _ => .clean
  | .remoteReplyArrival _ _ _ => .clean
  | .flitCrcReplay _ => .clean
  | .requestRetransmit _ => .clean
  | .linkDown _ => .clean
  | .linkTraining _ _ _ => .clean
  | .heartbeatSend => .clean
  | .heartbeatReceive _ => .clean
  | .memberSuspect _ => .clean
  | .suspicion _ _ => .clean
  | .proposal _ _ _ => .clean
  | .accept _ _ => .clean
  | .commit _ _ _ => .clean
  | .exclusionTimeout => .clean
  | .joinRequest _ _ => .clean
  | .trap => bodyLegal h body 0x1FF
  | .tret => (bodyLegal h body 0).orReserved (!h.fixed)
  | .mfsp f => (f.legal h { sreg := true, a := true })
  | .mtsp f => (f.legal h { sreg := true, a := true }).orReserved (!writableSreg f.sreg.toNat)
  | .mfsv f => (f.legal h { sreg := true, a := true })
  | .mtsv f => (f.legal h { sreg := true, a := true }).orReserved (!writableSreg f.sreg.toNat)
  | .bkpt => bodyLegal h body 0xFFFF
  | .halt => (bodyLegal h body 0).orReserved (!h.fixed)
  | .pdefer => (((bodyLegal h body 0x1FFF).orReserved (!h.fixed)).orReserved (body == 0)).orReserved (decide (4096 < body.toNat))
  | .trapEntry _ _ _ _ => .clean
  | .impreciseCauseDelivery _ => .clean
  | .contextFaultTrap _ => .clean
  | .fetchLine _ _ => .clean
  | .fetchLineRefetch _ _ => .clean
  | .portIssue _ _ => .clean
  | .instructionComplete _ _ _ => .clean
  | .fragmentPromote _ => .clean
  | .coreSwap _ => .clean
  | .launchRecordTake _ _ => .clean
  | .teamPlace _ _ => .clean
  | .teamRetire _ => .clean
  | .launchComplete _ => .clean
  | .cretire _ => .clean
  | .coreRetireEffect _ => .clean
  | .tlbinv _ _ => .clean
  | .preemptRequest _ => .clean
  | .forcedStop _ _ => .clean
  | .teamDrain _ => .clean
  | .imageWrite _ => .clean
  | .ctxres _ _ => .clean
  | .imageRestore _ _ _ => .clean
  | .heldWritePlace => .clean
  | .balloonReclaim => .clean
  | .clockSweep => .clean
  | .evictedFrameReturn _ => .clean
  | .reclaimTimeout => .clean
  | .capcmdAssign _ => .clean
  | .capcmdReturn _ => .clean
  | .capcmdPin _ => .clean
  | .capcmdUnpin _ => .clean
  | .capcmdStripeOn _ => .clean
  | .capcmdStripeOff _ => .clean
  | .locketPrecopy => .clean
  | .locketStopAndCopy => .clean
  | .locketAbort => .clean
  | .locketReceive => .clean
  | .locketMessage _ _ => .clean
  | .ownclaimClaim _ _ _ => .clean
  | .electionClose => .clean
  | .ownclaimHand _ _ => .clean
  | .ownerPathTimeout => .clean
  | .hostirqEnable _ => .clean
  | .hostAccess _ => .clean
  | .firmwareLoad _ _ _ => .clean
  | .attestation _ _ => .clean
  | .packageReset => .clean
  | .powerThrottle _ => .clean
  | .registerWrite _ _ _ => .clean
  | .locketAcknowledgement _ => .clean
  | .preCopyRoundEnd => .clean
  | .scaleOutLinkFailure => .clean
  | .hostStoreAcknowledgement => .clean
  | .joinRefusal _ => .clean

/-- The checks of R65 and R121 on a slot. -/
def Slot.legal (s : Slot) : Legal := s.ins.legal s.hdr s.body

/-- Machine events, which never stand in a fetch line or a producer program. -/
def Instr.isEvent : Instr → Bool
  | .nop => false
  | .liveWord => false
  | .bra _ => false
  | .braU _ => false
  | .jmp _ => false
  | .jmpi _ => false
  | .call _ => false
  | .ret _ => false
  | .join => false
  | .fragmentFuse _ => true
  | .exit => false
  | .loop _ => false
  | .mfem _ => false
  | .mtem _ => false
  | .mfom _ => false
  | .nap _ => false
  | .napExpire _ => true
  | .yield => false
  | .spawn _ => false
  | .add _ => false
  | .sub _ => false
  | .addc _ => false
  | .subb _ => false
  | .min _ => false
  | .max _ => false
  | .abs _ => false
  | .neg _ => false
  | .mul _ => false
  | .mulh _ => false
  | .mulhu _ => false
  | .mad _ => false
  | .madw _ => false
  | .div _ => false
  | .divu _ => false
  | .rem _ => false
  | .remu _ => false
  | .and _ => false
  | .or _ => false
  | .xor _ => false
  | .not _ => false
  | .andn _ => false
  | .lop3 _ => false
  | .shl _ => false
  | .shr _ => false
  | .sra _ => false
  | .rol _ => false
  | .ror _ => false
  | .bfx _ => false
  | .bfi _ => false
  | .popc _ => false
  | .clz _ => false
  | .ctz _ => false
  | .brev _ => false
  | .bperm _ => false
  | .cmp _ _ => false
  | .mov _ => false
  | .movi _ => false
  | .sel _ => false
  | .sext _ => false
  | .zext _ => false
  | .lea _ => false
  | .pand _ => false
  | .por _ => false
  | .pxor _ => false
  | .pnot _ => false
  | .pmfs _ => false
  | .pmts _ => false
  | .shfl _ _ => false
  | .vany _ => false
  | .vall _ => false
  | .vbal _ => false
  | .vred _ _ => false
  | .vscan _ _ _ => false
  | .vcomp _ => false
  | .mfl _ => false
  | .mtl _ => false
  | .uadd _ => false
  | .usub _ => false
  | .umin _ => false
  | .umax _ => false
  | .umul _ => false
  | .umad _ => false
  | .uand _ => false
  | .uor _ => false
  | .uxor _ => false
  | .ushl _ => false
  | .ushr _ => false
  | .usra _ => false
  | .ubfx _ => false
  | .ubfi _ => false
  | .upopc _ => false
  | .ucmp _ _ => false
  | .umov _ => false
  | .umovi _ => false
  | .ulea _ => false
  | .fadd _ => false
  | .fsub _ => false
  | .fmul _ => false
  | .ffma _ => false
  | .ffms _ => false
  | .fnma _ => false
  | .fmin _ => false
  | .fmax _ => false
  | .fcmp _ _ => false
  | .fdiv _ => false
  | .fsqrt _ => false
  | .frcp _ => false
  | .frsq _ => false
  | .fex2 _ => false
  | .flg2 _ => false
  | .fsin _ => false
  | .fcos _ => false
  | .ftanh _ => false
  | .frnd _ => false
  | .ffrac _ => false
  | .fclass _ => false
  | .fscale _ => false
  | .hadd2 _ => false
  | .hmul2 _ => false
  | .hfma2 _ => false
  | .hmin2 _ => false
  | .hmax2 _ => false
  | .cvt _ => false
  | .cvtpk _ => false
  | .cvtun _ => false
  | .dp2Bf16 _ => false
  | .dp2F16 _ => false
  | .dp4E4m3 _ => false
  | .dp4E5m2 _ => false
  | .dp4Hs8 _ => false
  | .dp8Hs4 _ => false
  | .dp8E2m1 _ => false
  | .dp4I8 _ => false
  | .dp4N8 _ => false
  | .mxs _ => false
  | .mzero _ => false
  | .mld _ => false
  | .mst _ => false
  | .mlaneGet _ => false
  | .mlanePut _ => false
  | .mxlaneGet _ => false
  | .mxlanePut _ => false
  | .mma _ => false
  | .mmas _ => false
  | .mgath _ => false
  | .mcvt _ => false
  | .madd _ => false
  | .mtr _ => false
  | .mrel _ => false
  | .lds _ => false
  | .sts _ => false
  | .atms _ _ => false
  | .pld _ => false
  | .pst _ => false
  | .wbind _ => false
  | .wtouch _ => false
  | .windowCopyLanded _ _ => true
  | .wstat _ => false
  | .wunbind _ => false
  | .qcfg _ => false
  | .qpush _ => false
  | .qpushU _ => false
  | .qpushTry _ => false
  | .qpop _ => false
  | .qpopU _ => false
  | .qpopTry _ => false
  | .qclose _ => false
  | .qstat _ => false
  | .cinit _ => false
  | .carrive _ => false
  | .carriveWait _ => false
  | .cexpect _ => false
  | .cwait _ => false
  | .ctest _ => false
  | .claspUpdate _ _ => true
  | .ld _ => false
  | .st _ => false
  | .ldu _ => false
  | .stu _ => false
  | .pfh _ => false
  | .ldbf _ => false
  | .mkbf _ => false
  | .bfq _ => false
  | .wbl _ => false
  | .invl _ => false
  | .frply => false
  | .dharv _ => false
  | .rngw _ => false
  | .atm _ _ => false
  | .red _ _ => false
  | .ldv _ => false
  | .verq _ => false
  | .casv _ => false
  | .vclr => false
  | .vaddU _ => false
  | .vadd _ => false
  | .vstc _ => false
  | .vcommit _ => false
  | .fenceDom => false
  | .fenceNc => false
  | .fenceSys => false
  | .homeLineAccess _ _ => true
  | .redArrival _ _ _ _ _ _ => true
  | .signatureSquash _ _ => true
  | .l1Eviction _ _ => true
  | .requestReplay _ _ => true
  | .cachePowerGate _ => true
  | .cacheWake _ => true
  | .tsload _ => false
  | .tsevict _ => false
  | .cpyld _ => false
  | .cpyst _ => false
  | .cpyred _ _ => false
  | .cpymc _ => false
  | .cpyg _ => false
  | .cpystripe _ => false
  | .copyEntryGrant _ => true
  | .copyLineTransfer _ _ => true
  | .fragmentUnpark _ => true
  | .copyComplete _ => true
  | .copyFault _ _ _ => true
  | .cseal _ => false
  | .cwaitb _ => false
  | .cstat _ => false
  | .pdload _ => false
  | .pdloadTry _ => false
  | .pdstart _ => false
  | .pdstartCont _ => false
  | .pdstop => false
  | .pdstopRel => false
  | .pdstat _ => false
  | .endp _ => false
  | .rd _ _ _ => false
  | .unp _ _ _ => false
  | .lut _ _ _ => false
  | .tld _ _ _ => false
  | .tableLanded _ _ => true
  | .streamCvt _ _ _ _ _ _ => false
  | .scl _ _ _ _ => false
  | .push _ _ _ => false
  | .waitc _ _ => false
  | .streamLoop _ _ => false
  | .streamAddShift _ _ _ _ => false
  | .streamAddImm _ _ _ => false
  | .producerFault _ _ _ => true
  | .wlapp _ => false
  | .wlpop _ => false
  | .wlquiet _ => false
  | .wlquietReg => false
  | .wlquietUnreg => false
  | .worklistQuiescent _ => true
  | .ibsess _ => false
  | .ibsessTry _ => false
  | .sessionGrant _ => true
  | .ibprog _ => false
  | .ibvec _ => false
  | .ibscale _ => false
  | .ibscaleU _ => false
  | .ibstep _ => false
  | .ibstepReg _ => false
  | .ibread _ => false
  | .ibfenceIn _ => false
  | .ibfenceInFlip _ => true
  | .ibfenceOut _ => false
  | .ibfenceOutFlip _ => true
  | .ibend => false
  | .ibstat _ => false
  | .sessionEnd _ _ => true
  | .ibStep _ _ => true
  | .ibWatchdogExpiry _ _ _ => true
  | .collAllred _ => false
  | .collRedscat _ => false
  | .collAllgath _ => false
  | .collBcast _ => false
  | .collBarrier _ => false
  | .collectiveMessage _ _ _ _ => true
  | .collectiveStragglerTimeout _ => true
  | .collectiveComplete _ => true
  | .vwq _ => false
  | .vack => false
  | .vjoin _ => false
  | .fnote _ => false
  | .fwait _ => false
  | .fwaitTry _ => false
  | .notificationArrival _ _ _ _ => true
  | .remoteRequestArrival _ _ _ _ _ => true
  | .remoteReplyArrival _ _ _ => true
  | .flitCrcReplay _ => true
  | .requestRetransmit _ => true
  | .linkDown _ => true
  | .linkTraining _ _ _ => true
  | .heartbeatSend => true
  | .heartbeatReceive _ => true
  | .memberSuspect _ => true
  | .suspicion _ _ => true
  | .proposal _ _ _ => true
  | .accept _ _ => true
  | .commit _ _ _ => true
  | .exclusionTimeout => true
  | .joinRequest _ _ => true
  | .trap => false
  | .tret => false
  | .mfsp _ => false
  | .mtsp _ => false
  | .mfsv _ => false
  | .mtsv _ => false
  | .bkpt => false
  | .halt => false
  | .pdefer => false
  | .trapEntry _ _ _ _ => true
  | .impreciseCauseDelivery _ => true
  | .contextFaultTrap _ => true
  | .fetchLine _ _ => true
  | .fetchLineRefetch _ _ => true
  | .portIssue _ _ => true
  | .instructionComplete _ _ _ => true
  | .fragmentPromote _ => true
  | .coreSwap _ => true
  | .launchRecordTake _ _ => true
  | .teamPlace _ _ => true
  | .teamRetire _ => true
  | .launchComplete _ => true
  | .cretire _ => true
  | .coreRetireEffect _ => true
  | .tlbinv _ _ => true
  | .preemptRequest _ => true
  | .forcedStop _ _ => true
  | .teamDrain _ => true
  | .imageWrite _ => true
  | .ctxres _ _ => true
  | .imageRestore _ _ _ => true
  | .heldWritePlace => true
  | .balloonReclaim => true
  | .clockSweep => true
  | .evictedFrameReturn _ => true
  | .reclaimTimeout => true
  | .capcmdAssign _ => true
  | .capcmdReturn _ => true
  | .capcmdPin _ => true
  | .capcmdUnpin _ => true
  | .capcmdStripeOn _ => true
  | .capcmdStripeOff _ => true
  | .locketPrecopy => true
  | .locketStopAndCopy => true
  | .locketAbort => true
  | .locketReceive => true
  | .locketMessage _ _ => true
  | .ownclaimClaim _ _ _ => true
  | .electionClose => true
  | .ownclaimHand _ _ => true
  | .ownerPathTimeout => true
  | .hostirqEnable _ => true
  | .hostAccess _ => true
  | .firmwareLoad _ _ _ => true
  | .attestation _ _ => true
  | .packageReset => true
  | .powerThrottle _ => true
  | .registerWrite _ _ _ => true
  | .locketAcknowledgement _ => true
  | .preCopyRoundEnd => true
  | .scaleOutLinkFailure => true
  | .hostStoreAcknowledgement => true
  | .joinRefusal _ => true

/-- Instructions whose slot bits the constructor does not carry. -/
def Instr.bodied : Instr → Bool
  | .trap | .bkpt | .pdefer | .liveWord => true
  | _ => false

/-- The header of a `nop` (R68): every bit of the slot is zero. -/
def Hdr.zero : Hdr := ⟨false, 0, false, 0⟩

/-- A slot is well formed when it passes every check that depends on its own fields, keeps body bits only where an
instruction has them, and is all zeros when it is a `nop`. -/
def WellFormed (s : Slot) : Bool :=
  s.legal == Legal.clean && (s.ins.bodied || s.body == 0) && (s.ins != .nop || s.hdr == Hdr.zero)

end Sys2Proof
end

