-- ==== Sys2Proof/Decode.lean ====
section
/-!
DEFINITION. Sys2Proof/Decode.lean: from the words of the spec to instructions and back. A fetch line's slot is a 96-bit
word (R43, R56, R58, R68); the producer's micro-operations (R255) and the in-bank commands (R342) are 32-bit words. Each
decoder is total and rejects by name. The encoders after them are written from the same tables.
-/

namespace Sys2Proof

/-- Why a word is not an instruction: `unassigned` is check 1 of R65 (0x001), `reserved` check 3 (0x002), `badType` check 4
(0x010), `oddReg` the check of R121 (0x002). -/
inductive DecodeError where
  | unassigned
  | reserved
  | badType
  | oddReg
deriving DecidableEq, Repr

/-- The rounding mode of a 2-bit code (R27). -/
def Rm.ofCode (c : BitVec 2) : Rm :=
  match c.toNat with
  | 0 => .rne | 1 => .rtz | 2 => .rdn | _ => .rup

/-- The 2-bit code of a rounding mode (R27). -/
def Rm.code : Rm → BitVec 2
  | .rne => 0 | .rtz => 1 | .rdn => 2 | .rup => 3

/-- fn values of the selectors (R68). -/
def Cond.fn : Cond → Nat
  | .eq => 0 | .ne => 1 | .lt => 2 | .le => 3 | .gt => 4 | .ge => 5

def FCond.fn : FCond → Nat
  | .eq => 0 | .ne => 1 | .lt => 2 | .le => 3 | .gt => 4 | .ge => 5 | .un => 6

def ShflMode.fn : ShflMode → Nat
  | .idx => 0 | .up => 1 | .down => 2 | .xor => 3

def RedOp.fn : RedOp → Nat
  | .add => 0 | .min => 1 | .max => 2 | .and => 3 | .or => 4 | .xor => 5

def AtmOp.fn : AtmOp → Nat
  | .add => 0 | .sub => 1 | .min => 2 | .max => 3 | .and => 4 | .or => 5 | .xor => 6 | .xchg => 7 | .cas => 8

def MemRedOp.fn : MemRedOp → Nat
  | .add => 0 | .sub => 1 | .min => 2 | .max => 3 | .and => 4 | .or => 5 | .xor => 6

/-- Bits [95:88] (R56). -/
def opOf (w : BitVec 96) : Nat := (w.extractLsb' 88 8).toNat

/-- Bits [80:76] (R56). -/
def fnOf (w : BitVec 96) : Nat := (w.extractLsb' 76 5).toNat

/-- Bits [87:81] (R56). -/
def hdrOf (w : BitVec 96) : Hdr where
  sp := w.getLsbD 87
  pr := w.extractLsb' 84 3
  pn := w.getLsbD 83
  fl := w.extractLsb' 81 2

/-- Format A (R58, R59). -/
def unpackA (w : BitVec 96) : FmtA where
  ty := Ty.ofCode (w.extractLsb' 72 4)
  d := w.extractLsb' 64 8
  a := w.extractLsb' 56 8
  b := w.extractLsb' 48 8
  c := w.extractLsb' 40 8
  sat := w.getLsbD 39
  rm := Rm.ofCode (w.extractLsb' 37 2)
  na := w.getLsbD 36
  nb := w.getLsbD 35
  nc := w.getLsbD 34
  bsel := w.extractLsb' 32 2
  imm := w.extractLsb' 0 32

/-- Format M (R58). -/
def unpackM (w : BitVec 96) : FmtM where
  ty := Ty.ofCode (w.extractLsb' 72 4)
  d := w.extractLsb' 64 8
  bf := w.extractLsb' 59 5
  x := w.extractLsb' 51 8
  ix := w.extractLsb' 49 2
  cnt := w.extractLsb' 45 4
  hint := w.extractLsb' 40 5
  zero := w.extractLsb' 32 8
  off := w.extractLsb' 0 32

/-- Format B (R58). -/
def unpackB (w : BitVec 96) : FmtB where
  tslot := w.extractLsb' 73 3
  tline := w.extractLsb' 44 29
  jslot := w.extractLsb' 41 3
  jline := w.extractLsb' 12 29
  a := w.extractLsb' 4 8
  zero := w.extractLsb' 0 4

/-- Format T (R58). -/
def unpackT (w : BitVec 96) : FmtT where
  ty := Ty.ofCode (w.extractLsb' 72 4)
  md := w.extractLsb' 68 4
  ma := w.extractLsb' 64 4
  mb := w.extractLsb' 60 4
  mc := w.extractLsb' 56 4
  sa := w.extractLsb' 48 8
  sb := w.extractLsb' 40 8
  tmod := w.extractLsb' 32 8
  imm := w.extractLsb' 0 32

/-- Format E (R58). -/
def unpackE (w : BitVec 96) : FmtE where
  sub := w.extractLsb' 72 4
  d := w.extractLsb' 64 8
  a := w.extractLsb' 56 8
  b := w.extractLsb' 48 8
  ts := w.extractLsb' 43 5
  wq := w.extractLsb' 39 4
  bt := w.extractLsb' 35 4
  zero := w.extractLsb' 32 3
  imm := w.extractLsb' 0 32

/-- Format S (R58). -/
def unpackS (w : BitVec 96) : FmtS where
  sreg := w.extractLsb' 64 12
  a := w.extractLsb' 56 8
  imm := w.extractLsb' 0 56

/-- Ops 0x00 to 0x0F of the opcode map (R68). -/
def decodeClass0 (op fn : Nat) (w : BitVec 96) : Except DecodeError Instr :=
  match op, fn with
  | 0x01, 0 => .ok (.bra (unpackB w))
  | 0x01, 1 => .ok (.braU (unpackB w))
  | 0x01, 2 => .ok (.jmp (unpackB w))
  | 0x02, 0 => .ok (.jmpi (unpackB w))
  | 0x03, 0 => .ok (.call (unpackB w))
  | 0x04, 0 => .ok (.ret (unpackB w))
  | 0x05, 0 => .ok .join
  | 0x06, 0 => .ok .exit
  | 0x07, 0 => .ok (.mfem (unpackA w))
  | 0x07, 1 => .ok (.mtem (unpackA w))
  | 0x07, 2 => .ok (.mfom (unpackA w))
  | 0x08, 0 => .ok (.nap (unpackA w))
  | 0x08, 1 => .ok .yield
  | 0x09, 0 => .ok (.spawn (unpackE w))
  | 0x0A, 0 => .ok (.loop (unpackB w))
  | _, _ => .error .unassigned

/-- Ops 0x10 to 0x1F of the opcode map (R68). -/
def decodeClass1 (op fn : Nat) (w : BitVec 96) : Except DecodeError Instr :=
  match op, fn with
  | 0x10, 0 => .ok (.add (unpackA w))
  | 0x10, 1 => .ok (.sub (unpackA w))
  | 0x10, 2 => .ok (.addc (unpackA w))
  | 0x10, 3 => .ok (.subb (unpackA w))
  | 0x10, 4 => .ok (.min (unpackA w))
  | 0x10, 5 => .ok (.max (unpackA w))
  | 0x10, 6 => .ok (.abs (unpackA w))
  | 0x10, 7 => .ok (.neg (unpackA w))
  | 0x11, 0 => .ok (.mul (unpackA w))
  | 0x11, 1 => .ok (.mulh (unpackA w))
  | 0x11, 2 => .ok (.mulhu (unpackA w))
  | 0x11, 3 => .ok (.mad (unpackA w))
  | 0x11, 4 => .ok (.madw (unpackA w))
  | 0x11, 5 => .ok (.div (unpackA w))
  | 0x11, 6 => .ok (.divu (unpackA w))
  | 0x11, 7 => .ok (.rem (unpackA w))
  | 0x11, 8 => .ok (.remu (unpackA w))
  | 0x12, 0 => .ok (.and (unpackA w))
  | 0x12, 1 => .ok (.or (unpackA w))
  | 0x12, 2 => .ok (.xor (unpackA w))
  | 0x12, 3 => .ok (.not (unpackA w))
  | 0x12, 4 => .ok (.andn (unpackA w))
  | 0x12, 5 => .ok (.lop3 (unpackA w))
  | 0x13, 0 => .ok (.shl (unpackA w))
  | 0x13, 1 => .ok (.shr (unpackA w))
  | 0x13, 2 => .ok (.sra (unpackA w))
  | 0x13, 3 => .ok (.rol (unpackA w))
  | 0x13, 4 => .ok (.ror (unpackA w))
  | 0x14, 0 => .ok (.bfx (unpackA w))
  | 0x14, 1 => .ok (.bfi (unpackA w))
  | 0x14, 2 => .ok (.popc (unpackA w))
  | 0x14, 3 => .ok (.clz (unpackA w))
  | 0x14, 4 => .ok (.ctz (unpackA w))
  | 0x14, 5 => .ok (.brev (unpackA w))
  | 0x14, 6 => .ok (.bperm (unpackA w))
  | 0x15, 0 => .ok (.cmp .eq (unpackA w))
  | 0x15, 1 => .ok (.cmp .ne (unpackA w))
  | 0x15, 2 => .ok (.cmp .lt (unpackA w))
  | 0x15, 3 => .ok (.cmp .le (unpackA w))
  | 0x15, 4 => .ok (.cmp .gt (unpackA w))
  | 0x15, 5 => .ok (.cmp .ge (unpackA w))
  | 0x16, 0 => .ok (.mov (unpackA w))
  | 0x16, 1 => .ok (.movi (unpackA w))
  | 0x16, 2 => .ok (.sel (unpackA w))
  | 0x16, 3 => .ok (.sext (unpackA w))
  | 0x16, 4 => .ok (.zext (unpackA w))
  | 0x16, 5 => .ok (.lea (unpackA w))
  | 0x17, 0 => .ok (.pand (unpackA w))
  | 0x17, 1 => .ok (.por (unpackA w))
  | 0x17, 2 => .ok (.pxor (unpackA w))
  | 0x17, 3 => .ok (.pnot (unpackA w))
  | 0x17, 4 => .ok (.pmfs (unpackA w))
  | 0x17, 5 => .ok (.pmts (unpackA w))
  | _, _ => .error .unassigned

/-- Ops 0x20 to 0x2F of the opcode map (R68). -/
def decodeClass2 (op fn : Nat) (w : BitVec 96) : Except DecodeError Instr :=
  match op, fn with
  | 0x20, 0 => .ok (.shfl .idx (unpackA w))
  | 0x20, 1 => .ok (.shfl .up (unpackA w))
  | 0x20, 2 => .ok (.shfl .down (unpackA w))
  | 0x20, 3 => .ok (.shfl .xor (unpackA w))
  | 0x21, 0 => .ok (.vany (unpackA w))
  | 0x21, 1 => .ok (.vall (unpackA w))
  | 0x21, 2 => .ok (.vbal (unpackA w))
  | 0x22, 0 => .ok (.vred .add (unpackA w))
  | 0x22, 1 => .ok (.vred .min (unpackA w))
  | 0x22, 2 => .ok (.vred .max (unpackA w))
  | 0x22, 3 => .ok (.vred .and (unpackA w))
  | 0x22, 4 => .ok (.vred .or (unpackA w))
  | 0x22, 5 => .ok (.vred .xor (unpackA w))
  | 0x23, 0 => .ok (.vscan false .add (unpackA w))
  | 0x23, 1 => .ok (.vscan false .min (unpackA w))
  | 0x23, 2 => .ok (.vscan false .max (unpackA w))
  | 0x23, 3 => .ok (.vscan false .and (unpackA w))
  | 0x23, 4 => .ok (.vscan false .or (unpackA w))
  | 0x23, 5 => .ok (.vscan false .xor (unpackA w))
  | 0x23, 8 => .ok (.vscan true .add (unpackA w))
  | 0x23, 9 => .ok (.vscan true .min (unpackA w))
  | 0x23, 10 => .ok (.vscan true .max (unpackA w))
  | 0x23, 11 => .ok (.vscan true .and (unpackA w))
  | 0x23, 12 => .ok (.vscan true .or (unpackA w))
  | 0x23, 13 => .ok (.vscan true .xor (unpackA w))
  | 0x24, 0 => .ok (.vcomp (unpackA w))
  | 0x25, 0 => .ok (.mfl (unpackA w))
  | 0x25, 1 => .ok (.mtl (unpackA w))
  | _, _ => .error .unassigned

/-- Ops 0x30 to 0x3F of the opcode map (R68). -/
def decodeClass3 (op fn : Nat) (w : BitVec 96) : Except DecodeError Instr :=
  match op, fn with
  | 0x30, 0 => .ok (.uadd (unpackA w))
  | 0x30, 1 => .ok (.usub (unpackA w))
  | 0x30, 2 => .ok (.umin (unpackA w))
  | 0x30, 3 => .ok (.umax (unpackA w))
  | 0x31, 0 => .ok (.umul (unpackA w))
  | 0x31, 1 => .ok (.umad (unpackA w))
  | 0x32, 0 => .ok (.uand (unpackA w))
  | 0x32, 1 => .ok (.uor (unpackA w))
  | 0x32, 2 => .ok (.uxor (unpackA w))
  | 0x33, 0 => .ok (.ushl (unpackA w))
  | 0x33, 1 => .ok (.ushr (unpackA w))
  | 0x33, 2 => .ok (.usra (unpackA w))
  | 0x34, 0 => .ok (.ubfx (unpackA w))
  | 0x34, 1 => .ok (.ubfi (unpackA w))
  | 0x34, 2 => .ok (.upopc (unpackA w))
  | 0x35, 0 => .ok (.ucmp .eq (unpackA w))
  | 0x35, 1 => .ok (.ucmp .ne (unpackA w))
  | 0x35, 2 => .ok (.ucmp .lt (unpackA w))
  | 0x35, 3 => .ok (.ucmp .le (unpackA w))
  | 0x35, 4 => .ok (.ucmp .gt (unpackA w))
  | 0x35, 5 => .ok (.ucmp .ge (unpackA w))
  | 0x36, 0 => .ok (.umov (unpackA w))
  | 0x36, 1 => .ok (.umovi (unpackA w))
  | 0x36, 2 => .ok (.ulea (unpackA w))
  | _, _ => .error .unassigned

/-- Ops 0x40 to 0x4F of the opcode map (R68). -/
def decodeClass4 (op fn : Nat) (w : BitVec 96) : Except DecodeError Instr :=
  match op, fn with
  | 0x40, 0 => .ok (.fadd (unpackA w))
  | 0x40, 1 => .ok (.fsub (unpackA w))
  | 0x41, 0 => .ok (.fmul (unpackA w))
  | 0x42, 0 => .ok (.ffma (unpackA w))
  | 0x42, 1 => .ok (.ffms (unpackA w))
  | 0x42, 2 => .ok (.fnma (unpackA w))
  | 0x43, 0 => .ok (.fmin (unpackA w))
  | 0x43, 1 => .ok (.fmax (unpackA w))
  | 0x44, 0 => .ok (.fcmp .eq (unpackA w))
  | 0x44, 1 => .ok (.fcmp .ne (unpackA w))
  | 0x44, 2 => .ok (.fcmp .lt (unpackA w))
  | 0x44, 3 => .ok (.fcmp .le (unpackA w))
  | 0x44, 4 => .ok (.fcmp .gt (unpackA w))
  | 0x44, 5 => .ok (.fcmp .ge (unpackA w))
  | 0x44, 6 => .ok (.fcmp .un (unpackA w))
  | 0x45, 0 => .ok (.fdiv (unpackA w))
  | 0x45, 1 => .ok (.fsqrt (unpackA w))
  | 0x46, 0 => .ok (.frcp (unpackA w))
  | 0x46, 1 => .ok (.frsq (unpackA w))
  | 0x46, 2 => .ok (.fex2 (unpackA w))
  | 0x46, 3 => .ok (.flg2 (unpackA w))
  | 0x46, 4 => .ok (.fsin (unpackA w))
  | 0x46, 5 => .ok (.fcos (unpackA w))
  | 0x46, 6 => .ok (.ftanh (unpackA w))
  | 0x47, 0 => .ok (.frnd (unpackA w))
  | 0x47, 1 => .ok (.ffrac (unpackA w))
  | 0x47, 2 => .ok (.fclass (unpackA w))
  | 0x47, 3 => .ok (.fscale (unpackA w))
  | 0x48, 0 => .ok (.hadd2 (unpackA w))
  | 0x48, 1 => .ok (.hmul2 (unpackA w))
  | 0x48, 2 => .ok (.hfma2 (unpackA w))
  | 0x48, 3 => .ok (.hmin2 (unpackA w))
  | 0x48, 4 => .ok (.hmax2 (unpackA w))
  | _, _ => .error .unassigned

/-- Ops 0x50 to 0x5F of the opcode map (R68). -/
def decodeClass5 (op fn : Nat) (w : BitVec 96) : Except DecodeError Instr :=
  match op, fn with
  | 0x50, 0 => .ok (.cvt (unpackA w))
  | 0x51, 0 => .ok (.cvtpk (unpackA w))
  | 0x52, 0 => .ok (.cvtun (unpackA w))
  | 0x53, 0 => .ok (.dp2Bf16 (unpackA w))
  | 0x53, 1 => .ok (.dp2F16 (unpackA w))
  | 0x53, 2 => .ok (.dp4E4m3 (unpackA w))
  | 0x53, 3 => .ok (.dp4E5m2 (unpackA w))
  | 0x53, 4 => .ok (.dp4Hs8 (unpackA w))
  | 0x53, 5 => .ok (.dp8Hs4 (unpackA w))
  | 0x53, 6 => .ok (.dp8E2m1 (unpackA w))
  | 0x53, 7 => .ok (.dp4I8 (unpackA w))
  | 0x53, 8 => .ok (.dp4N8 (unpackA w))
  | 0x54, 0 => .ok (.mxs (unpackA w))
  | _, _ => .error .unassigned

/-- Ops 0x60 to 0x6F of the opcode map (R68). -/
def decodeClass6 (op fn : Nat) (w : BitVec 96) : Except DecodeError Instr :=
  match op, fn with
  | 0x60, 0 => .ok (.mzero (unpackT w))
  | 0x61, 0 => .ok (.mld (unpackT w))
  | 0x62, 0 => .ok (.mst (unpackT w))
  | 0x63, 0 => if (unpackT w).tmod.getLsbD 0 then .ok (.mlanePut (unpackT w)) else .ok (.mlaneGet (unpackT w))
  | 0x64, 0 => if (unpackT w).tmod.getLsbD 0 then .ok (.mxlanePut (unpackT w)) else .ok (.mxlaneGet (unpackT w))
  | 0x65, 0 => .ok (.mma (unpackT w))
  | 0x66, 0 => .ok (.mmas (unpackT w))
  | 0x67, 0 => .ok (.mgath (unpackT w))
  | 0x68, 0 => .ok (.mcvt (unpackT w))
  | 0x69, 0 => .ok (.madd (unpackT w))
  | 0x6A, 0 => .ok (.mtr (unpackT w))
  | 0x6B, 0 => .ok (.mrel (unpackT w))
  | _, _ => .error .unassigned

/-- Ops 0x70 to 0x7F of the opcode map (R68). -/
def decodeClass7 (op fn : Nat) (w : BitVec 96) : Except DecodeError Instr :=
  match op, fn with
  | 0x70, 0 => .ok (.lds (unpackE w))
  | 0x71, 0 => .ok (.sts (unpackE w))
  | 0x72, 0 => .ok (.atms .add (unpackE w))
  | 0x72, 1 => .ok (.atms .sub (unpackE w))
  | 0x72, 2 => .ok (.atms .min (unpackE w))
  | 0x72, 3 => .ok (.atms .max (unpackE w))
  | 0x72, 4 => .ok (.atms .and (unpackE w))
  | 0x72, 5 => .ok (.atms .or (unpackE w))
  | 0x72, 6 => .ok (.atms .xor (unpackE w))
  | 0x72, 7 => .ok (.atms .xchg (unpackE w))
  | 0x72, 8 => .ok (.atms .cas (unpackE w))
  | 0x73, 0 => .ok (.pld (unpackE w))
  | 0x74, 0 => .ok (.pst (unpackE w))
  | 0x75, 0 => .ok (.qcfg (unpackE w))
  | 0x76, 0 => if (unpackE w).sub == 1 then .ok (.qpushU (unpackE w)) else .ok (.qpush (unpackE w))
  | 0x76, 1 => .ok (.qpushTry (unpackE w))
  | 0x77, 0 => if (unpackE w).sub == 1 then .ok (.qpopU (unpackE w)) else .ok (.qpop (unpackE w))
  | 0x77, 1 => .ok (.qpopTry (unpackE w))
  | 0x78, 0 => .ok (.qclose (unpackE w))
  | 0x79, 0 => .ok (.qstat (unpackE w))
  | 0x7A, 0 => .ok (.cinit (unpackE w))
  | 0x7B, 0 => .ok (.carrive (unpackE w))
  | 0x7B, 1 => .ok (.carriveWait (unpackE w))
  | 0x7C, 0 => .ok (.cexpect (unpackE w))
  | 0x7D, 0 => .ok (.cwait (unpackE w))
  | 0x7D, 1 => .ok (.ctest (unpackE w))
  | 0x7E, 0 => .ok (.wbind (unpackE w))
  | 0x7E, 1 => .ok (.wtouch (unpackE w))
  | 0x7E, 2 => .ok (.wstat (unpackE w))
  | 0x7E, 3 => .ok (.wunbind (unpackE w))
  | _, _ => .error .unassigned

/-- Ops 0x80 to 0x8F of the opcode map (R68). -/
def decodeClass8 (op fn : Nat) (w : BitVec 96) : Except DecodeError Instr :=
  match op, fn with
  | 0x80, 0 => .ok (.ld (unpackM w))
  | 0x81, 0 => .ok (.st (unpackM w))
  | 0x82, 0 => .ok (.ldu (unpackM w))
  | 0x83, 0 => .ok (.stu (unpackM w))
  | 0x84, 0 => .ok (.pfh (unpackM w))
  | 0x85, 0 => .ok (.ldbf (unpackM w))
  | 0x86, 0 => .ok (.mkbf (unpackE w))
  | 0x87, 0 => .ok (.bfq (unpackE w))
  | 0x88, 0 => .ok (.wbl (unpackM w))
  | 0x89, 0 => .ok (.invl (unpackM w))
  | 0x8B, 0 => .ok .frply
  | 0x8C, 0 => .ok (.dharv (unpackE w))
  | 0x8D, 0 => .ok (.rngw (unpackS w))
  | _, _ => .error .unassigned

/-- Ops 0x90 to 0x9F of the opcode map (R68). -/
def decodeClass9 (op fn : Nat) (w : BitVec 96) : Except DecodeError Instr :=
  match op, fn with
  | 0x90, 0 => .ok (.atm .add (unpackM w))
  | 0x90, 1 => .ok (.atm .sub (unpackM w))
  | 0x90, 2 => .ok (.atm .min (unpackM w))
  | 0x90, 3 => .ok (.atm .max (unpackM w))
  | 0x90, 4 => .ok (.atm .and (unpackM w))
  | 0x90, 5 => .ok (.atm .or (unpackM w))
  | 0x90, 6 => .ok (.atm .xor (unpackM w))
  | 0x90, 7 => .ok (.atm .xchg (unpackM w))
  | 0x90, 8 => .ok (.atm .cas (unpackM w))
  | 0x91, 0 => .ok (.red .add (unpackM w))
  | 0x91, 1 => .ok (.red .sub (unpackM w))
  | 0x91, 2 => .ok (.red .min (unpackM w))
  | 0x91, 3 => .ok (.red .max (unpackM w))
  | 0x91, 4 => .ok (.red .and (unpackM w))
  | 0x91, 5 => .ok (.red .or (unpackM w))
  | 0x91, 6 => .ok (.red .xor (unpackM w))
  | 0x92, 0 => .ok (.ldv (unpackM w))
  | 0x93, 0 => .ok (.casv (unpackM w))
  | 0x94, 0 => .ok .vclr
  | 0x95, 0 => if (unpackE w).sub == 1 then .ok (.vadd (unpackE w)) else .ok (.vaddU (unpackE w))
  | 0x96, 0 => .ok (.vstc (unpackM w))
  | 0x97, 0 => .ok (.vcommit (unpackE w))
  | 0x98, 0 => .ok (.verq (unpackM w))
  | 0x99, 0 => .ok .fenceDom
  | 0x99, 1 => .ok .fenceNc
  | 0x99, 2 => .ok .fenceSys
  | _, _ => .error .unassigned

/-- Ops 0xA0 to 0xAF of the opcode map (R68). -/
def decodeClassA (op fn : Nat) (w : BitVec 96) : Except DecodeError Instr :=
  match op, fn with
  | 0xA0, 0 => .ok (.tsload (unpackE w))
  | 0xA1, 0 => .ok (.tsevict (unpackE w))
  | 0xA2, 0 => .ok (.cpyld (unpackE w))
  | 0xA3, 0 => .ok (.cpyst (unpackE w))
  | 0xA4, 0 => .ok (.cpyred .add (unpackE w))
  | 0xA4, 1 => .ok (.cpyred .min (unpackE w))
  | 0xA4, 2 => .ok (.cpyred .max (unpackE w))
  | 0xA4, 3 => .ok (.cpyred .and (unpackE w))
  | 0xA4, 4 => .ok (.cpyred .or (unpackE w))
  | 0xA4, 5 => .ok (.cpyred .xor (unpackE w))
  | 0xA5, 0 => .ok (.cpymc (unpackE w))
  | 0xA6, 0 => .ok (.cpyg (unpackE w))
  | 0xA7, 0 => .ok (.cpystripe (unpackE w))
  | 0xA8, 0 => .ok (.cseal (unpackE w))
  | 0xA9, 0 => .ok (.cwaitb (unpackE w))
  | 0xAA, 0 => .ok (.cstat (unpackE w))
  | _, _ => .error .unassigned

/-- Ops 0xB0 to 0xBF of the opcode map (R68). -/
def decodeClassB (op fn : Nat) (w : BitVec 96) : Except DecodeError Instr :=
  match op, fn with
  | 0xB0, 0 => if (unpackE w).sub == 1 then .ok (.pdloadTry (unpackE w)) else .ok (.pdload (unpackE w))
  | 0xB1, 0 => if (unpackE w).sub == 1 then .ok (.pdstartCont (unpackE w)) else .ok (.pdstart (unpackE w))
  | 0xB2, 0 => if (unpackE w).sub == 1 then .ok .pdstopRel else .ok .pdstop
  | 0xB3, 0 => .ok (.pdstat (unpackE w))
  | 0xB8, 0 => .ok (.wlapp (unpackE w))
  | 0xB9, 0 => .ok (.wlpop (unpackE w))
  | 0xBA, 0 => if (unpackE w).sub == 1 then .ok .wlquietReg else if (unpackE w).sub == 2 then .ok .wlquietUnreg else .ok (.wlquiet (unpackE w))
  | _, _ => .error .unassigned

/-- Ops 0xC0 to 0xCF of the opcode map (R68). -/
def decodeClassC (op fn : Nat) (w : BitVec 96) : Except DecodeError Instr :=
  match op, fn with
  | 0xC0, 0 => .ok (.ibsess (unpackE w))
  | 0xC0, 1 => .ok (.ibsessTry (unpackE w))
  | 0xC1, 0 => .ok (.ibprog (unpackE w))
  | 0xC2, 0 => .ok (.ibvec (unpackE w))
  | 0xC3, 0 => if (unpackE w).sub == 1 then .ok (.ibscaleU (unpackE w)) else .ok (.ibscale (unpackE w))
  | 0xC4, 0 => if (unpackE w).sub == 1 then .ok (.ibstepReg (unpackE w)) else .ok (.ibstep (unpackE w))
  | 0xC5, 0 => .ok (.ibread (unpackE w))
  | 0xC6, 0 => .ok (.ibfenceIn (unpackM w))
  | 0xC6, 1 => .ok (.ibfenceOut (unpackM w))
  | 0xC7, 0 => .ok .ibend
  | 0xC8, 0 => .ok (.ibstat (unpackE w))
  | _, _ => .error .unassigned

/-- Ops 0xD0 to 0xDF of the opcode map (R68). -/
def decodeClassD (op fn : Nat) (w : BitVec 96) : Except DecodeError Instr :=
  match op, fn with
  | 0xD0, 0 => .ok (.collAllred (unpackE w))
  | 0xD0, 1 => .ok (.collRedscat (unpackE w))
  | 0xD0, 2 => .ok (.collAllgath (unpackE w))
  | 0xD0, 3 => .ok (.collBcast (unpackE w))
  | 0xD0, 4 => .ok (.collBarrier (unpackE w))
  | 0xD1, 0 => .ok (.vwq (unpackE w))
  | 0xD2, 0 => .ok .vack
  | 0xD3, 0 => .ok (.vjoin (unpackE w))
  | 0xD4, 0 => .ok (.fnote (unpackE w))
  | 0xD5, 0 => if (unpackE w).sub == 1 then .ok (.fwaitTry (unpackE w)) else .ok (.fwait (unpackE w))
  | _, _ => .error .unassigned

/-- Ops 0xE0 to 0xEF of the opcode map (R68). -/
def decodeClassE (op fn : Nat) (w : BitVec 96) : Except DecodeError Instr :=
  match op, fn with
  | 0xE0, 0 => .ok .trap
  | 0xE1, 0 => .ok .tret
  | 0xE2, 0 => .ok (.mfsp (unpackS w))
  | 0xE3, 0 => .ok (.mtsp (unpackS w))
  | 0xE4, 0 => .ok (.mfsv (unpackS w))
  | 0xE5, 0 => .ok (.mtsv (unpackS w))
  | 0xE6, 0 => .ok .bkpt
  | 0xE7, 0 => .ok .halt
  | 0xE8, 0 => .ok .pdefer
  | _, _ => .error .unassigned

/-- An instruction's op and fn against the opcode map, before any check of its fields (R65, check 1). A `nop` has
every other bit zero (R68). -/
def decodeIns (w : BitVec 96) : Except DecodeError Instr :=
  let op := opOf w
  let fn := fnOf w
  match op / 16 with
  | 0x0 =>
    if op = 0 then (if w = 0 then .ok .nop else if fn = 0 then .error .reserved else .error .unassigned)
    else decodeClass0 op fn w
  | 0x1 => decodeClass1 op fn w
  | 0x2 => decodeClass2 op fn w
  | 0x3 => decodeClass3 op fn w
  | 0x4 => decodeClass4 op fn w
  | 0x5 => decodeClass5 op fn w
  | 0x6 => decodeClass6 op fn w
  | 0x7 => decodeClass7 op fn w
  | 0x8 => decodeClass8 op fn w
  | 0x9 => decodeClass9 op fn w
  | 0xA => decodeClassA op fn w
  | 0xB => decodeClassB op fn w
  | 0xC => decodeClassC op fn w
  | 0xD => decodeClassD op fn w
  | 0xE => decodeClassE op fn w
  | 0xF => if op = 0xFF then .ok .liveWord else .error .unassigned
  | _ => .error .unassigned

/-- The slot bits [80:0] that the constructor does not carry: all of them for the live word, bits [75:0] for an instruction
without operand fields. -/
def bodyOf (w : BitVec 96) : Instr → BitVec 81
  | .liveWord => w.extractLsb' 0 81
  | .pdstopRel | .wlquietReg | .wlquietUnreg => (w.extractLsb' 0 72).setWidth 81
  | .pdstop | .join | .exit | .yield | .frply | .vclr | .fenceDom | .fenceNc | .fenceSys | .ibend | .vack | .trap | .tret | .bkpt | .halt | .pdefer => (w.extractLsb' 0 76).setWidth 81
  | _ => 0

/-- The slot a 96-bit word holds, before any check of its fields (R65, check 1). -/
def decodeRaw (w : BitVec 96) : Except DecodeError Slot :=
  match decodeIns w with
  | .error e => .error e
  | .ok i => .ok ⟨hdrOf w, bodyOf w i, i⟩

/-- The supervisor instructions (the ops marked sup in R68). -/
def Instr.supervisor : Instr → Bool
  | .frply | .dharv _ | .rngw _ | .tret | .mfsv _ | .mtsv _ | .halt => true
  | _ => false

/-- The first check of R65 and R121, mode and line apart, that an instruction fails by its own fields. -/
def Legal.error (l : Legal) : Option DecodeError :=
  if l.reserved then some .reserved
  else if l.badType then some .badType
  else if l.oddReg then some .oddReg
  else none

/-- The slot that 96 bits hold, or the name of the first check they fail. -/
def decode (w : BitVec 96) : Except DecodeError Slot :=
  match decodeRaw w with
  | .error e => .error e
  | .ok s =>
    match s.legal.error with
    | none => .ok s
    | some e => .error e

/-- The micro-operation a producer word holds (R255), or none: an opcode above 0xA or a nonzero zero field. -/
def decodeStream (w : BitVec 32) : Option Instr :=
  let d := w.extractLsb' 24 4
  let a := w.extractLsb' 20 4
  let b := w.extractLsb' 16 4
  match (w.extractLsb' 28 4).toNat with
  | 0x0 => if w.extractLsb' 16 12 = 0 then some (.endp (w.extractLsb' 0 16)) else none
  | 0x1 =>
    if w.extractLsb' 17 7 = 0 && w.extractLsb' 3 13 = 0 then some (.rd d (w.getLsbD 16) (w.extractLsb' 0 3)) else none
  | 0x2 =>
    if w.extractLsb' 17 7 = 0 && w.extractLsb' 5 11 = 0 then some (.unp d (w.getLsbD 16) (w.extractLsb' 0 5)) else none
  | 0x3 => if w.extractLsb' 17 3 = 0 && w.extractLsb' 0 16 = 0 then some (.lut d a (w.getLsbD 16)) else none
  | 0x4 =>
    if w.extractLsb' 18 10 = 0 && w.extractLsb' 3 13 = 0 then
      some (.tld (w.getLsbD 17) (w.getLsbD 16) (w.extractLsb' 0 3))
    else none
  | 0x5 =>
    if b = 0 && w.extractLsb' 0 3 = 0 then
      some (.streamCvt d a (Ty.ofCode (w.extractLsb' 12 4)) (Ty.ofCode (w.extractLsb' 8 4)) (w.extractLsb' 5 3)
        (Rm.ofCode (w.extractLsb' 3 2)))
    else none
  | 0x6 => if w.extractLsb' 2 14 = 0 then some (.scl d a b (Rm.ofCode (w.extractLsb' 0 2))) else none
  | 0x7 =>
    if d = 0 && w.extractLsb' 9 11 = 0 && w.extractLsb' 4 4 = 0 then
      some (.push a (w.getLsbD 8) (w.extractLsb' 0 4))
    else none
  | 0x8 => if w.extractLsb' 17 11 = 0 then some (.waitc (w.getLsbD 16) (w.extractLsb' 0 16)) else none
  | 0x9 => if d = 0 && w.extractLsb' 8 12 = 0 then some (.streamLoop a (w.extractLsb' 0 8)) else none
  | 0xA =>
    if w.getLsbD 15 then (if b = 0 then some (.streamAddImm d a (w.extractLsb' 0 15)) else none)
    else if w.extractLsb' 5 10 = 0 then some (.streamAddShift d a b (w.extractLsb' 0 5)) else none
  | _ => none

/-- The in-bank command a word holds (R342), or none: a reserved cop or a nonzero field that must be zero. -/
def decodeBgu (w : BitVec 32) : Option BguCmd :=
  let inc := w.getLsbD 26
  let cj := w.getLsbD 25
  let k := w.extractLsb' 20 2
  match (w.extractLsb' 27 5).toNat with
  | 0x00 => if w.extractLsb' 0 27 = 0 then some .nop else none
  | 0x01 =>
    let cx := w.getLsbD 23
    if w.getLsbD 22 || w.extractLsb' 16 4 != 0 || (!cx && k != 0) || (inc && w.extractLsb' 24 2 != 0) then none
    else some (.openRow inc (w.extractLsb' 24 2) cx k (w.extractLsb' 0 16))
  | 0x02 => if w.extractLsb' 4 23 = 0 then some (.col (w.extractLsb' 0 4)) else none
  | 0x03 =>
    if w.extractLsb' 22 3 != 0 || w.extractLsb' 12 8 != 0 || w.extractLsb' 3 3 != 0 || (!cj && k != 0) then none
    else some (.mac inc cj k (w.extractLsb' 6 6) (w.extractLsb' 0 3))
  | 0x04 =>
    if w.extractLsb' 22 3 != 0 || w.extractLsb' 12 8 != 0 || w.extractLsb' 1 3 != 0 || (!cj && k != 0) then none
    else some (.macx inc cj k (w.extractLsb' 6 6) (w.extractLsb' 4 2) (w.getLsbD 0))
  | 0x05 => if w.extractLsb' 3 23 = 0 then some (.ldbv inc (w.extractLsb' 0 3)) else none
  | 0x06 =>
    if w.extractLsb' 8 18 != 0 || w.extractLsb' 0 4 != 0 || (!w.getLsbD 7 && w.getLsbD 6) then none
    else some (.stacc inc (w.getLsbD 7) (w.getLsbD 6) (w.extractLsb' 4 2))
  | 0x07 => if w.extractLsb' 4 23 = 0 then some (.zacc (w.extractLsb' 0 4)) else none
  | 0x08 =>
    if w.extractLsb' 22 5 = 0 && w.extractLsb' 16 4 = 0 then some (.setc k (w.extractLsb' 0 16)) else none
  | 0x09 =>
    if w.extractLsb' 22 5 = 0 && w.extractLsb' 6 14 = 0 then some (.loop k (w.extractLsb' 0 6)) else none
  | 0x0A =>
    if w.extractLsb' 22 5 = 0 && w.extractLsb' 16 4 = 0 then some (.incr k (w.extractLsb' 0 16)) else none
  | 0x0B => if w.extractLsb' 0 27 = 0 then some .nextb else none
  | 0x0C => if w.extractLsb' 0 27 = 0 then some .halt else none
  | _ => none

/-- The instruction the decoders read from a table row's bits: a producer word for up to 32 bits, else a slot. -/
def decodeTableWord (nbits w : Nat) : Option Instr :=
  if nbits ≤ 32 then decodeStream (BitVec.ofNat 32 w)
  else
    match decode (BitVec.ofNat 96 w) with
    | .ok s => some s.ins
    | .error _ => none

/-- Format A as bits [75:0] (R58). -/
def packA (f : FmtA) : BitVec 76 :=
  f.ty.code ++ f.d ++ f.a ++ f.b ++ f.c ++ BitVec.ofBool f.sat ++ f.rm.code ++ BitVec.ofBool f.na ++ BitVec.ofBool f.nb
    ++ BitVec.ofBool f.nc ++ f.bsel ++ f.imm

/-- Format M as bits [75:0] (R58). -/
def packM (f : FmtM) : BitVec 76 :=
  f.ty.code ++ f.d ++ f.bf ++ f.x ++ f.ix ++ f.cnt ++ f.hint ++ f.zero ++ f.off

/-- Format B as bits [75:0] (R58). -/
def packB (f : FmtB) : BitVec 76 :=
  f.tslot ++ f.tline ++ f.jslot ++ f.jline ++ f.a ++ f.zero

/-- Format T as bits [75:0] (R58). -/
def packT (f : FmtT) : BitVec 76 :=
  f.ty.code ++ f.md ++ f.ma ++ f.mb ++ f.mc ++ f.sa ++ f.sb ++ f.tmod ++ f.imm

/-- Format E as bits [75:0] (R58). -/
def packE (f : FmtE) : BitVec 76 :=
  f.sub ++ f.d ++ f.a ++ f.b ++ f.ts ++ f.wq ++ f.bt ++ f.zero ++ f.imm

/-- Format S as bits [75:0] (R58). -/
def packS (f : FmtS) : BitVec 76 :=
  f.sreg ++ f.a ++ f.imm

/-- A slot's word from its op, fn, header and body (R56). -/
def word (op fn : Nat) (h : Hdr) (body : BitVec 76) : BitVec 96 :=
  BitVec.ofNat 8 op ++ BitVec.ofBool h.sp ++ h.pr ++ BitVec.ofBool h.pn ++ h.fl ++ BitVec.ofNat 5 fn ++ body

/-- The word of an instruction of the opcode map (R68) under a header; none for micro-operations and events. -/
def encodeIns (h : Hdr) (body : BitVec 81) : Instr → Option (BitVec 96)
  | .nop => some 0
  | .liveWord => some (0xFF#8 ++ BitVec.ofBool h.sp ++ h.pr ++ BitVec.ofBool h.pn ++ h.fl ++ body)
  | .bra f => some (word 0x01 0 h (packB f))
  | .braU f => some (word 0x01 1 h (packB f))
  | .jmp f => some (word 0x01 2 h (packB f))
  | .jmpi f => some (word 0x02 0 h (packB f))
  | .call f => some (word 0x03 0 h (packB f))
  | .ret f => some (word 0x04 0 h (packB f))
  | .join => some (word 0x05 0 h (body.setWidth 76))
  | .fragmentFuse _ => none
  | .exit => some (word 0x06 0 h (body.setWidth 76))
  | .loop f => some (word 0x0A 0 h (packB f))
  | .mfem f => some (word 0x07 0 h (packA f))
  | .mtem f => some (word 0x07 1 h (packA f))
  | .mfom f => some (word 0x07 2 h (packA f))
  | .nap f => some (word 0x08 0 h (packA f))
  | .napExpire _ => none
  | .yield => some (word 0x08 1 h (body.setWidth 76))
  | .spawn f => some (word 0x09 0 h (packE f))
  | .add f => some (word 0x10 0 h (packA f))
  | .sub f => some (word 0x10 1 h (packA f))
  | .addc f => some (word 0x10 2 h (packA f))
  | .subb f => some (word 0x10 3 h (packA f))
  | .min f => some (word 0x10 4 h (packA f))
  | .max f => some (word 0x10 5 h (packA f))
  | .abs f => some (word 0x10 6 h (packA f))
  | .neg f => some (word 0x10 7 h (packA f))
  | .mul f => some (word 0x11 0 h (packA f))
  | .mulh f => some (word 0x11 1 h (packA f))
  | .mulhu f => some (word 0x11 2 h (packA f))
  | .mad f => some (word 0x11 3 h (packA f))
  | .madw f => some (word 0x11 4 h (packA f))
  | .div f => some (word 0x11 5 h (packA f))
  | .divu f => some (word 0x11 6 h (packA f))
  | .rem f => some (word 0x11 7 h (packA f))
  | .remu f => some (word 0x11 8 h (packA f))
  | .and f => some (word 0x12 0 h (packA f))
  | .or f => some (word 0x12 1 h (packA f))
  | .xor f => some (word 0x12 2 h (packA f))
  | .not f => some (word 0x12 3 h (packA f))
  | .andn f => some (word 0x12 4 h (packA f))
  | .lop3 f => some (word 0x12 5 h (packA f))
  | .shl f => some (word 0x13 0 h (packA f))
  | .shr f => some (word 0x13 1 h (packA f))
  | .sra f => some (word 0x13 2 h (packA f))
  | .rol f => some (word 0x13 3 h (packA f))
  | .ror f => some (word 0x13 4 h (packA f))
  | .bfx f => some (word 0x14 0 h (packA f))
  | .bfi f => some (word 0x14 1 h (packA f))
  | .popc f => some (word 0x14 2 h (packA f))
  | .clz f => some (word 0x14 3 h (packA f))
  | .ctz f => some (word 0x14 4 h (packA f))
  | .brev f => some (word 0x14 5 h (packA f))
  | .bperm f => some (word 0x14 6 h (packA f))
  | .cmp c f => some (word 0x15 c.fn h (packA f))
  | .mov f => some (word 0x16 0 h (packA f))
  | .movi f => some (word 0x16 1 h (packA f))
  | .sel f => some (word 0x16 2 h (packA f))
  | .sext f => some (word 0x16 3 h (packA f))
  | .zext f => some (word 0x16 4 h (packA f))
  | .lea f => some (word 0x16 5 h (packA f))
  | .pand f => some (word 0x17 0 h (packA f))
  | .por f => some (word 0x17 1 h (packA f))
  | .pxor f => some (word 0x17 2 h (packA f))
  | .pnot f => some (word 0x17 3 h (packA f))
  | .pmfs f => some (word 0x17 4 h (packA f))
  | .pmts f => some (word 0x17 5 h (packA f))
  | .shfl m f => some (word 0x20 m.fn h (packA f))
  | .vany f => some (word 0x21 0 h (packA f))
  | .vall f => some (word 0x21 1 h (packA f))
  | .vbal f => some (word 0x21 2 h (packA f))
  | .vred op f => some (word 0x22 op.fn h (packA f))
  | .vscan excl op f => some (word 0x23 (if excl then op.fn + 8 else op.fn) h (packA f))
  | .vcomp f => some (word 0x24 0 h (packA f))
  | .mfl f => some (word 0x25 0 h (packA f))
  | .mtl f => some (word 0x25 1 h (packA f))
  | .uadd f => some (word 0x30 0 h (packA f))
  | .usub f => some (word 0x30 1 h (packA f))
  | .umin f => some (word 0x30 2 h (packA f))
  | .umax f => some (word 0x30 3 h (packA f))
  | .umul f => some (word 0x31 0 h (packA f))
  | .umad f => some (word 0x31 1 h (packA f))
  | .uand f => some (word 0x32 0 h (packA f))
  | .uor f => some (word 0x32 1 h (packA f))
  | .uxor f => some (word 0x32 2 h (packA f))
  | .ushl f => some (word 0x33 0 h (packA f))
  | .ushr f => some (word 0x33 1 h (packA f))
  | .usra f => some (word 0x33 2 h (packA f))
  | .ubfx f => some (word 0x34 0 h (packA f))
  | .ubfi f => some (word 0x34 1 h (packA f))
  | .upopc f => some (word 0x34 2 h (packA f))
  | .ucmp c f => some (word 0x35 c.fn h (packA f))
  | .umov f => some (word 0x36 0 h (packA f))
  | .umovi f => some (word 0x36 1 h (packA f))
  | .ulea f => some (word 0x36 2 h (packA f))
  | .fadd f => some (word 0x40 0 h (packA f))
  | .fsub f => some (word 0x40 1 h (packA f))
  | .fmul f => some (word 0x41 0 h (packA f))
  | .ffma f => some (word 0x42 0 h (packA f))
  | .ffms f => some (word 0x42 1 h (packA f))
  | .fnma f => some (word 0x42 2 h (packA f))
  | .fmin f => some (word 0x43 0 h (packA f))
  | .fmax f => some (word 0x43 1 h (packA f))
  | .fcmp c f => some (word 0x44 c.fn h (packA f))
  | .fdiv f => some (word 0x45 0 h (packA f))
  | .fsqrt f => some (word 0x45 1 h (packA f))
  | .frcp f => some (word 0x46 0 h (packA f))
  | .frsq f => some (word 0x46 1 h (packA f))
  | .fex2 f => some (word 0x46 2 h (packA f))
  | .flg2 f => some (word 0x46 3 h (packA f))
  | .fsin f => some (word 0x46 4 h (packA f))
  | .fcos f => some (word 0x46 5 h (packA f))
  | .ftanh f => some (word 0x46 6 h (packA f))
  | .frnd f => some (word 0x47 0 h (packA f))
  | .ffrac f => some (word 0x47 1 h (packA f))
  | .fclass f => some (word 0x47 2 h (packA f))
  | .fscale f => some (word 0x47 3 h (packA f))
  | .hadd2 f => some (word 0x48 0 h (packA f))
  | .hmul2 f => some (word 0x48 1 h (packA f))
  | .hfma2 f => some (word 0x48 2 h (packA f))
  | .hmin2 f => some (word 0x48 3 h (packA f))
  | .hmax2 f => some (word 0x48 4 h (packA f))
  | .cvt f => some (word 0x50 0 h (packA f))
  | .cvtpk f => some (word 0x51 0 h (packA f))
  | .cvtun f => some (word 0x52 0 h (packA f))
  | .dp2Bf16 f => some (word 0x53 0 h (packA f))
  | .dp2F16 f => some (word 0x53 1 h (packA f))
  | .dp4E4m3 f => some (word 0x53 2 h (packA f))
  | .dp4E5m2 f => some (word 0x53 3 h (packA f))
  | .dp4Hs8 f => some (word 0x53 4 h (packA f))
  | .dp8Hs4 f => some (word 0x53 5 h (packA f))
  | .dp8E2m1 f => some (word 0x53 6 h (packA f))
  | .dp4I8 f => some (word 0x53 7 h (packA f))
  | .dp4N8 f => some (word 0x53 8 h (packA f))
  | .mxs f => some (word 0x54 0 h (packA f))
  | .mzero f => some (word 0x60 0 h (packT f))
  | .mld f => some (word 0x61 0 h (packT f))
  | .mst f => some (word 0x62 0 h (packT f))
  | .mlaneGet f => some (word 0x63 0 h (packT f))
  | .mlanePut f => some (word 0x63 0 h (packT f))
  | .mxlaneGet f => some (word 0x64 0 h (packT f))
  | .mxlanePut f => some (word 0x64 0 h (packT f))
  | .mma f => some (word 0x65 0 h (packT f))
  | .mmas f => some (word 0x66 0 h (packT f))
  | .mgath f => some (word 0x67 0 h (packT f))
  | .mcvt f => some (word 0x68 0 h (packT f))
  | .madd f => some (word 0x69 0 h (packT f))
  | .mtr f => some (word 0x6A 0 h (packT f))
  | .mrel f => some (word 0x6B 0 h (packT f))
  | .lds f => some (word 0x70 0 h (packE f))
  | .sts f => some (word 0x71 0 h (packE f))
  | .atms op f => some (word 0x72 op.fn h (packE f))
  | .pld f => some (word 0x73 0 h (packE f))
  | .pst f => some (word 0x74 0 h (packE f))
  | .wbind f => some (word 0x7E 0 h (packE f))
  | .wtouch f => some (word 0x7E 1 h (packE f))
  | .windowCopyLanded _ _ => none
  | .wstat f => some (word 0x7E 2 h (packE f))
  | .wunbind f => some (word 0x7E 3 h (packE f))
  | .qcfg f => some (word 0x75 0 h (packE f))
  | .qpush f => some (word 0x76 0 h (packE f))
  | .qpushU f => some (word 0x76 0 h (packE f))
  | .qpushTry f => some (word 0x76 1 h (packE f))
  | .qpop f => some (word 0x77 0 h (packE f))
  | .qpopU f => some (word 0x77 0 h (packE f))
  | .qpopTry f => some (word 0x77 1 h (packE f))
  | .qclose f => some (word 0x78 0 h (packE f))
  | .qstat f => some (word 0x79 0 h (packE f))
  | .cinit f => some (word 0x7A 0 h (packE f))
  | .carrive f => some (word 0x7B 0 h (packE f))
  | .carriveWait f => some (word 0x7B 1 h (packE f))
  | .cexpect f => some (word 0x7C 0 h (packE f))
  | .cwait f => some (word 0x7D 0 h (packE f))
  | .ctest f => some (word 0x7D 1 h (packE f))
  | .claspUpdate _ _ => none
  | .ld f => some (word 0x80 0 h (packM f))
  | .st f => some (word 0x81 0 h (packM f))
  | .ldu f => some (word 0x82 0 h (packM f))
  | .stu f => some (word 0x83 0 h (packM f))
  | .pfh f => some (word 0x84 0 h (packM f))
  | .ldbf f => some (word 0x85 0 h (packM f))
  | .mkbf f => some (word 0x86 0 h (packE f))
  | .bfq f => some (word 0x87 0 h (packE f))
  | .wbl f => some (word 0x88 0 h (packM f))
  | .invl f => some (word 0x89 0 h (packM f))
  | .frply => some (word 0x8B 0 h (body.setWidth 76))
  | .dharv f => some (word 0x8C 0 h (packE f))
  | .rngw f => some (word 0x8D 0 h (packS f))
  | .atm op f => some (word 0x90 op.fn h (packM f))
  | .red op f => some (word 0x91 op.fn h (packM f))
  | .ldv f => some (word 0x92 0 h (packM f))
  | .verq f => some (word 0x98 0 h (packM f))
  | .casv f => some (word 0x93 0 h (packM f))
  | .vclr => some (word 0x94 0 h (body.setWidth 76))
  | .vaddU f => some (word 0x95 0 h (packE f))
  | .vadd f => some (word 0x95 0 h (packE f))
  | .vstc f => some (word 0x96 0 h (packM f))
  | .vcommit f => some (word 0x97 0 h (packE f))
  | .fenceDom => some (word 0x99 0 h (body.setWidth 76))
  | .fenceNc => some (word 0x99 1 h (body.setWidth 76))
  | .fenceSys => some (word 0x99 2 h (body.setWidth 76))
  | .homeLineAccess _ _ => none
  | .redArrival _ _ _ _ _ _ => none
  | .signatureSquash _ _ => none
  | .l1Eviction _ _ => none
  | .requestReplay _ _ => none
  | .cachePowerGate _ => none
  | .cacheWake _ => none
  | .tsload f => some (word 0xA0 0 h (packE f))
  | .tsevict f => some (word 0xA1 0 h (packE f))
  | .cpyld f => some (word 0xA2 0 h (packE f))
  | .cpyst f => some (word 0xA3 0 h (packE f))
  | .cpyred op f => some (word 0xA4 op.fn h (packE f))
  | .cpymc f => some (word 0xA5 0 h (packE f))
  | .cpyg f => some (word 0xA6 0 h (packE f))
  | .cpystripe f => some (word 0xA7 0 h (packE f))
  | .copyEntryGrant _ => none
  | .copyLineTransfer _ _ => none
  | .fragmentUnpark _ => none
  | .copyComplete _ => none
  | .copyFault _ _ _ => none
  | .cseal f => some (word 0xA8 0 h (packE f))
  | .cwaitb f => some (word 0xA9 0 h (packE f))
  | .cstat f => some (word 0xAA 0 h (packE f))
  | .pdload f => some (word 0xB0 0 h (packE f))
  | .pdloadTry f => some (word 0xB0 0 h (packE f))
  | .pdstart f => some (word 0xB1 0 h (packE f))
  | .pdstartCont f => some (word 0xB1 0 h (packE f))
  | .pdstop => some (word 0xB2 0 h (0#4 ++ 0#72))
  | .pdstopRel => some (word 0xB2 0 h (1#4 ++ 0#72))
  | .pdstat f => some (word 0xB3 0 h (packE f))
  | .endp _ => none
  | .rd _ _ _ => none
  | .unp _ _ _ => none
  | .lut _ _ _ => none
  | .tld _ _ _ => none
  | .tableLanded _ _ => none
  | .streamCvt _ _ _ _ _ _ => none
  | .scl _ _ _ _ => none
  | .push _ _ _ => none
  | .waitc _ _ => none
  | .streamLoop _ _ => none
  | .streamAddShift _ _ _ _ => none
  | .streamAddImm _ _ _ => none
  | .producerFault _ _ _ => none
  | .wlapp f => some (word 0xB8 0 h (packE f))
  | .wlpop f => some (word 0xB9 0 h (packE f))
  | .wlquiet f => some (word 0xBA 0 h (packE f))
  | .wlquietReg => some (word 0xBA 0 h (1#4 ++ 0#72))
  | .wlquietUnreg => some (word 0xBA 0 h (2#4 ++ 0#72))
  | .worklistQuiescent _ => none
  | .ibsess f => some (word 0xC0 0 h (packE f))
  | .ibsessTry f => some (word 0xC0 1 h (packE f))
  | .sessionGrant _ => none
  | .ibprog f => some (word 0xC1 0 h (packE f))
  | .ibvec f => some (word 0xC2 0 h (packE f))
  | .ibscale f => some (word 0xC3 0 h (packE f))
  | .ibscaleU f => some (word 0xC3 0 h (packE f))
  | .ibstep f => some (word 0xC4 0 h (packE f))
  | .ibstepReg f => some (word 0xC4 0 h (packE f))
  | .ibread f => some (word 0xC5 0 h (packE f))
  | .ibfenceIn f => some (word 0xC6 0 h (packM f))
  | .ibfenceInFlip _ => none
  | .ibfenceOut f => some (word 0xC6 1 h (packM f))
  | .ibfenceOutFlip _ => none
  | .ibend => some (word 0xC7 0 h (body.setWidth 76))
  | .ibstat f => some (word 0xC8 0 h (packE f))
  | .sessionEnd _ _ => none
  | .ibStep _ _ => none
  | .ibWatchdogExpiry _ _ _ => none
  | .collAllred f => some (word 0xD0 0 h (packE f))
  | .collRedscat f => some (word 0xD0 1 h (packE f))
  | .collAllgath f => some (word 0xD0 2 h (packE f))
  | .collBcast f => some (word 0xD0 3 h (packE f))
  | .collBarrier f => some (word 0xD0 4 h (packE f))
  | .collectiveMessage _ _ _ _ => none
  | .collectiveStragglerTimeout _ => none
  | .collectiveComplete _ => none
  | .vwq f => some (word 0xD1 0 h (packE f))
  | .vack => some (word 0xD2 0 h (body.setWidth 76))
  | .vjoin f => some (word 0xD3 0 h (packE f))
  | .fnote f => some (word 0xD4 0 h (packE f))
  | .fwait f => some (word 0xD5 0 h (packE f))
  | .fwaitTry f => some (word 0xD5 0 h (packE f))
  | .notificationArrival _ _ _ _ => none
  | .remoteRequestArrival _ _ _ _ _ => none
  | .remoteReplyArrival _ _ _ => none
  | .flitCrcReplay _ => none
  | .requestRetransmit _ => none
  | .linkDown _ => none
  | .linkTraining _ _ _ => none
  | .heartbeatSend => none
  | .heartbeatReceive _ => none
  | .memberSuspect _ => none
  | .suspicion _ _ => none
  | .proposal _ _ _ => none
  | .accept _ _ => none
  | .commit _ _ _ => none
  | .exclusionTimeout => none
  | .joinRequest _ _ => none
  | .trap => some (word 0xE0 0 h (body.setWidth 76))
  | .tret => some (word 0xE1 0 h (body.setWidth 76))
  | .mfsp f => some (word 0xE2 0 h (packS f))
  | .mtsp f => some (word 0xE3 0 h (packS f))
  | .mfsv f => some (word 0xE4 0 h (packS f))
  | .mtsv f => some (word 0xE5 0 h (packS f))
  | .bkpt => some (word 0xE6 0 h (body.setWidth 76))
  | .halt => some (word 0xE7 0 h (body.setWidth 76))
  | .pdefer => some (word 0xE8 0 h (body.setWidth 76))
  | .trapEntry _ _ _ _ => none
  | .impreciseCauseDelivery _ => none
  | .contextFaultTrap _ => none
  | .fetchLine _ _ => none
  | .fetchLineRefetch _ _ => none
  | .portIssue _ _ => none
  | .instructionComplete _ _ _ => none
  | .fragmentPromote _ => none
  | .coreSwap _ => none
  | .launchRecordTake _ _ => none
  | .teamPlace _ _ => none
  | .teamRetire _ => none
  | .launchComplete _ => none
  | .cretire _ => none
  | .coreRetireEffect _ => none
  | .tlbinv _ _ => none
  | .preemptRequest _ => none
  | .forcedStop _ _ => none
  | .teamDrain _ => none
  | .imageWrite _ => none
  | .ctxres _ _ => none
  | .imageRestore _ _ _ => none
  | .heldWritePlace => none
  | .balloonReclaim => none
  | .clockSweep => none
  | .evictedFrameReturn _ => none
  | .reclaimTimeout => none
  | .capcmdAssign _ => none
  | .capcmdReturn _ => none
  | .capcmdPin _ => none
  | .capcmdUnpin _ => none
  | .capcmdStripeOn _ => none
  | .capcmdStripeOff _ => none
  | .locketPrecopy => none
  | .locketStopAndCopy => none
  | .locketAbort => none
  | .locketReceive => none
  | .locketMessage _ _ => none
  | .ownclaimClaim _ _ _ => none
  | .electionClose => none
  | .ownclaimHand _ _ => none
  | .ownerPathTimeout => none
  | .hostirqEnable _ => none
  | .hostAccess _ => none
  | .firmwareLoad _ _ _ => none
  | .attestation _ _ => none
  | .packageReset => none
  | .powerThrottle _ => none
  | .registerWrite _ _ _ => none
  | .locketAcknowledgement _ => none
  | .preCopyRoundEnd => none
  | .scaleOutLinkFailure => none
  | .hostStoreAcknowledgement => none
  | .joinRefusal _ => none

/-- The 96-bit word of a slot. -/
def encode (s : Slot) : Option (BitVec 96) := encodeIns s.hdr s.body s.ins

/-- The producer word of a micro-operation (R255); none for anything else. -/
def encodeStream : Instr → Option (BitVec 32)
  | .nop => none
  | .liveWord => none
  | .bra _ => none
  | .braU _ => none
  | .jmp _ => none
  | .jmpi _ => none
  | .call _ => none
  | .ret _ => none
  | .join => none
  | .fragmentFuse _ => none
  | .exit => none
  | .loop _ => none
  | .mfem _ => none
  | .mtem _ => none
  | .mfom _ => none
  | .nap _ => none
  | .napExpire _ => none
  | .yield => none
  | .spawn _ => none
  | .add _ => none
  | .sub _ => none
  | .addc _ => none
  | .subb _ => none
  | .min _ => none
  | .max _ => none
  | .abs _ => none
  | .neg _ => none
  | .mul _ => none
  | .mulh _ => none
  | .mulhu _ => none
  | .mad _ => none
  | .madw _ => none
  | .div _ => none
  | .divu _ => none
  | .rem _ => none
  | .remu _ => none
  | .and _ => none
  | .or _ => none
  | .xor _ => none
  | .not _ => none
  | .andn _ => none
  | .lop3 _ => none
  | .shl _ => none
  | .shr _ => none
  | .sra _ => none
  | .rol _ => none
  | .ror _ => none
  | .bfx _ => none
  | .bfi _ => none
  | .popc _ => none
  | .clz _ => none
  | .ctz _ => none
  | .brev _ => none
  | .bperm _ => none
  | .cmp _ _ => none
  | .mov _ => none
  | .movi _ => none
  | .sel _ => none
  | .sext _ => none
  | .zext _ => none
  | .lea _ => none
  | .pand _ => none
  | .por _ => none
  | .pxor _ => none
  | .pnot _ => none
  | .pmfs _ => none
  | .pmts _ => none
  | .shfl _ _ => none
  | .vany _ => none
  | .vall _ => none
  | .vbal _ => none
  | .vred _ _ => none
  | .vscan _ _ _ => none
  | .vcomp _ => none
  | .mfl _ => none
  | .mtl _ => none
  | .uadd _ => none
  | .usub _ => none
  | .umin _ => none
  | .umax _ => none
  | .umul _ => none
  | .umad _ => none
  | .uand _ => none
  | .uor _ => none
  | .uxor _ => none
  | .ushl _ => none
  | .ushr _ => none
  | .usra _ => none
  | .ubfx _ => none
  | .ubfi _ => none
  | .upopc _ => none
  | .ucmp _ _ => none
  | .umov _ => none
  | .umovi _ => none
  | .ulea _ => none
  | .fadd _ => none
  | .fsub _ => none
  | .fmul _ => none
  | .ffma _ => none
  | .ffms _ => none
  | .fnma _ => none
  | .fmin _ => none
  | .fmax _ => none
  | .fcmp _ _ => none
  | .fdiv _ => none
  | .fsqrt _ => none
  | .frcp _ => none
  | .frsq _ => none
  | .fex2 _ => none
  | .flg2 _ => none
  | .fsin _ => none
  | .fcos _ => none
  | .ftanh _ => none
  | .frnd _ => none
  | .ffrac _ => none
  | .fclass _ => none
  | .fscale _ => none
  | .hadd2 _ => none
  | .hmul2 _ => none
  | .hfma2 _ => none
  | .hmin2 _ => none
  | .hmax2 _ => none
  | .cvt _ => none
  | .cvtpk _ => none
  | .cvtun _ => none
  | .dp2Bf16 _ => none
  | .dp2F16 _ => none
  | .dp4E4m3 _ => none
  | .dp4E5m2 _ => none
  | .dp4Hs8 _ => none
  | .dp8Hs4 _ => none
  | .dp8E2m1 _ => none
  | .dp4I8 _ => none
  | .dp4N8 _ => none
  | .mxs _ => none
  | .mzero _ => none
  | .mld _ => none
  | .mst _ => none
  | .mlaneGet _ => none
  | .mlanePut _ => none
  | .mxlaneGet _ => none
  | .mxlanePut _ => none
  | .mma _ => none
  | .mmas _ => none
  | .mgath _ => none
  | .mcvt _ => none
  | .madd _ => none
  | .mtr _ => none
  | .mrel _ => none
  | .lds _ => none
  | .sts _ => none
  | .atms _ _ => none
  | .pld _ => none
  | .pst _ => none
  | .wbind _ => none
  | .wtouch _ => none
  | .windowCopyLanded _ _ => none
  | .wstat _ => none
  | .wunbind _ => none
  | .qcfg _ => none
  | .qpush _ => none
  | .qpushU _ => none
  | .qpushTry _ => none
  | .qpop _ => none
  | .qpopU _ => none
  | .qpopTry _ => none
  | .qclose _ => none
  | .qstat _ => none
  | .cinit _ => none
  | .carrive _ => none
  | .carriveWait _ => none
  | .cexpect _ => none
  | .cwait _ => none
  | .ctest _ => none
  | .claspUpdate _ _ => none
  | .ld _ => none
  | .st _ => none
  | .ldu _ => none
  | .stu _ => none
  | .pfh _ => none
  | .ldbf _ => none
  | .mkbf _ => none
  | .bfq _ => none
  | .wbl _ => none
  | .invl _ => none
  | .frply => none
  | .dharv _ => none
  | .rngw _ => none
  | .atm _ _ => none
  | .red _ _ => none
  | .ldv _ => none
  | .verq _ => none
  | .casv _ => none
  | .vclr => none
  | .vaddU _ => none
  | .vadd _ => none
  | .vstc _ => none
  | .vcommit _ => none
  | .fenceDom => none
  | .fenceNc => none
  | .fenceSys => none
  | .homeLineAccess _ _ => none
  | .redArrival _ _ _ _ _ _ => none
  | .signatureSquash _ _ => none
  | .l1Eviction _ _ => none
  | .requestReplay _ _ => none
  | .cachePowerGate _ => none
  | .cacheWake _ => none
  | .tsload _ => none
  | .tsevict _ => none
  | .cpyld _ => none
  | .cpyst _ => none
  | .cpyred _ _ => none
  | .cpymc _ => none
  | .cpyg _ => none
  | .cpystripe _ => none
  | .copyEntryGrant _ => none
  | .copyLineTransfer _ _ => none
  | .fragmentUnpark _ => none
  | .copyComplete _ => none
  | .copyFault _ _ _ => none
  | .cseal _ => none
  | .cwaitb _ => none
  | .cstat _ => none
  | .pdload _ => none
  | .pdloadTry _ => none
  | .pdstart _ => none
  | .pdstartCont _ => none
  | .pdstop => none
  | .pdstopRel => none
  | .pdstat _ => none
  | .endp mask => some (0x0#4 ++ 0#12 ++ mask)
  | .rd d st n => some (0x1#4 ++ d ++ 0#7 ++ BitVec.ofBool st ++ 0#13 ++ n)
  | .unp d st k => some (0x2#4 ++ d ++ 0#7 ++ BitVec.ofBool st ++ 0#11 ++ k)
  | .lut d a tb => some (0x3#4 ++ d ++ a ++ 0#3 ++ BitVec.ofBool tb ++ 0#16)
  | .tld tb st e => some (0x4#4 ++ 0#10 ++ BitVec.ofBool tb ++ BitVec.ofBool st ++ 0#13 ++ e)
  | .tableLanded _ _ => none
  | .streamCvt d a dty sty pol rm => some (0x5#4 ++ d ++ a ++ 0#4 ++ dty.code ++ sty.code ++ pol ++ rm.code ++ 0#3)
  | .scl d a b rm => some (0x6#4 ++ d ++ a ++ b ++ 0#14 ++ rm.code)
  | .push a land q => some (0x7#4 ++ 0#4 ++ a ++ 0#11 ++ BitVec.ofBool land ++ 0#4 ++ q)
  | .waitc par addr => some (0x8#4 ++ 0#11 ++ BitVec.ofBool par ++ addr)
  | .streamLoop a target => some (0x9#4 ++ 0#4 ++ a ++ 0#12 ++ target)
  | .streamAddShift d a b sh => some (0xA#4 ++ d ++ a ++ b ++ 0#11 ++ sh)
  | .streamAddImm d a imm => some (0xA#4 ++ d ++ a ++ 0#4 ++ 1#1 ++ imm)
  | .producerFault _ _ _ => none
  | .wlapp _ => none
  | .wlpop _ => none
  | .wlquiet _ => none
  | .wlquietReg => none
  | .wlquietUnreg => none
  | .worklistQuiescent _ => none
  | .ibsess _ => none
  | .ibsessTry _ => none
  | .sessionGrant _ => none
  | .ibprog _ => none
  | .ibvec _ => none
  | .ibscale _ => none
  | .ibscaleU _ => none
  | .ibstep _ => none
  | .ibstepReg _ => none
  | .ibread _ => none
  | .ibfenceIn _ => none
  | .ibfenceInFlip _ => none
  | .ibfenceOut _ => none
  | .ibfenceOutFlip _ => none
  | .ibend => none
  | .ibstat _ => none
  | .sessionEnd _ _ => none
  | .ibStep _ _ => none
  | .ibWatchdogExpiry _ _ _ => none
  | .collAllred _ => none
  | .collRedscat _ => none
  | .collAllgath _ => none
  | .collBcast _ => none
  | .collBarrier _ => none
  | .collectiveMessage _ _ _ _ => none
  | .collectiveStragglerTimeout _ => none
  | .collectiveComplete _ => none
  | .vwq _ => none
  | .vack => none
  | .vjoin _ => none
  | .fnote _ => none
  | .fwait _ => none
  | .fwaitTry _ => none
  | .notificationArrival _ _ _ _ => none
  | .remoteRequestArrival _ _ _ _ _ => none
  | .remoteReplyArrival _ _ _ => none
  | .flitCrcReplay _ => none
  | .requestRetransmit _ => none
  | .linkDown _ => none
  | .linkTraining _ _ _ => none
  | .heartbeatSend => none
  | .heartbeatReceive _ => none
  | .memberSuspect _ => none
  | .suspicion _ _ => none
  | .proposal _ _ _ => none
  | .accept _ _ => none
  | .commit _ _ _ => none
  | .exclusionTimeout => none
  | .joinRequest _ _ => none
  | .trap => none
  | .tret => none
  | .mfsp _ => none
  | .mtsp _ => none
  | .mfsv _ => none
  | .mtsv _ => none
  | .bkpt => none
  | .halt => none
  | .pdefer => none
  | .trapEntry _ _ _ _ => none
  | .impreciseCauseDelivery _ => none
  | .contextFaultTrap _ => none
  | .fetchLine _ _ => none
  | .fetchLineRefetch _ _ => none
  | .portIssue _ _ => none
  | .instructionComplete _ _ _ => none
  | .fragmentPromote _ => none
  | .coreSwap _ => none
  | .launchRecordTake _ _ => none
  | .teamPlace _ _ => none
  | .teamRetire _ => none
  | .launchComplete _ => none
  | .cretire _ => none
  | .coreRetireEffect _ => none
  | .tlbinv _ _ => none
  | .preemptRequest _ => none
  | .forcedStop _ _ => none
  | .teamDrain _ => none
  | .imageWrite _ => none
  | .ctxres _ _ => none
  | .imageRestore _ _ _ => none
  | .heldWritePlace => none
  | .balloonReclaim => none
  | .clockSweep => none
  | .evictedFrameReturn _ => none
  | .reclaimTimeout => none
  | .capcmdAssign _ => none
  | .capcmdReturn _ => none
  | .capcmdPin _ => none
  | .capcmdUnpin _ => none
  | .capcmdStripeOn _ => none
  | .capcmdStripeOff _ => none
  | .locketPrecopy => none
  | .locketStopAndCopy => none
  | .locketAbort => none
  | .locketReceive => none
  | .locketMessage _ _ => none
  | .ownclaimClaim _ _ _ => none
  | .electionClose => none
  | .ownclaimHand _ _ => none
  | .ownerPathTimeout => none
  | .hostirqEnable _ => none
  | .hostAccess _ => none
  | .firmwareLoad _ _ _ => none
  | .attestation _ _ => none
  | .packageReset => none
  | .powerThrottle _ => none
  | .registerWrite _ _ _ => none
  | .locketAcknowledgement _ => none
  | .preCopyRoundEnd => none
  | .scaleOutLinkFailure => none
  | .hostStoreAcknowledgement => none
  | .joinRefusal _ => none

/-- The word of an in-bank command (R342). -/
def encodeBgu : BguCmd → BitVec 32
  | .nop => 0
  | .openRow all bank cx k row =>
    0x01#5 ++ BitVec.ofBool all ++ bank ++ BitVec.ofBool cx ++ 0#1 ++ k ++ 0#4 ++ row
  | .col n => 0x02#5 ++ 0#23 ++ n
  | .mac inc cj k j bv => 0x03#5 ++ BitVec.ofBool inc ++ BitVec.ofBool cj ++ 0#3 ++ k ++ 0#8 ++ j ++ 0#3 ++ bv
  | .macx inc cj k j sc q =>
    0x04#5 ++ BitVec.ofBool inc ++ BitVec.ofBool cj ++ 0#3 ++ k ++ 0#8 ++ j ++ sc ++ 0#3 ++ BitVec.ofBool q
  | .ldbv inc bv => 0x05#5 ++ BitVec.ofBool inc ++ 0#23 ++ bv
  | .stacc inc half hi g => 0x06#5 ++ BitVec.ofBool inc ++ 0#18 ++ BitVec.ofBool half ++ BitVec.ofBool hi ++ g ++ 0#4
  | .zacc mask => 0x07#5 ++ 0#23 ++ mask
  | .setc k v => 0x08#5 ++ 0#5 ++ k ++ 0#4 ++ v
  | .loop k target => 0x09#5 ++ 0#5 ++ k ++ 0#14 ++ target
  | .incr k imm => 0x0A#5 ++ 0#5 ++ k ++ 0#4 ++ imm
  | .nextb => 0x0B#5 ++ 0#27
  | .halt => 0x0C#5 ++ 0#27

end Sys2Proof
end

