-- ==== Sys2Proof/Machine/Maps.lean ====
section
/-!
DEFINITION. Sys2Proof/Machine/Maps.lean: the operations on keyed data and the bit and byte helpers every other file uses.
A map is a list of pairs with rising keys; an unlisted key reads as a default, and no entry equals the default.
-/

namespace Sys2Proof.Machine

/-- What a key reads as. -/
def Map.get {α : Type} (d : α) : Map α → Nat → α
  | [], _ => d
  | (k, v) :: m, i => if k = i then v else Map.get d m i

/-- Whether a key is listed. -/
def Map.has {α : Type} : Map α → Nat → Bool
  | [], _ => false
  | (k, _) :: m, i => k == i || Map.has m i

/-- The entry of a key, if listed. -/
def Map.find {α : Type} : Map α → Nat → Option α
  | [], _ => none
  | (k, v) :: m, i => if k = i then some v else Map.find m i

/-- Without the entries of a key. -/
def Map.erase {α : Type} : Map α → Nat → Map α
  | [], _ => []
  | (k, v) :: m, i => if k = i then Map.erase m i else (k, v) :: Map.erase m i

/-- With an entry for a key, in its place by rising keys. -/
def Map.put {α : Type} : Map α → Nat → α → Map α
  | [], i, x => [(i, x)]
  | (k, v) :: m, i, x =>
    if i < k then (i, x) :: (k, v) :: m
    else if k = i then (i, x) :: Map.erase m i
    else (k, v) :: Map.put m i x

/-- A write: the default value removes the entry, so that equal contents are equal data. -/
def Map.set {α : Type} [DecidableEq α] (d : α) (m : Map α) (i : Nat) (x : α) : Map α :=
  if x = d then Map.erase m i else Map.put m i x

/-- Keys strictly rising. -/
def Map.rising {α : Type} : Map α → Bool
  | [] => true
  | [_] => true
  | (k, _) :: (j, y) :: m => decide (k < j) && Map.rising ((j, y) :: m)

/-- The canonical form: keys strictly rising and no entry equal to the default. -/
def Map.wf {α : Type} [DecidableEq α] (d : α) (m : Map α) : Bool :=
  Map.rising m && m.all (fun p => decide (p.2 ≠ d))

/-- An update of one key, present or not. -/
def Map.modify {α : Type} (d : α) (m : Map α) (i : Nat) (f : α → α) : Map α :=
  Map.put m i (f (Map.get d m i))

/-- An update of one key, if present. -/
def Map.alter {α : Type} (m : Map α) (i : Nat) (f : α → α) : Map α :=
  match Map.find m i with
  | none => m
  | some x => Map.put m i (f x)

/-- Every value changed. -/
def Map.mapVal {α : Type} (m : Map α) (f : Nat → α → α) : Map α :=
  m.map (fun p => (p.1, f p.1 p.2))

/-- The keys. -/
def Map.keys {α : Type} (m : Map α) : List Nat := m.map (·.1)

/-- The least number at or above `n` that is no key, searching at most `fuel` numbers. -/
def Map.freshFrom {α : Type} (m : Map α) : Nat → Nat → Nat
  | 0, n => n
  | fuel + 1, n => if Map.has m n then Map.freshFrom m fuel (n + 1) else n

/-- A number that is no key of the map. -/
def Map.fresh {α : Type} (m : Map α) : Nat := Map.freshFrom m (m.length + 1) 0

/-- The bytes of a map of bytes, unlisted bytes reading as zero. -/
def Map.bytes (m : Map Byte) (a : Nat) : Nat → List Byte
  | 0 => []
  | n + 1 => Map.get 0 m a :: Map.bytes m (a + 1) n

/-- Bytes written upward from an address. -/
def Map.setBytes (m : Map Byte) (a : Nat) : List Byte → Map Byte
  | [] => m
  | b :: bs => Map.setBytes (Map.set 0 m a b) (a + 1) bs

/-- The number that bytes hold, the first byte least significant (R11). -/
def natOfBytes : List Byte → Nat
  | [] => 0
  | b :: bs => b.toNat + 256 * natOfBytes bs

/-- The `n` low bytes of a number, least significant first (R11). -/
def bytesOfNat : Nat → Nat → List Byte
  | 0, _ => []
  | n + 1, x => BitVec.ofNat 8 x :: bytesOfNat n (x / 256)

/-- `x` rounded down to a multiple of `n`. -/
def alignDown (n x : Nat) : Nat := n * (x / n)

/-- `x` rounded up to a multiple of `n`. -/
def alignUp (n x : Nat) : Nat := n * ((x + (n - 1)) / n)

/-- Bits [hi:lo] of a number. -/
def bits (x hi lo : Nat) : Nat := x / 2 ^ lo % 2 ^ (hi + 1 - lo)

/-- Bits [hi:lo] of a doubleword as a number. -/
def field (x : DWord) (hi lo : Nat) : Nat := bits x.toNat hi lo

/-- One bit of a number. -/
def bit (x i : Nat) : Bool := x.testBit i

/-- A doubleword with bits [hi:lo] replaced by the low bits of `v`. -/
def setField (x : DWord) (hi lo v : Nat) : DWord :=
  let m := BitVec.ofNat 64 ((2 ^ (hi + 1 - lo) - 1) * 2 ^ lo)
  (x &&& ~~~m) ||| (BitVec.ofNat 64 (v * 2 ^ lo) &&& m)

/-- The number of set bits among the low `n` bits. -/
def popNat (x : Nat) : Nat → Nat
  | 0 => 0
  | n + 1 => popNat x n + (if x.testBit n then 1 else 0)

/-- The set bits of a mask, in ascending order. -/
def bitsOf (m : Mask) : List Nat := (List.range 64).filter (fun l => m.getLsbD l)

/-- The mask of a list of bit numbers. -/
def maskOf (l : List Nat) : Mask := l.foldl (fun m i => m ||| BitVec.ofNat 64 (2 ^ i)) 0

/-- The mask of the low `n` bits. -/
def lowMask (n : Nat) : Mask := BitVec.ofNat 64 (2 ^ n - 1)

/-- The number of lanes of a mask. -/
def Mask.count (m : Mask) : Nat := (bitsOf m).length

end Sys2Proof.Machine
end

