-- ==== Sys2Proof/Machine/State.lean ====
section
/-!
DEFINITION. Sys2Proof/Machine/State.lean: everything the manual gives the machine, as plain data; why a step stops; and the
machine right after reset.
-/

namespace Sys2Proof.Machine

/-- A register an instruction names: vector, uniform, predicate (R115 to R118), tile (R168), shape slot (R229). -/
inductive Reg where
  | v (n : Nat)
  | s (n : Nat)
  | p (n : Nat)
  | m (n : Nat)
  /-- a shape slot (R229) -/
  | ts (n : Nat)
deriving DecidableEq, Repr

/-- The masks a split saves (R88, R89). -/
structure SplitSave where
  om : Mask
  em : Mask
  join : Option CodePtr
  sib : Option Nat
deriving DecidableEq, Repr

/-- A pending record of a branch that could not split (R90). -/
structure Pending where
  mask : Mask
  pc : CodePtr
  join : CodePtr
  om : Mask
  em : Mask
  ojoin : Option CodePtr
  phase : Bool
deriving DecidableEq, Repr

/-- What a fragment that issues its slot again waits for. -/
inductive Again where
  /-- a copy-queue entry (R224) -/
  | entry
  /-- a window copy (R207) -/
  | window (w : Nat)
  /-- a fence's condition (R296, R297), with rules 8 and 9 or without -/
  | fence (nc sys : Bool)
  /-- batches: how many may be open for `cwaitb`, none for `cseal` (R241, R242) -/
  | batch (n : Option Nat)
  /-- the core's producer slot (R250, R253) -/
  | producer
  /-- a notification (R380) -/
  | note
  /-- the return of an evicted frame, or another wait inside the memory (R323) -/
  | memory
deriving DecidableEq, Repr

/-- Why a fragment is parked (R97). -/
inductive Park where
  /-- at its join (R91), or arrived there through `exit` (R92) -/
  | join
  /-- in `nap` until a core cycle (R96) -/
  | nap (wake : Nat)
  /-- on absent scratchpad lines of a team (R197) -/
  | lines (team : Nat) (lines : List Nat)
  /-- on a queue of a team (R211) -/
  | queue (team q : Nat)
  /-- on a clasp of a team until its phase differs (R219) -/
  | clasp (team addr : Nat) (par : Bool)
  /-- in `wlquiet` of a die's unit (R113) -/
  | quiet (die : Nat) (mask : DWord) (d : Nat)
  /-- in an instruction that issues again from its start (R433) -/
  | again (why : Again)
  /-- in `ibsess`, among the openers (R339) -/
  | opener
  /-- in an in-bank fence (R337) -/
  | bankFence
  /-- in `ibread` or `ibend`, until its turn in the session comes (R350, R351) -/
  | bankTurn
  /-- in `vjoin`, for the tag it writes (R373) -/
  | joining (d : Nat)
  /-- the wait is over with this value for the uniform register (R113, R373) -/
  | got (d : Nat) (value : DWord)
deriving DecidableEq, Repr

/-- The units of tile storage that a tile instruction reads and writes (R174). -/
structure TileUse where
  reads : List Nat
  writes : List Nat
deriving DecidableEq, Repr

/-- What an issued `mld`, `mst` or `mgath` that is parked read at its first issue (R171, R173): its tile's shape register and
its uniform operands, and the scratchpad line at which an `mst` continues (R189). -/
structure TileRun where
  mc : DWord
  a : DWord
  b : DWord
  next : Nat
deriving DecidableEq, Repr

/-- The stalls already counted at a fragment's slot: by a full flag (R51), by a pending register (R53), by the scoreboard (R174). -/
structure Counted where
  full : Bool
  pending : Bool
  tile : Bool
deriving DecidableEq, Repr

/-- A split-table entry (R88). -/
structure Frag where
  om : Mask
  em : Mask
  pc : CodePtr
  join : Option CodePtr
  sib : Option Nat
  save : Option SplitSave
  parent : Option Nat
  pend : List Pending
  wait : Bool
  park : Option Park
  /-- registers a parked instruction writes later (R433) -/
  later : List Reg
  /-- the instruction in which it is parked is an explicit safe point too (R61) -/
  sp : Bool
  stamp : Nat
  promoted : Bool
  /-- the cycle since which it has been ready and not chosen (R100) -/
  ready : Option Nat
  /-- the fetched line and its address (R43, R45) -/
  line : Option (Nat × BitVec 512)
  /-- a first copy failed its parity, and the line is to be fetched once more (R45) -/
  refetch : Bool
  /-- entered at a launch: the entry slot's mark is still to be checked (R47) -/
  fresh : Bool
  /-- its latest turn issued its slot (R103) -/
  went : Bool
  /-- remote requests whose replies this slot waits for (R362) -/
  sent : List Nat
  counted : Counted
  /-- the tile instruction in which the fragment is parked, and the units it uses -/
  run : Option (TileRun × TileUse)
deriving DecidableEq, Repr

/-- An issued instruction that has not completed (R50). -/
structure Inflight where
  flag : Option Nat
  regs : List Reg
  tile : TileUse
  /-- the step at which it issued -/
  time : Nat
  /-- the request to a peer whose reply it waits for (R380) -/
  req : Option Nat
deriving DecidableEq, Repr

/-- The arrival record (R217): clasp address, rank of the holder if a peer and the half of it that a core runs (R77), arrived lanes. -/
structure Arrival where
  addr : Nat
  rank : Option Nat
  half : Nat
  mask : Mask
deriving DecidableEq, Repr

/-- An entry of the validation set (R304): any 64-bit value may stand for its version (R305). -/
structure VEntry where
  vline : Nat
  mline : Nat
  version : DWord
deriving DecidableEq, Repr

/-- A line of the conditional-store buffer (R304). -/
structure SLine where
  vline : Nat
  mline : Nat
  bytes : List (Option Byte)
deriving DecidableEq, Repr

/-- The sources of imprecise causes (R388). -/
inductive Source where
  | capacity | copy | producer | bank | fabric | clasp | storage
deriving DecidableEq, Repr

/-- An imprecise cause that waits for the group's next slot (R388). -/
structure Held where
  source : Source
  cause : BitVec 9
  addr : CodePtr
  mask : Option Mask
  info0 : DWord
  info1 : Option DWord
  info2 : DWord
  info3 : DWord
  /-- which information word receives the first unissued slot (R386), if any -/
  slotInto : Option Nat
deriving DecidableEq, Repr

/-- Where and how a group stopped for pre-emption (R61, R64, R392). -/
inductive Stop where
  | explicit (live : BitVec 88)
  | implicit
deriving DecidableEq, Repr

/-- A group (R76). -/
structure Group where
  /-- group slot on the core; its port is the slot modulo 4 (R84) -/
  slot : Nat
  owned : Mask
  exited : Mask
  v : Map Word
  s : Map DWord
  p : Map Mask
  /-- completion flags (R48) -/
  k : Map Nat
  ilkcnt : DWord
  grpcnt : DWord
  sbcnt : Nat
  /-- mode: system level (R386) -/
  sys : Bool
  /-- trap frame, by special-register number (R387) -/
  tf : Map DWord
  /-- the entry that runs the handler (R386) -/
  trapEntry : Option Nat
  arr : Option Arrival
  vset : List VEntry
  vfail : Bool
  sbuf : List SLine
  ackTag : Tag
  notified : Bool
  /-- batch counter and batches sealed and not finished (R241) -/
  batch : Nat
  inBatch : Nat
  /-- the die whose worklist unit it is a registered worker of (R113) -/
  worker : Option Nat
  held : List Held
  inflight : Map Inflight
  /-- the end of the latest `pdefer`'s cycles, and whether the deferral that counts for the request is fixed (R393) -/
  deferUntil : Nat
  deferred : Bool
  stop : Option Stop
  /-- the group armed a context-fault trap: oldest line and discards since (R324) -/
  ctxFault : Option (Nat × Nat)
  frags : Map Frag
deriving DecidableEq, Repr

/-- A window (R203). -/
structure Window where
  state : Nat
  base : Nat
  len : Nat
  desc : BitVec 512
  coords : List Int
  sys : Bool
  group : Nat
  addr : CodePtr
deriving DecidableEq, Repr

/-- A request parked on a queue (R211): who, and for a pusher its items, for a popper its lanes and destinations. -/
structure QReq where
  /-- none for the producer's PUSH (R256) -/
  who : Option FragRef
  core : Nat
  items : List Word
  n : Nat
  lanes : List Nat
  d : Nat
  pd : Nat
  uniform : Bool
  addr : CodePtr
deriving DecidableEq, Repr

/-- A queue (R208). -/
structure Queue where
  cfg : Bool
  closed : Bool
  e : Nat
  base : Nat
  head : Nat
  tail : Nat
  pushers : List QReq
  poppers : List QReq
  /-- the fragment, at its slot, whose own step waits for a line of the ring: no later step is taken (R211) -/
  first : Option (FragRef × CodePtr)
deriving DecidableEq, Repr

/-- Who made a landing on a clasp (R218): a copy or a collective of a group, with its code pointer, or a PUSH
of a producer slot, with its word index. -/
inductive LandSrc where
  | group (team group : Nat) (addr : CodePtr)
  | producer (core pc : Nat)
deriving DecidableEq, Repr

/-- Landed bytes that a clasp's next update takes (R218). -/
structure Landing where
  addr : Nat
  bytes : Nat
  src : LandSrc
deriving DecidableEq, Repr

/-- The flip of a clasp's phase (R218): its cycle, the place among the arrivals of that clock of the one that completed the phase, and the
slots at which fragments stood then, whose arrivals may fall into that clock. -/
structure Flip where
  addr : Nat
  cycle : Nat
  place : Nat
  standing : List (FragRef × CodePtr)
deriving DecidableEq, Repr

/-- A launch record's fields (R105). -/
structure LaunchRec where
  entry : CodePtr
  args : DWord
  teams : Nat
  csize : Nat
  pair : Bool
  width : Nat
  lanes : Nat
  scratch : Nat
  tiles : Nat
  uregs : Nat
  vregs : Nat
  dies : Nat
  frag : Nat
  slots : Nat
  copyq : Nat
  gate : Nat
  gval : Nat
  done : Nat
  ranges : List (Nat × Nat)
deriving DecidableEq, Repr

/-- Resident; retired, with scratchpad kept for a running cluster (R80); ended by a fault, with scratchpad frozen (R220);
stopped and waiting for a free save slot (R395). -/
inductive TeamStatus where
  | resident | retired | frozen | stopped
deriving DecidableEq, Repr

/-- A team, or one half of a paired team (R76, R77). -/
structure Team where
  ctx : Nat
  launch : Nat
  index : Nat
  rank : Nat
  csize : Nat
  half : Nat
  partner : Option Nat
  core : Nat
  status : TeamStatus
  /-- whether its image is written as halted or faulted, and the fatal cause (R397) -/
  ending : Option (Nat × BitVec 9)
  width : Nat
  lanes : Nat
  groupCount : Nat
  vblocks : Nat
  uregs : Nat
  tileUnits : Nat
  spSize : Nat
  entries : Nat
  copyq : Nat
  slots : Nat
  pslot : Nat
  /-- its launch record (R397), whose entry, pair and dies fields it reads (R77, R106) -/
  launchRec : LaunchRec
  cvpol : Map DWord
  mc : Map DWord
  tiles : Map Byte
  badUnits : List Nat
  sp : Map Byte
  absent : Map Bool
  badSp : List Nat
  win : Map Window
  q : Map Queue
  landings : List Landing
  /-- the latest flip of each clasp (R218) -/
  flips : List Flip
  bf : Map (BitVec 256)
  ts : Map (BitVec 512)
  /-- copies and window copies waiting for an entry, in order (R224) -/
  entryWait : List (FragRef × Option Nat)
  /-- parked instructions that have been given an entry and have not issued again (R224) -/
  granted : List FragRef
  /-- the cycle of its latest issue (R103) -/
  issued : Nat
  /-- pre-emption requested at a cycle (R392), at the driver's or the scheduler's word -/
  request : Option Nat
  /-- it has drained and its image is to be written (R394) -/
  drained : Bool
  /-- the driver has been interrupted for it (R395) -/
  told : Bool
  groups : Map Group
deriving DecidableEq, Repr

/-- The word stream of a producer (R252): its buffer record if it reads memory, first byte, and bit position. -/
structure Stream where
  record : Option (BitVec 256)
  off : Nat
  pos : Nat
deriving DecidableEq, Repr

/-- A table load in flight (R256, R258): the stream, the position at which it started, the word index of its TLD, and whether it
was abandoned and is to start again (R253). -/
structure TableLoad where
  stream : Bool
  start : Nat
  pc : Nat
  abandoned : Bool
deriving DecidableEq, Repr

/-- A table bank (R247). -/
structure TableBank where
  entries : List Word
  size : Nat
  landed : Bool
  load : Option TableLoad
deriving DecidableEq, Repr

/-- A producer slot that a team holds (R247, R252, R254): `group`, `user` and `start` belong to the latest `pdstart`; `queued`
says that its PUSH holds a place among the pushers of a queue (R256). -/
structure Producer where
  team : Nat
  store : Map Word
  n : Nat
  pc : Nat
  x : Map Word
  st0 : Stream
  st1 : Stream
  tb0 : TableBank
  tb1 : TableBank
  clasp : Option Nat
  state : Nat
  why : Nat
  tblstall : Nat
  cause : BitVec 9
  group : Nat
  user : Bool
  start : CodePtr
  queued : Bool
  /-- the LUT that stalls is already counted in `tblstall` -/
  counted : Bool
  /-- requests for words of peers, by virtual address (R362) -/
  asked : Map Nat
deriving DecidableEq, Repr

/-- A launch that the scheduler took (R108, R109). -/
structure Launch where
  ctx : Nat
  list : Nat
  slot : Nat
  record : LaunchRec
  /-- the next team index to place -/
  next : Nat
  /-- teams retired -/
  retired : Nat
deriving DecidableEq, Repr

/-- The body of an image record (R397): its byte layout is not given, so it is kept as what it stands for. -/
inductive ImageBody where
  | header (magic part status : Nat) (cause : BitVec 9) (count id : Nat)
  | context (level : Bool) (regs : Map DWord) (policy : List DWord) (tag : Option Tag)
  | notes (queue : List (DWord × DWord))
  | team (t : Team)
  | scratch (bytes : Map Byte) (absent : Map Bool)
  | tiles (bytes : Map Byte) (mc : Map DWord)
  | shapes (ts : Map (BitVec 512))
  | buffers (bf : Map (BitVec 256))
  | windows (win : Map Window)
  | queues (q : Map Queue)
  | producer (p : Option Producer)
  | policies (cvpol : Map DWord)
  | group (number : Nat) (g : Group)
  | vectors (live : BitVec 32) (v : Map Word)
  | uniforms (s : Map DWord) (p : Map Mask)
  | stats
  | finish (count : Nat)
  | other
deriving DecidableEq, Repr

/-- One record of an image (R396). -/
structure ImageRec where
  type : Nat
  ver : Nat
  skip : Bool
  len : Nat
  body : ImageBody
deriving DecidableEq, Repr

/-- A context (R10): supervisor registers by number, and what the scheduler and the fabric keep for it. -/
structure Ctx where
  /-- created by the owner's driver: its system level is owner (R386) -/
  owner : Bool
  sregs : Map DWord
  policy : List DWord
  /-- launch lists passed over after a fault (R109) -/
  unused : List Nat
  /-- a launch list the scheduler stopped (R402) -/
  stopped : Bool
  privates : List Nat
  /-- the cluster origins that a kernel's image allows, by the kernel's entry; a kernel that is not listed may start anywhere (R75) -/
  routes : List (CodePtr × List Nat)
  /-- notification queue: sender and value (R380) -/
  notes : List (DWord × DWord)
  faulted : Bool
  /-- saved images by slot (R395) -/
  images : Map (List ImageRec)
deriving DecidableEq, Repr

/-- A cached translation (R276, R277). -/
structure TlbEntry where
  ctx : Nat
  va : Nat
  size : Nat
  entry : DWord
deriving DecidableEq, Repr

/-- A non-coherent copy (R284): its context and virtual line, its bytes and the mask of dirty bytes. -/
structure NcLine where
  ctx : Nat
  va : Nat
  bytes : List Byte
  mask : BitVec 64
deriving DecidableEq, Repr

/-- A line in the commutative state (R292): operation, type, and four partial copies of values by element offset. -/
structure CLine where
  op : MemRedOp
  ty : Ty
  part : List (Map DWord)
deriving DecidableEq, Repr

/-- States of a compressed frame (R317); resident also covers a frame that holds its need. -/
inductive FrameState where
  | empty | resident | evicted
deriving DecidableEq, Repr

/-- An assigned compressed frame (R317); an unlisted frame is unassigned. -/
structure Frame where
  state : FrameState
  ctx : Nat
  chunks : Nat
  accessed : Bool
  pin : Bool
  /-- returned from eviction and not yet swept (R320) -/
  returned : Bool
deriving DecidableEq, Repr

/-- A held write (R318): its line, the line before it and whether that had failed its check, its context, when it was held, and the
chunks its frame needs once it is placed; or, with `back`, the return of an evicted frame (R323) or the fresh chunk of a resident one
(R325), which wait for their chunks as a held write does. -/
structure HeldWrite where
  line : Nat
  before : List Byte
  /-- the line had failed its check before the write (R325) -/
  failed : Bool
  ctx : Nat
  time : Nat
  need : Nat
  back : Bool
deriving DecidableEq, Repr

/-- Something that waits to be placed: a saved team's image, by context and slot, or the next cluster of a launch. -/
inductive Waiter where
  | image (ctx slot : Nat)
  | launch (id : Nat)
deriving DecidableEq, Repr

/-- A request to a peer package (R360 to R362): the fragment and instruction that issued it, whether the instruction completed
when the port accepted it, the virtual and machine lines, the tag, and its reply once it is there. -/
structure Req where
  ref : FragRef
  addr : CodePtr
  posted : Bool
  copy : Option Nat
  peer : Nat
  va : Nat
  line : Nat
  tag : Tag
  /-- its requester and number, which a request that is sent again keeps (R310) -/
  seq : ReqNo
  time : Nat
  /-- the launch of its team (R109) -/
  launch : Nat
  kind : RemoteKind
  /-- for a load or an atomic: lane, byte number of its access, and offset in the reply -/
  take : List (Nat × Nat × Nat)
  reply : Option RemoteReply
  /-- the port it left through (R360) -/
  port : Nat
  /-- the fetch of a fragment's line, which no instruction waits for -/
  fetch : Bool
deriving DecidableEq, Repr

/-- What a copy does (R205, R231). -/
inductive CopyKind where
  | load
  | store
  | reduce (op : RedOp)
  | multicast (mask : Nat)
  | linear
  | stripe (p : Nat)
  | window (w : Nat)
deriving DecidableEq, Repr

/-- A copy that has issued (R222 to R241): its descriptor and coordinates, scratchpad address and clasp, or its records with
offsets and length; the destination lines not yet written or landed; and the requests for source lines of peers, by line. -/
structure Copy where
  kind : CopyKind
  team : Nat
  group : Nat
  core : Nat
  user : Bool
  addr : CodePtr
  batch : Nat
  desc : BitVec 512
  coords : List Int
  sp : Nat
  clasp : Option Nat
  recX : BitVec 256
  offX : Nat
  recY : BitVec 256
  offY : Nat
  len : Nat
  todo : List Nat
  /-- source lines read so far, by line address or scratchpad line (R238) -/
  src : Map (List Byte)
  /-- the machine lines that it took at issue, by virtual line (R239) -/
  own : Map Nat
  sent : List (Nat × Nat)
deriving DecidableEq, Repr

/-- The state of one BGU (R341): its broadcast registers, accumulators, valid bits, scales and open rows. -/
structure Bgu where
  bv : Map (BitVec 512)
  acc : Map Word
  invalid : List Nat
  /-- accumulators that fail their check (R350, R352) -/
  bad : List Nat
  sc : Map Word
  opened : Map Nat
deriving DecidableEq, Repr

/-- What a session has been asked to do, in the core's issue order (R345): steps with the `ibstep` that issued them; words of a
program; words of broadcast registers, by 16 x register + word; scales, by BGU (none for every one); and the turn of an `ibread`
or `ibend` of a parked fragment. -/
inductive BankOp where
  | steps (n : Nat) (addr : CodePtr)
  | prog (words : List Word)
  | vec (words : List (Nat × Word))
  | scale (k : Nat) (values : List (Option Nat × Word))
  | read (r : FragRef) (d bgu : Nat) (lanes : Mask)
  | fin (r : FragRef)
deriving DecidableEq, Repr

/-- An in-bank session (R338 to R341): control flow is one for all its BGUs. -/
structure Session where
  team : Nat
  group : Nat
  die : Nat
  mask : BitVec 256
  store : Map Word
  /-- command words that fail their parity, by BGU and word (R352) -/
  badWords : List (Nat × Nat)
  pc : Nat
  c : Map Nat
  bank : Nat
  col : Nat
  bgus : Map Bgu
  queue : List BankOp
  /-- the cycle at which the step that runs started (R352) -/
  since : Nat
  error : Option (BitVec 9)
deriving DecidableEq, Repr

/-- An opener in its order (R339). -/
structure Opener where
  ref : FragRef
  die : Nat
  mask : BitVec 256
deriving DecidableEq, Repr

/-- An in-bank fence that has not flipped (R335, R336): its direction and virtual address, the frame of each 1 KiB from it in order,
and the rows it covers in ascending order. -/
structure BankFence where
  ref : FragRef
  out : Bool
  /-- the lanes in which it acts -/
  act : Mask
  frames : List Nat
  rows : List Nat
deriving DecidableEq, Repr

/-- The kinds of collectives (R376). -/
inductive CollKind where
  | allred | redscat | allgath | bcast | barrier
deriving DecidableEq, Repr

/-- A result of a collective: its data, and the contributor mask, status and tag of its trailer (R377). -/
structure CollResult where
  mask : BitVec 288
  data : List Byte
  status : Nat
  tag : Tag
deriving DecidableEq, Repr

/-- A collective in flight at this member (R376 to R378): its issue view, the live members then, the tile's snapshot, and
the contributions that have arrived. -/
structure Coll where
  kind : CollKind
  rop : Nat
  policy : Nat
  root : Nat
  team : Nat
  group : Nat
  addr : CodePtr
  tag : Tag
  members : BitVec 288
  live : BitVec 288
  ty : Ty
  rows : Nat
  bytes : List Byte
  sp : Nat
  clasp : Nat
  got : Map (List Byte)
  arrived : BitVec 288
  first : Option Nat
  restarted : Bool
  failed : Bool
  /-- of a barrier: this member's remote stores that were outstanding at issue, which its arrival waits for (R378) -/
  stores : List Nat
  /-- the result, once known -/
  result : Option CollResult
deriving DecidableEq, Repr

/-- A message with the tag of an accepted proposal, held until the view is installed (R364). -/
inductive HeldMsg where
  | coll (coll sender : Nat) (body : CollMsg)
  | note (sender fctx : Nat) (value : DWord)
  | request (sender : Nat) (seq : ReqNo) (line : Nat) (kind : RemoteKind)
  | reply (req : Nat) (reply : RemoteReply)
deriving DecidableEq, Repr

/-- A proposal of a view (R367): the proposer, the bitmap and the change count. -/
structure Proposed where
  from_ : Nat
  members : BitVec 288
  count : BitVec 16
deriving DecidableEq, Repr

/-- A fabric port (R357), and the cycle since when its link is down (R366). -/
structure Port where
  up : Bool
  extensions : Bool
  full : Bool
  since : Nat
deriving DecidableEq, Repr

/-- What a package sends to its peers, beside its requests: heartbeats (R365), replies (R361, R364), the messages of agreement (R367, R369)
and of joining (R373), and those of collectives (R375, R378). -/
inductive Sent where
  | heartbeat
  /-- to a request by its number; a notification or collective message has none -/
  | reply (seq : Option ReqNo) (reply : RemoteReply)
  | suspicion (suspects : BitVec 288)
  | proposal (members : BitVec 288) (count : BitVec 16)
  | accept (ballot : Ballot)
  /-- the suspicions, or the members not heard, that an answer to a proposal returns -/
  | refusal (count : BitVec 16) (suspects : BitVec 288)
  | commit (members : BitVec 288) (count : BitVec 16)
  | joinRequest
  | joinRefusal
  | coll (coll : Nat) (body : CollMsg)
deriving DecidableEq, Repr

/-- A message handed to the ports: the port, its destination (none: whoever hears it), the view tag, and what it says. -/
structure Outgoing where
  port : Nat
  peer : Option Nat
  tag : Tag
  msg : Sent
deriving DecidableEq, Repr

/-- A peer's request that its home cannot apply yet (R361). -/
structure Waiting where
  sender : Nat
  seq : ReqNo
  line : Nat
  kind : RemoteKind
deriving DecidableEq, Repr

/-- A sealed message of Locket (R403): its nonce, salt and counter, and its associated data. -/
structure Sealed where
  nonce : BitVec 96
  round : Nat
  range : Nat
  offset : Nat
  source : Nat
  seq : Nat
deriving DecidableEq, Repr

/-- Locket (R400 to R403). -/
structure Locket where
  st : Nat
  round : Nat
  sent : Nat
  /-- this end receives -/
  receives : Bool
  /-- messages sent whose acknowledgement is not there yet, in order -/
  out : List Sealed
  /-- messages sealed so far, which the nonce counts -/
  counter : Nat
  /-- stop-and-copy waits until every team of the context is saved -/
  stopping : Bool
  /-- at a receiver, the latest round of each granule written, by 2^32 x range + offset -/
  got : Map Nat
deriving DecidableEq, Repr

/-- What a mutual attestation adds (R411): the other end, this end's ephemeral key, and the AES key and salt that both ends derive. -/
structure Exchange where
  peer : AttestPeer
  ephemeral : List Byte
  key : BitVec 256
  salt : BitVec 32
deriving DecidableEq, Repr

/-- An attestation report (R411): what it holds, and its signatures. -/
structure Report where
  nonce : DWord
  part : BitVec 32
  identity : Nat
  images : List FwImage
  tag : Tag
  rsa : List Byte
  slh : List Byte
  exchange : Option Exchange
deriving DecidableEq, Repr

/-- What is trained at bring-up, beside the fabric ports (R412). -/
inductive Training where
  | obhal | shosia | ethernet
deriving DecidableEq, Repr

/-- What happens to the package from outside that is no row of the table. -/
inductive Outside where
  /-- a scratchpad line or a unit of tile storage of a team fails, or an error there is corrected (R191, R198) -/
  | badLine (team line : Nat)
  | badUnit (team unit : Nat)
  | corrected
  /-- a master's path goes down or comes up (R407) -/
  | path (m : Nat) (up : Bool)
  /-- the check of a command word, an accumulator or a column fails in a BGU (R352) -/
  | badWord (team group bgu word : Nat)
  | badAcc (team group bgu acc : Nat)
  /-- the links carry off what the ports were handed -/
  | carried
  /-- images in a save slot that Locket received or the driver wrote (R395, R402) -/
  | image (ctx slot : Nat) (records : List ImageRec)
  /-- the loader's record, in a kernel's image, of the cluster origins that its routes serve (R75) -/
  | routes (ctx : Nat) (entry : CodePtr) (origins : List Nat)
  /-- the events that follow are writes of this master (R404) -/
  | writer (m : Master)
  /-- the stacks, the host link or the Ethernet links are trained, or fail to be (R412) -/
  | trained (what : Training) (ok : Bool)
deriving DecidableEq, Repr

/-- The moves that the agenda names. -/
inductive Turn where
  | outside (x : Outside)
  /-- the next slot of a fragment (R46, R99) -/
  | slot (r : FragRef)
  /-- the next micro-operation of a core's producer slot (R252) -/
  | producer (core : Nat)
  /-- an event of the table of operations and events -/
  | event (i : Instr)
deriving DecidableEq, Repr

/-- The slot that is executing: its fragment, header (R56) and body bits. -/
structure Cursor where
  ref : FragRef
  hdr : Hdr
  body : BitVec 81
  /-- the core, for a producer micro-operation (R252) -/
  core : Nat
deriving DecidableEq, Repr

/-- The whole package. -/
structure State where
  /-- core cycles since reset (R81) -/
  now : Nat
  /-- the model's step counter, which free values take -/
  tick : Nat
  /-- the moves to come, each with the core cycles that pass before it; empty: a free value picks -/
  agenda : List (Turn × Nat)
  /-- the model's own: the master whose write an event of the agenda stands for, where the table's row names none (R404) -/
  writer : Master
  cur : Cursor
  mem : Map Byte
  vbase : Map Nat
  vcount : Map Nat
  lineOwner : Map (Option Nat)
  cLines : Map CLine
  tlb : List TlbEntry
  dirty : Map Bool
  rowOwner : Map Bool
  stripe : Map Bool
  frames : Map Frame
  /-- frames retired (R325), plain or compressed -/
  badFrames : List Nat
  badLines : List Nat
  free : Nat
  reserve : Nat
  /-- chunks taken out of the pool for good (R325) -/
  chunkBad : Nat
  held : List HeldWrite
  /-- the ballooning engine's background run has started and not stopped (R320) -/
  balloon : Bool
  readyQ : List Nat
  sweep : Nat
  evUsed : Nat
  /-- owner registers by number -/
  pregs : Map DWord
  retired : BitVec 256
  /-- cores whose retirement waits for their teams to leave (R83) -/
  retiring : List Nat
  ctxs : Map Ctx
  launches : Map Launch
  teams : Map Team
  /-- images of swapped and pre-empted teams that wait to be placed again: context and slot -/
  waiting : List (Nat × Nat)
  /-- save slots whose images came from outside the package: context and slot (R395, R402) -/
  received : List (Nat × Nat)
  /-- the waiting teams for which cores swapped others out, not yet placed (R103) -/
  swapIn : List Waiter
  /-- worklists: 64 for each die (R111), by 64 x die + list -/
  lists : Map (List Word)
  /-- dies whose quiescent state holds (R113) -/
  quiet : List Nat
  /-- the next age stamp of each core (R99) -/
  stamps : Map Nat
  /-- the cycle of each core's latest issue (R103) -/
  lastIssue : Map Nat
  /-- interrupt messages the adapter sent (R409) -/
  irqMsgs : Nat
  /-- cores whose stalled PUSH the queue has served (R211, R256) -/
  pushServed : List Nat
  producers : Map Producer
  copies : Map Copy
  /-- machine lines that copies own until they write them, in order of issue, with their copies (R239) -/
  locks : List (Nat × Nat)
  sessions : List Session
  openers : List Opener
  bankFences : List BankFence
  colls : Map Coll
  /-- the next number of teams, copies and collectives -/
  nextTeam : Nat
  nextCopy : Nat
  nextColl : Nat
  /-- non-coherent L1 copies: by core, then machine line (R284) -/
  nc : Map (Map NcLine)
  gated : List Nat
  /-- the current view: members and tag (R363); none until the first one -/
  view : Option (BitVec 288 × Tag)
  /-- excluded for want of a view in time (R367, R371) -/
  excluded : Bool
  /-- the cycle at which each package was last heard (R365) -/
  heard : Map Nat
  /-- members this package suspects, and the cycle of the first suspicion (R366, R367) -/
  suspects : BitVec 288
  suspected : Option Nat
  /-- members that other packages have told it they suspect (R367) -/
  reported : BitVec 288
  /-- the lowest-numbered proposer it has heard from, for a change count (R367) -/
  lowest : Option (Nat × BitVec 16)
  /-- the proposal it has accepted and not installed, and the one it made with the members that have accepted (R367) -/
  accepted : Option Proposed
  proposing : Option (Proposed × BitVec 288)
  /-- messages held for the accepted proposal, in order, with their tags (R364) -/
  heldMsgs : List (Tag × HeldMsg)
  /-- attested joiners that wait for a barrier (R373) -/
  joiners : List Nat
  /-- joiners that a barrier admitted, and that the next proposal takes in (R373) -/
  admitted : BitVec 288
  ports : Map Port
  /-- messages handed to the ports, in order, that the links have not carried off -/
  out : List Outgoing
  /-- the cycle of the latest heartbeat (R365) -/
  beat : Nat
  /-- requests of peers that wait at their homes, in order of arrival (R361) -/
  pendingReqs : List Waiting
  /-- replies kept for each requester, a fabric port of a peer, latest first, with the request's number and home (R310) -/
  replies : Map (List (BitVec 16 × Nat × RemoteReply))
  /-- the next number of a requester for a home, by peer, fabric port and home (R310) -/
  reqCounts : Map Nat
  /-- messages of collectives that this member has not issued yet, in order: number, sender, message (R378) -/
  early : List (Nat × Nat × CollMsg)
  locket : Locket
  /-- the owner, 3 for none (R405), the claims of the election and the cycle at which its window opened (R406) -/
  owner : Nat
  claims : List (Nat × Nat × Nat)
  election : Option Nat
  /-- masters whose path is down, with the cycle since when (R407) -/
  pathDown : Map Nat
  /-- a handover that waits for an earlier owner-register write: the successor (R407) -/
  handing : Option Nat
  /-- the firmware images loaded since reset, at most one of each kind (R410) -/
  firmware : List FwImage
  /-- what has been trained since reset (R412) -/
  trained : List Training
  /-- attestation reports made, latest first: those of mutual attestations stand for their sessions (R411) -/
  attested : List Report
  /-- the step of bring-up that the package has reached (R412) -/
  bringUp : Nat
  reqs : Map Req
  /-- the next number of `reqs`, the model's own -/
  nextReq : Nat
  /-- stores to host memory not yet acknowledged (R296) -/
  hostOut : Nat
deriving DecidableEq, Repr

/-- Why the machine stops. -/
inductive Fault where
  /-- An `.event` of the agenda is no event of the table: the agenda is the model's own, so no hardware does this (safe). -/
  | badTurn
deriving DecidableEq, Repr

/-- Why the model gives no meaning. -/
inductive Refusal where
  /-- An arm of `exec` that has no meaning yet (safe). -/
  | notModelled (mnemonic : String)
deriving DecidableEq, Repr

/-- The outcome of a step. -/
abbrev Res := Host.Outcome State Fault Refusal

/-- The machine right after reset. -/
def State.reset : State where
  now := 0
  tick := 0
  agenda := []
  writer := .host
  cur := ⟨⟨0, 0, 0⟩, Hdr.zero, 0, 0⟩
  mem := []
  vbase := []
  vcount := []
  lineOwner := []
  cLines := []
  tlb := []
  dirty := []
  rowOwner := []
  stripe := []
  frames := []
  badFrames := []
  badLines := []
  free := 2147483648
  reserve := 0
  chunkBad := 0
  held := []
  balloon := false
  readyQ := []
  sweep := 0
  evUsed := 0
  pregs :=
    [(0x800, 65536), (0x811, 0x0000100000010000), (0x814, 100000), (0x820, 10000), (0x830, 0x10000), (0x831, 0x320005), (0x833, 100),
      (0x840, 0x80), (0x842, 4096), (0x853, 0x00000D4800000000)]
  retired := 0
  retiring := []
  ctxs := []
  launches := []
  teams := []
  waiting := []
  received := []
  swapIn := []
  lists := []
  quiet := []
  stamps := []
  lastIssue := []
  irqMsgs := 0
  pushServed := []
  producers := []
  copies := []
  locks := []
  sessions := []
  openers := []
  bankFences := []
  colls := []
  nextTeam := 0
  nextCopy := 0
  nextColl := 0
  nc := []
  gated := []
  view := none
  excluded := false
  heard := []
  suspects := 0
  suspected := none
  reported := 0
  lowest := none
  accepted := none
  proposing := none
  heldMsgs := []
  joiners := []
  admitted := 0
  ports := []
  out := []
  beat := 0
  pendingReqs := []
  replies := []
  reqCounts := []
  early := []
  locket := ⟨0, 0, 0, false, [], 0, false, []⟩
  owner := 3
  claims := []
  election := none
  pathDown := []
  handing := none
  firmware := []
  trained := []
  attested := []
  bringUp := 0
  reqs := []
  nextReq := 0
  hostOut := 0

end Sys2Proof.Machine
end

