-- ==== Sys2Proof/Machine/Access.lean ====
section
/-!
DEFINITION. Sys2Proof/Machine/Access.lean: what reads and writes the parts of the state: the fragment that is executing, its
registers and masks, special registers kept as data, completion flags, interrupts and the end of a team.
-/

namespace Sys2Proof.Machine

/-- No stall is counted yet. -/
def uncounted : Counted := ⟨false, false, false⟩

/-- A fragment with nothing in it; what an unlisted entry reads as. -/
def nullFrag : Frag where
  om := 0
  em := 0
  pc := 0
  join := none
  sib := none
  save := none
  parent := none
  pend := []
  wait := false
  park := none
  later := []
  sp := false
  stamp := 0
  promoted := false
  ready := none
  line := none
  refetch := false
  fresh := false
  went := false
  sent := []
  counted := uncounted
  run := none

/-- A group as placement leaves it, with no lanes and no fragment (R84). -/
def nullGroup : Group where
  slot := 0
  owned := 0
  exited := 0
  v := []
  s := []
  p := []
  k := []
  ilkcnt := 0
  grpcnt := 0
  sbcnt := 0
  sys := false
  tf := []
  trapEntry := none
  arr := none
  vset := []
  vfail := false
  sbuf := []
  ackTag := 0
  notified := false
  batch := 0
  inBatch := 0
  worker := none
  held := []
  inflight := []
  deferUntil := 0
  deferred := false
  stop := none
  ctxFault := none
  frags := []

/-- A launch record of zeros. -/
def nullRecord : LaunchRec where
  entry := 0
  args := 0
  teams := 0
  csize := 0
  pair := false
  width := 0
  lanes := 0
  scratch := 0
  tiles := 0
  uregs := 0
  vregs := 0
  dies := 0
  frag := 0
  slots := 0
  copyq := 0
  gate := 0
  gval := 0
  done := 0
  ranges := []

/-- A team with nothing in it. -/
def nullTeam : Team where
  ctx := 0
  launch := 0
  index := 0
  rank := 0
  csize := 1
  half := 0
  partner := none
  core := 0
  status := .resident
  ending := none
  width := 32
  lanes := 0
  groupCount := 0
  vblocks := 0
  uregs := 0
  tileUnits := 0
  spSize := 0
  entries := 0
  copyq := 0
  slots := 0
  pslot := 0
  launchRec := nullRecord
  cvpol := []
  mc := []
  tiles := []
  badUnits := []
  sp := []
  absent := []
  badSp := []
  win := []
  q := []
  landings := []
  flips := []
  bf := []
  ts := []
  entryWait := []
  granted := []
  issued := 0
  request := none
  drained := false
  told := false
  groups := []

/-- A context as R30, R104, R109 and the register tables give it at creation. -/
def nullCtx : Ctx where
  owner := false
  sregs := [(0x404, 0xFFFFFFFFFFFFFFFF)]
  policy := List.replicate 8 0xAA
  unused := []
  stopped := false
  privates := []
  routes := []
  notes := []
  faulted := false
  images := []

/-! ## Teams, groups and fragments -/

def Team.entry (t : Team) : CodePtr := t.launchRec.entry

def Team.pair (t : Team) : Bool := t.launchRec.pair

def Team.dies (t : Team) : Nat := t.launchRec.dies

def State.teamOf (s : State) (t : Nat) : Team := Map.get nullTeam s.teams t

def State.ctxOf (s : State) (c : Nat) : Ctx := Map.get nullCtx s.ctxs c

def Team.groupOf (t : Team) (g : Nat) : Group := Map.get nullGroup t.groups g

def Group.fragOf (g : Group) (e : Nat) : Frag := Map.get nullFrag g.frags e

def State.groupAt (s : State) (t g : Nat) : Group := (s.teamOf t).groupOf g

def State.fragAt (s : State) (r : FragRef) : Frag := (s.groupAt r.team r.group).fragOf r.entry

/-- Whether a fragment is a split-table entry in use. -/
def State.live (s : State) (r : FragRef) : Bool :=
  Map.has s.teams r.team && Map.has (s.teamOf r.team).groups r.group && Map.has (s.groupAt r.team r.group).frags r.entry

def State.updTeam (s : State) (t : Nat) (f : Team → Team) : State :=
  { s with teams := Map.modify nullTeam s.teams t f }

def State.updCtx (s : State) (c : Nat) (f : Ctx → Ctx) : State :=
  { s with ctxs := Map.modify nullCtx s.ctxs c f }

def Team.updGroup (t : Team) (g : Nat) (f : Group → Group) : Team :=
  { t with groups := Map.modify nullGroup t.groups g f }

def Group.updFrag (g : Group) (e : Nat) (f : Frag → Frag) : Group :=
  { g with frags := Map.modify nullFrag g.frags e f }

def State.updGroupAt (s : State) (t g : Nat) (f : Group → Group) : State := s.updTeam t (·.updGroup g f)

def State.updFragAt (s : State) (r : FragRef) (f : Frag → Frag) : State :=
  s.updGroupAt r.team r.group (·.updFrag r.entry f)

/-- The team, group and fragment whose slot is executing. -/
def State.ct (s : State) : Team := s.teamOf s.cur.ref.team

def State.cg (s : State) : Group := s.ct.groupOf s.cur.ref.group

def State.cf (s : State) : Frag := s.cg.fragOf s.cur.ref.entry

/-- The context of the team whose slot is executing. -/
def State.cc (s : State) : Ctx := s.ctxOf s.ct.ctx

def State.setT (s : State) (f : Team → Team) : State := s.updTeam s.cur.ref.team f

def State.setG (s : State) (f : Group → Group) : State := s.updGroupAt s.cur.ref.team s.cur.ref.group f

def State.setF (s : State) (f : Frag → Frag) : State := s.updFragAt s.cur.ref f

/-! ## Code pointers (R87) -/

/-- The slot after a code pointer's. After the last slot of the last line below 2^57 the sum has bit 57 set, and the fetch ignores that
bit, so that the line at 0 comes next: R87 is silent there (DESIGN CHOICE, log 48). -/
def nextPc (x : CodePtr) : CodePtr := if field x 2 0 = 4 then x + 60 else x + 1

/-- The line address of a code pointer. -/
def lineOfPc (x : CodePtr) : Nat := field x 56 6 * 64

/-- The slot number of a code pointer. -/
def slotOfPc (x : CodePtr) : Nat := field x 2 0

/-- A code pointer in the layout of R87 with slot at most 4. -/
def pcOk (x : CodePtr) : Bool := field x 63 57 == 0 && field x 5 3 == 0 && decide (field x 2 0 ≤ 4)

/-- The 96 bits of a line's slot (R43). -/
def slotBits (line : BitVec 512) (slot : Nat) : BitVec 96 := line.extractLsb' (96 * slot) 96

/-- The line word (R43, R44). -/
def lineWord (line : BitVec 512) : BitVec 32 := line.extractLsb' 480 32

/-- Whether a slot is a legal branch target (R44). -/
def slotMarked (line : BitVec 512) (slot : Nat) : Bool := (lineWord line).getLsbD (5 + slot)

/-! ## Lanes and registers -/

/-- The lanes in which the predicate, negated if pn, holds (R57). -/
def Group.predMask (g : Group) (h : Hdr) : Mask :=
  if h.pr == 7 then allOnes
  else
    let m := Map.get 0 g.p h.pr.toNat
    if h.pn then ~~~m else m
where allOnes : Mask := 0xFFFFFFFFFFFFFFFF

/-- The participating lanes of the executing slot (R57). -/
def State.act (s : State) : Mask := s.cf.em &&& s.cg.predMask s.cur.hdr

/-- Whether an instruction marked *any* acts (R93). -/
def State.actsAny (s : State) : Bool := s.cur.hdr.pr == 7 || s.act != 0

/-- The participating lanes in ascending order (R14). -/
def State.lanes (s : State) : List Nat := bitsOf s.act

/-- A vector register's value in a lane. -/
def Group.vreg (g : Group) (r l : Nat) : Word := Map.get 0 g.v (64 * r + l)

/-- A register pair, low word in the even register (R15, R121). -/
def Group.vpair (g : Group) (r l : Nat) : DWord := g.vreg (r + 1) l ++ g.vreg r l

def Group.ureg (g : Group) (r : Nat) : DWord := Map.get 0 g.s r

/-- A predicate; p7 reads as true where an instruction allows it. -/
def Group.pred (g : Group) (k : Nat) : Mask := if k = 7 then 0xFFFFFFFFFFFFFFFF else Map.get 0 g.p k

def Group.setV (g : Group) (r l : Nat) (x : Word) : Group := { g with v := Map.set 0 g.v (64 * r + l) x }

def Group.setV64 (g : Group) (r l : Nat) (x : DWord) : Group :=
  (g.setV r l (x.extractLsb' 0 32)).setV (r + 1) l (x.extractLsb' 32 32)

def Group.setU (g : Group) (r : Nat) (x : DWord) : Group := { g with s := Map.set 0 g.s r x }

/-- A predicate written in the lanes of a mask; p7 takes no write. -/
def Group.setP (g : Group) (k : Nat) (lanes value : Mask) : Group :=
  if k < 7 then { g with p := Map.set 0 g.p k ((g.pred k &&& ~~~lanes) ||| (value &&& lanes)) } else g

/-- A vector register written lane by lane, in ascending order (R14). -/
def Group.setLanes (g : Group) (r : Nat) (lanes : List Nat) (x : Nat → Word) : Group :=
  lanes.foldl (fun h l => h.setV r l (x l)) g

/-- A register pair written lane by lane. -/
def Group.setLanes64 (g : Group) (r : Nat) (lanes : List Nat) (x : Nat → DWord) : Group :=
  lanes.foldl (fun h l => h.setV64 r l (x l)) g

/-! ## Special registers kept as data -/

/-- An owner register as it is stored. -/
def State.preg (s : State) (n : Nat) : DWord := Map.get 0 s.pregs n

def State.setPreg (s : State) (n : Nat) (x : DWord) : State := { s with pregs := Map.set 0 s.pregs n x }

/-- A context register as it is stored. -/
def Ctx.sreg (c : Ctx) (n : Nat) : DWord := Map.get 0 c.sregs n

def Ctx.setSreg (c : Ctx) (n : Nat) (x : DWord) : Ctx := { c with sregs := Map.set 0 c.sregs n x }

/-- Bits both pending and enabled in `hostirq` (R409). -/
def irqActive (x : DWord) : Nat := field x 4 0 &&& field x 36 32

/-- `hostirq` with a new value: one message when pending and enabled bits change from none to some (R409). -/
def State.setIrq (s : State) (x : DWord) : State :=
  let old := s.preg 0x851
  let s := s.setPreg 0x851 x
  if irqActive old = 0 ∧ irqActive x ≠ 0 then { s with irqMsgs := s.irqMsgs + 1 } else s

/-- A pending bit becomes set (R409): 0 pkg, 1 lref, 2 cap, 3 halt, 4 image. -/
def State.irq (s : State) (b : Nat) : State := s.setIrq (s.preg 0x851 ||| BitVec.ofNat 64 (2 ^ b))

/-- A 16-bit counter of `errcnt` counts one more and wraps (R413): a package-level error (R409). -/
def State.countErr (s : State) (lo : Nat) : State :=
  let x := s.preg 0x854
  (s.setPreg 0x854 (setField x (lo + 15) lo (field x (lo + 15) lo + 1))).irq 0

/-- The number of a master (R404). -/
def masterNumber : Master → Nat
  | .host => 0
  | .board => 1
  | .fabric => 2

/-- A master's write that only the owner may make: any other master's is ignored and counted (R404). -/
def State.byOwner (s : State) (m : Master) (k : State → State) : State :=
  if s.owner = masterNumber m then k s else s.countErr 0

/-! ## Handover (R407) -/

/-- The new owner, or none where the successor's path is down (R407). -/
def State.handOver (s : State) (succ : Nat) : State :=
  let s := { s with handing := none }
  if Map.has s.pathDown succ then s else { s with owner := succ, claims := [], election := none }

/-- An owner-register write that has not completed: a pin of a frame that has yet to come back (R327). -/
def State.writesOpen (s : State) : Bool := s.frames.any (fun f => f.2.state == .evicted && f.2.pin)

/-- A handover takes effect once every earlier owner-register write has completed (R407). -/
def State.settleHand (s : State) : State :=
  match s.handing with
  | some succ => if s.writesOpen then s else s.handOver succ
  | none => s

/-! ## Age stamps (R99) -/

/-- A new stamp on a core. -/
def State.newStamp (s : State) (core : Nat) : Nat × State :=
  let n := Map.get 0 s.stamps core
  (n, { s with stamps := Map.set 0 s.stamps core (n + 1) })

/-! ## Completion flags and pending registers (R48 to R54) -/

/-- A flag's count. -/
def Group.flag (g : Group) (k : Nat) : Nat := Map.get 0 g.k k

/-- Registers whose write is pending: of issued instructions, and of instructions in which a fragment is parked (R433). -/
def Group.pendingRegs (g : Group) : List Reg :=
  (g.inflight.map (fun p => p.2.regs)).flatten ++ (g.frags.map (fun p => p.2.later)).flatten

/-- One instruction completes: its flag drops by one (R49). -/
def Group.complete (g : Group) (id : Nat) : Group :=
  match Map.find g.inflight id with
  | none => g
  | some x =>
    let g := { g with inflight := Map.erase g.inflight id }
    match x.flag with
    | none => g
    | some k => { g with k := Map.set 0 g.k k (g.flag k - 1) }

/-- The flags that in-flight instructions hold (R49). -/
def flagsOf (m : Map Inflight) : Map Nat :=
  m.foldl (fun k p => match p.2.flag with | none => k | some j => Map.set 0 k j (Map.get 0 k j + 1)) []

/-- Every in-flight instruction completes and every flag clears (R55), but for what waits for a peer's reply (R380). -/
def Group.drain (g : Group) : Group :=
  let left := g.inflight.filter (fun p => p.2.req.isSome)
  { g with inflight := left, k := flagsOf left }

/-- Every fragment of the group is parked or has ended: the group is blocked (R97). -/
def Group.blocked (g : Group) : Bool := g.frags.all (fun f => f.2.park.isSome)

/-- The group stops at an implicit safe point (R64); a stop made before stays as it is, and a group that has ended has none. -/
def Group.halt (g : Group) : Group := if g.stop.isSome || g.frags.isEmpty then g else { g.drain with stop := some .implicit }

/-- The flag number an attachment selects (R49): the line word's flagA or flagB. -/
def attachFlag (line : BitVec 512) (fl : BitVec 2) : Option Nat :=
  match fl.toNat with
  | 1 => some ((lineWord line).extractLsb' 14 4).toNat
  | 2 => some ((lineWord line).extractLsb' 10 4).toNat
  | _ => none

/-- An instruction enters the in-flight records, adding one to the flag it attaches to (R49). -/
def Group.issue (g : Group) (x : Inflight) : Group :=
  let g := { g with inflight := Map.put g.inflight (Map.fresh g.inflight) x }
  match x.flag with
  | none => g
  | some k => { g with k := Map.set 0 g.k k (g.flag k + 1) }

/-! ## Stopping teams -/

/-- Both halves of a team, or the team. -/
def State.halves (s : State) (t : Nat) : List Nat :=
  t :: (s.teamOf t).partner.toList

/-- Two teams of one cluster (R79). -/
def Team.sameCluster (a b : Team) : Bool :=
  a.launch == b.launch && a.index / a.csize == b.index / b.csize

/-- The teams of a team's cluster, itself and both halves included. -/
def State.clusterOf (s : State) (t : Nat) : List Nat :=
  (s.teams.filter (fun p => p.2.sameCluster (s.teamOf t))).map (·.1)

/-- The queues that a program's PUSHes name (R259). -/
def Producer.pushed (p : Producer) : List Nat :=
  (List.range 16).filter (fun q =>
    (List.range p.n).any (fun i =>
      match decodeStream (Map.get 0 p.store i) with
      | some (.push _ _ k) => k.toNat == q
      | _ => false))

/-- A team that ends by a fault gives up its producer slot: the program stops, and the queues it pushes to close (R212, R246). -/
def State.loseProducer (s : State) (team : Nat) : State :=
  let core := (s.teamOf team).core
  match Map.find s.producers core with
  | none => s
  | some p =>
    if p.team != team then s
    else
      let shut (x : Queue) : Queue := if x.cfg then { x with closed := true, pushers := x.pushers.filter (·.who.isSome) } else x
      { s with
        producers := Map.erase s.producers core
        pushServed := s.pushServed.filter (· != core)
        reqs := s.reqs.filter (fun r => !p.asked.any (fun a => a.2 == r.1)) }.updTeam team (fun t =>
          { t with q := p.pushed.foldl (fun m q => Map.alter m q shut) t.q })

/-- The number of the session that a report stands for. -/
def Report.session (r : Report) : Option (BitVec 16) := r.exchange.map (·.peer.session)

/-- Bring-up reaches its next step; a step out of its order is no step of it (R412). -/
def State.comesUp (s : State) (k : Nat) : State := if s.bringUp + 1 = k then { s with bringUp := k } else s

/-- A record of an image names a team, the odd half of a paired one too. -/
def ImageRec.names (r : ImageRec) (team : Nat) : Bool :=
  match r.body with
  | .header _ _ _ _ _ id => id == team
  | .team t => t.half == 0 && t.partner == some team
  | _ => false

/-- Every group of a team stops at an implicit safe point, and its image is to be written with a status and a fatal cause
(R388, R390). A fault freezes the team, its producer's program stops (R220, R246), its sessions end with their pending steps
discarded, and its openers wait no more (R340). -/
def State.endTeam (s : State) (t : Nat) (status : Nat) (cause : BitVec 9) : State :=
  (s.halves t).foldl
    (fun s h =>
      let s :=
        if status = 2 then
          { s.loseProducer h with
            sessions := s.sessions.filter (fun x => x.team != h), openers := s.openers.filter (fun x => x.ref.team != h) }
        else s
      s.updTeam h (fun x =>
        { x with
          ending := some (status, cause)
          status := if status = 2 then .frozen else x.status
          landings := if status = 2 then [] else x.landings
          groups := Map.mapVal x.groups (fun _ g => { g.drain with stop := some .implicit }) }))
    s


end Sys2Proof.Machine
end

