-- ==== Sys2Proof/Machine/Num.lean ====
section
/-!
DEFINITION. Sys2Proof/Machine/Num.lean: number formats, rounding, exact sums and conversion under a policy (R15 to R37).
Arithmetic is exact on dyadic numbers and rounds once where a rule says so.
-/

namespace Sys2Proof

open Machine

/-- A floating value: a NaN with its sign, an infinity, or (-1)^neg x m x 2^e. -/
inductive FVal where
  | nan (neg : Bool)
  | inf (neg : Bool)
  | fin (neg : Bool) (m : Nat) (e : Int)
deriving DecidableEq, Repr

/-- The parameters of a binary floating format (R16): `maxM x 2^maxE` is the largest finite value; `nanOnly` marks e4m3,
whose one NaN is the all-ones pattern; `noSpecial` marks e2m1. -/
structure FFmt where
  ebits : Nat
  fbits : Nat
  bias : Int
  hasInf : Bool
  hasNan : Bool
  maxM : Nat
  maxE : Int

def FFmt.f32 : FFmt := ⟨8, 23, 127, true, true, 2 ^ 24 - 1, 104⟩
def FFmt.f16 : FFmt := ⟨5, 10, 15, true, true, 2 ^ 11 - 1, 5⟩
def FFmt.bf16 : FFmt := ⟨8, 7, 127, true, true, 255, 120⟩
def FFmt.e4m3 : FFmt := ⟨4, 3, 7, false, true, 14, 5⟩
def FFmt.e5m2 : FFmt := ⟨5, 2, 15, true, true, 7, 13⟩
def FFmt.e2m1 : FFmt := ⟨2, 1, 1, false, false, 3, 1⟩

/-- The format of a floating type. -/
def Ty.ffmt : Ty → FFmt
  | .f16 => .f16
  | .bf16 => .bf16
  | .e4m3 => .e4m3
  | .e5m2 => .e5m2
  | .e2m1 => .e2m1
  | _ => .f32

/-- The least exponent of a normal value. -/
def FFmt.emin (f : FFmt) : Int := 1 - f.bias

/-- Whether a pattern's fields are an infinity or a NaN (R16, R17): exponent all ones where the format has infinities, and the
one all-ones pattern of e4m3. -/
def FFmt.special (f : FFmt) (e fr : Nat) : Bool :=
  e == 2 ^ f.ebits - 1 && (f.hasInf || (f.hasNan && fr == 2 ^ f.fbits - 1))

/-- The value of a pattern (R17). -/
def FFmt.decode (f : FFmt) (x : Nat) : FVal :=
  let fr := x % 2 ^ f.fbits
  let e := x / 2 ^ f.fbits % 2 ^ f.ebits
  let neg := x.testBit (f.fbits + f.ebits)
  if f.special e fr then (if f.hasInf && fr == 0 then .inf neg else .nan neg)
  else if e = 0 then .fin neg fr (f.emin - f.fbits)
  else .fin neg (2 ^ f.fbits + fr) (e - f.bias - f.fbits)

/-- The canonical NaN (R18, R24): quiet, positive; all ones in e4m3. -/
def FFmt.canonNan (f : FFmt) : Nat :=
  if f.hasInf then (2 ^ f.ebits - 1) * 2 ^ f.fbits + 2 ^ (f.fbits - 1) else 2 ^ (f.ebits + f.fbits) - 1

/-- The sign bit of a pattern. -/
def FFmt.sign (f : FFmt) (neg : Bool) : Nat := if neg then 2 ^ (f.ebits + f.fbits) else 0

/-- `m x 2^e` shifted to an exponent at or below its own. -/
def shiftTo (m : Nat) (e target : Int) : Nat := m * 2 ^ (e - target).toNat

/-- The pattern of a value that the format holds; a NaN gives the canonical NaN. -/
def FFmt.encode (f : FFmt) : FVal → Nat
  | .nan _ => f.canonNan
  | .inf neg => f.sign neg + (2 ^ f.ebits - 1) * 2 ^ f.fbits
  | .fin neg m e =>
    if m = 0 then f.sign neg
    else
      let top : Int := Nat.log2 m + e
      if top < f.emin then
        let q := f.emin - f.fbits
        f.sign neg + (if q ≤ e then shiftTo m e q else m / 2 ^ (q - e).toNat)
      else
        let q := top - f.fbits
        let fr := if q ≤ e then shiftTo m e q else m / 2 ^ (q - e).toNat
        f.sign neg + (top + f.bias).toNat * 2 ^ f.fbits + (fr - 2 ^ f.fbits)

/-- `k` of R28: `m / 2^sh` rounded to an integer in a mode, for a value of a sign. -/
def roundShift (mode : Rm) (neg : Bool) (m sh : Nat) : Nat :=
  let k := m / 2 ^ sh
  let r := m % 2 ^ sh
  let up :=
    match mode with
    | .rne => decide (2 ^ sh < 2 * r) || (2 * r == 2 ^ sh && k % 2 == 1)
    | .rtz => false
    | .rdn => neg && r != 0
    | .rup => !neg && r != 0
  if sh = 0 then m else if up then k + 1 else k

/-- Whether `m x 2^e` exceeds `m' x 2^e'`. -/
def dyadicLt (m' : Nat) (e' : Int) (m : Nat) (e : Int) : Bool :=
  let q := if e ≤ e' then e else e'
  decide (shiftTo m' e' q < shiftTo m e q)

/-- `round_to` (R28) of (-1)^neg x m x 2^e, with whether it overflowed. -/
def FFmt.round (f : FFmt) (mode : Rm) (neg : Bool) (m : Nat) (e : Int) : FVal × Bool :=
  if m = 0 then (.fin neg 0 0, false)
  else
    let top : Int := Nat.log2 m + e
    let ee := if top < f.emin then f.emin else top
    let q := ee - f.fbits
    let k := if q ≤ e then shiftTo m e q else roundShift mode neg m (q - e).toNat
    if dyadicLt f.maxM f.maxE k q then
      let away := match mode with | .rne => true | .rtz => false | .rdn => neg | .rup => !neg
      (if away then .inf neg else .fin neg f.maxM f.maxE, true)
    else (.fin neg k q, false)

/-- Rounding of any value. -/
def FFmt.roundV (f : FFmt) (mode : Rm) : FVal → FVal
  | .fin neg m e => (f.round mode neg m e).1
  | v => v

def FVal.negate : FVal → FVal
  | .nan n => .nan n
  | .inf n => .inf (!n)
  | .fin n m e => .fin (!n) m e

def FVal.isNan : FVal → Bool
  | .nan _ => true
  | _ => false

def FVal.isZero : FVal → Bool
  | .fin _ m _ => m == 0
  | _ => false

def FVal.isNeg : FVal → Bool
  | .nan n | .inf n => n
  | .fin n _ _ => n

/-- An exact product (R24). -/
def FVal.mul : FVal → FVal → FVal
  | .nan _, _ => .nan false
  | _, .nan _ => .nan false
  | .inf a, .inf b => .inf (a != b)
  | .inf a, .fin b m _ => if m = 0 then .nan false else .inf (a != b)
  | .fin a m _, .inf b => if m = 0 then .nan false else .inf (a != b)
  | .fin a m e, .fin b n f => .fin (a != b) (m * n) (e + f)

/-- The signed integer `v x 2^q`, at an exponent at or below the value's. -/
def FVal.scaled (q : Int) : FVal → Int
  | .fin neg m e => if neg then -(shiftTo m e q : Int) else shiftTo m e q
  | _ => 0

/-- The least exponent of the finite terms. -/
def minExp : List FVal → Int
  | [] => 0
  | [.fin _ _ e] => e
  | .fin _ _ e :: l => let r := minExp l; if e ≤ r then e else r
  | _ :: l => minExp l

/-- The exact sum of terms (R35); an exact zero is -0 only when every term is -0, or in RDN (R25) when the terms are not all
of one zero sign. -/
def exactSum (zeroNeg : Bool) (l : List FVal) : FVal :=
  if l.any FVal.isNan then .nan false
  else
    let pos := l.any (fun v => v == .inf false)
    let neg := l.any (fun v => v == .inf true)
    if pos && neg then .nan false
    else if pos then .inf false
    else if neg then .inf true
    else
      let q := minExp l
      let t : Int := l.foldl (fun a v => a + v.scaled q) 0
      if t = 0 then
        let allNeg := l.all (fun v => v.isZero && v.isNeg)
        let allPos := l.all (fun v => v.isZero && !v.isNeg)
        .fin (allNeg || (zeroNeg && !allPos)) 0 0
      else .fin (decide (t < 0)) t.natAbs q

/-- An addition rounded once (R24, R25). -/
def FFmt.add (f : FFmt) (mode : Rm) (a b : FVal) : FVal := f.roundV mode (exactSum (mode == .rdn) [a, b])

/-- A multiplication rounded once. -/
def FFmt.mul (f : FFmt) (mode : Rm) (a b : FVal) : FVal := f.roundV mode (a.mul b)

/-- a x b + c rounded once. -/
def FFmt.fma (f : FFmt) (mode : Rm) (a b c : FVal) : FVal := f.roundV mode (exactSum (mode == .rdn) [a.mul b, c])

/-- Order of two values that are not NaN. -/
def FVal.lt : FVal → FVal → Bool
  | .inf a, .inf b => a && !b
  | .inf a, _ => a
  | _, .inf b => !b
  | .fin a m e, .fin b n f =>
    let q := if e ≤ f then e else f
    decide ((FVal.fin a m e).scaled q < (FVal.fin b n f).scaled q)
  | _, _ => false

/-- Equality of values: the zeros are equal (R18), a NaN equals nothing. -/
def FVal.eqv (a b : FVal) : Bool := !a.isNan && !b.isNan && !a.lt b && !b.lt a

/-- minimumNumber (R26): -0 below +0. -/
def FVal.min (a b : FVal) : FVal :=
  if a.isNan then b else if b.isNan then a
  else if a.lt b then a else if b.lt a then b else if a.isNeg then a else b

/-- maximumNumber (R26). -/
def FVal.max (a b : FVal) : FVal :=
  if a.isNan then b else if b.isNan then a
  else if a.lt b then b else if b.lt a then a else if a.isNeg then b else a

/-- The integer a pattern stands for in an integer type (R15). -/
def Ty.intOf (t : Ty) (x : Nat) : Int :=
  let v := x % 2 ^ t.bits
  if t.signed && decide (2 ^ (t.bits - 1) ≤ v) then (v : Int) - 2 ^ t.bits else v

/-- The pattern of an integer modulo the type's width. -/
def Ty.wrap (t : Ty) (x : Int) : Nat := (x % (2 ^ t.bits : Nat)).toNat

def Ty.maxInt (t : Ty) : Int := if t.signed then 2 ^ (t.bits - 1) - 1 else 2 ^ t.bits - 1

def Ty.minInt (t : Ty) : Int := if t.signed then -(2 ^ (t.bits - 1)) else 0

/-- Clamped to the type's range. -/
def Ty.clamp (t : Ty) (x : Int) : Int :=
  if x < t.minInt then t.minInt else if t.maxInt < x then t.maxInt else x

/-- Wrapped or clamped (md.sat). -/
def Ty.fit (t : Ty) (sat : Bool) (x : Int) : Nat := t.wrap (if sat then t.clamp x else x)

/-- The value of a half-step code (R21). -/
def Ty.halfVal (t : Ty) (x : Nat) : FVal :=
  let w := t.bits
  let v : Int := if 2 ^ (w - 1) ≤ x % 2 ^ w then (x % 2 ^ w : Nat) - (2 ^ w : Nat) else (x % 2 ^ w : Nat)
  let h := 2 * v + 1
  .fin (decide (h < 0)) h.natAbs (-1)

def Ty.isHalf : Ty → Bool
  | .hs4 | .hs8 => true
  | _ => false

def Ty.isFloat : Ty → Bool
  | .f32 | .f16 | .bf16 | .e4m3 | .e5m2 | .e2m1 => true
  | _ => false

/-- The exact value of a pattern of any type. -/
def Ty.value (t : Ty) (x : Nat) : FVal :=
  if t.isFloat then (Ty.ffmt t).decode (x % 2 ^ t.bits)
  else if t.isHalf then Ty.halfVal t x
  else let v := Ty.intOf t x; .fin (decide (v < 0)) v.natAbs 0

/-- The value of an E8M0 scale (R19). -/
def e8m0 (x : Nat) : FVal := if x % 256 = 255 then .nan false else .fin false 1 ((x % 256 : Nat) - 127)

/-- The classes of a conversion (R29), in the order of R32. -/
inductive ConvClass where
  | nan | inf | ovf | unf
deriving DecidableEq, Repr

/-- The cause of a class that faults (R32). -/
def ConvClass.cause : ConvClass → BitVec 9
  | .nan => 0x0C0 | .inf => 0x0C1 | .ovf => 0x0C2 | .unf => 0x0C3

/-- A policy's 2-bit choice for a class (R30). -/
def ConvClass.choice (pol : DWord) : ConvClass → Nat
  | .nan => field pol 7 6
  | .inf => field pol 5 4
  | .ovf => field pol 3 2
  | .unf => field pol 1 0

/-- A finite value rounded to an integer in a mode. -/
def roundInt (mode : Rm) (neg : Bool) (m : Nat) (e : Int) : Int :=
  let k := if 0 ≤ e then m * 2 ^ e.toNat else roundShift mode neg m (-e).toNat
  if neg then -(k : Int) else k

/-- The half-step code nearest a finite value, unbounded (R22). -/
def roundHalf (neg : Bool) (m : Nat) (e : Int) : Int :=
  let fl := if 0 ≤ e then m * 2 ^ e.toNat else m / 2 ^ (-e).toNat
  let isInt := decide (0 ≤ e) || m % 2 ^ (-e).toNat == 0
  let k : Nat := if isInt && fl != 0 then fl - 1 else fl
  if neg then -(k : Int) - 1 else k

/-- The target's largest finite magnitude with a sign, as a pattern (R31). -/
def Ty.largest (t : Ty) (neg : Bool) : Nat :=
  if t.isFloat then (Ty.ffmt t).encode (.fin neg (Ty.ffmt t).maxM (Ty.ffmt t).maxE)
  else if t.isHalf then (if neg then 2 ^ (t.bits - 1) else 2 ^ (t.bits - 1) - 1)
  else Ty.wrap t (if neg then Ty.minInt t else Ty.maxInt t)

/-- The zero choice, as a pattern (R31). -/
def Ty.zeroOf (t : Ty) (neg : Bool) : Nat :=
  if t.isFloat then (Ty.ffmt t).sign neg
  else if t.isHalf then (if neg then 2 ^ t.bits - 1 else 0)
  else 0

/-- The outcome of one element's conversion: a pattern, or a class whose choice is fault. -/
inductive ConvOut where
  | val (x : Nat)
  | fault (c : ConvClass)
deriving DecidableEq, Repr

/-- What a choice gives, with the propagate result. -/
def convChoose (t : Ty) (pol : DWord) (c : ConvClass) (neg : Bool) (sat prop : Nat) : ConvOut :=
  match c.choice pol with
  | 0 => .val sat
  | 1 => .val (if c == .nan then Ty.zeroOf t false else Ty.zeroOf t neg)
  | 2 => .val prop
  | _ => .fault c

/-- `convert` (R29 to R32) of an exact value to a target type. -/
def convert (t : Ty) (mode : Rm) (pol : DWord) (x : FVal) : ConvOut :=
  let f := Ty.ffmt t
  match x with
  | .nan n =>
    let sat := Ty.largest t n
    convChoose t pol .nan n sat (if t.isFloat && f.hasNan then f.canonNan else sat)
  | .inf n =>
    let sat := Ty.largest t n
    convChoose t pol .inf n sat (if t.isFloat && f.hasInf then f.encode (.inf n) else sat)
  | .fin n m e =>
    if t.isFloat then
      let r := f.round mode n m e
      if r.2 then
        let sat := Ty.largest t n
        convChoose t pol .ovf n sat (match r.1 with | .inf _ => if f.hasInf then f.encode r.1 else sat | v => f.encode v)
      else if m ≠ 0 ∧ r.1.isZero then
        convChoose t pol .unf n (f.sign n + 1) (f.sign n)
      else .val (f.encode r.1)
    else if t.isHalf then
      let k := roundHalf n m e
      if k < -(2 ^ (t.bits - 1)) ∨ 2 ^ (t.bits - 1) - 1 < k then
        convChoose t pol .ovf n (Ty.largest t n) (Ty.largest t n)
      else .val (k % (2 ^ t.bits : Nat)).toNat
    else
      let k := roundInt mode n m e
      if k < Ty.minInt t ∨ Ty.maxInt t < k then convChoose t pol .ovf n (Ty.largest t n) (Ty.largest t n)
      else .val (Ty.wrap t k)

/-- The operations that `atm`, `atms`, `red` and the commutative state share on integers (R201, R309). -/
def intOp (t : Ty) (op : MemRedOp) (old o : Nat) : Nat :=
  match op with
  | .add => Ty.wrap t (Ty.intOf t old + Ty.intOf t o)
  | .sub => Ty.wrap t (Ty.intOf t old - Ty.intOf t o)
  | .min => if Ty.intOf t o < Ty.intOf t old then o else old
  | .max => if Ty.intOf t old < Ty.intOf t o then o else old
  | .and => old &&& o
  | .or => old ||| o
  | .xor => old ^^^ o

/-- The same on one floating value (R24 to R26, RNE). -/
def floatOp (f : FFmt) (op : MemRedOp) (old o : Nat) : Nat :=
  let a := f.decode old
  let b := f.decode o
  match op with
  | .add => f.encode (f.add .rne a b)
  | .sub => f.encode (f.add .rne a b.negate)
  | .min => f.encode (a.min b)
  | .max => f.encode (a.max b)
  | .and => old &&& o
  | .or => old ||| o
  | .xor => old ^^^ o

/-- One element's reduction in a type of R308: bf16 stands for a pair of halves in one word. -/
def elemOp (t : Ty) (op : MemRedOp) (old o : Nat) : Nat :=
  match t with
  | .f32 => floatOp .f32 op old o
  | .bf16 =>
    floatOp .bf16 op (old % 65536) (o % 65536) + 65536 * floatOp .bf16 op (old / 65536 % 65536) (o / 65536 % 65536)
  | t => intOp t op old o

/-- The bytes an element of R308 takes in memory. -/
def elemBytes (t : Ty) : Nat := if t.bits = 64 then 8 else 4

/-- An operation on one element of its own width (R234, R292). -/
def oneOp (t : Ty) (op : MemRedOp) (old o : Nat) : Nat :=
  if t.isFloat then floatOp (Ty.ffmt t) op old o else intOp t op old o

/-- The identity of an operation (R292): combining it changes nothing but the payload of a NaN. For `min` and `max` of floating-point
values it is a NaN, which R26 gives way to any number. -/
def identityOf (t : Ty) (op : MemRedOp) : Nat :=
  let f := Ty.ffmt t
  match op with
  | .add | .sub => if t.isFloat then f.sign true else 0
  | .or | .xor => 0
  | .and => 2 ^ t.bits - 1
  | .min => if t.isFloat then f.canonNan else Ty.wrap t (Ty.maxInt t)
  | .max => if t.isFloat then f.canonNan else Ty.wrap t (Ty.minInt t)

def AtmOp.red : AtmOp → Option MemRedOp
  | .add => some .add | .sub => some .sub | .min => some .min | .max => some .max | .and => some .and
  | .or => some .or | .xor => some .xor | .xchg => none | .cas => none

def RedOp.mem : RedOp → MemRedOp
  | .add => .add | .min => .min | .max => .max | .and => .and | .or => .or | .xor => .xor

/-- The new value of `atm` and `atms` (R201, R309), and whether the operation writes: a `cas` that does not match writes
nothing. -/
def atmNew (t : Ty) (op : AtmOp) (old o swap : Nat) : Nat × Bool :=
  match op with
  | .xchg => (o, true)
  | .cas => if old = o then (swap, true) else (old, false)
  | _ => match AtmOp.red op with | some r => (elemOp t r old o, true) | none => (old, false)

end Sys2Proof
end

