-- ==== Sys2Proof/Machine/Memory.lean ====
section
/-!
DEFINITION. Sys2Proof/Machine/Memory.lean: machine memory behind its homes: frames and held writes (R314 to R325), the walk and
cached translations (R273 to R277), ownership, versions and the commutative state (R290 to R300), and non-coherent copies
(R284 to R286).
-/

namespace Sys2Proof.Machine

/-- How a memory access can fail to take effect: a cause with its lanes and information words, or a wait. -/
inductive MStop where
  | trap (c : BitVec 9) (mask : Option Mask) (i0 i1 i2 : DWord)
  | wait
deriving DecidableEq, Repr

/-! ## The frame space (R315) -/

/-- D: the end of the plain region. -/
def State.plainEnd (s : State) : Nat := 2 ^ 30 * field (s.preg 0x810) 39 29

/-- F: the end of the installed frame space. -/
def State.frameEnd (s : State) : Nat := 2 ^ 40 * (16 + field (s.preg 0x810) 28 24) / 16

/-- The die whose stacks hold a machine line (R290, R330). -/
def dieOfLine (line : Nat) : Nat := line / 2 ^ 20 % 16 / 4

/-- The home of a machine line: one of the 48 slices of the die whose stacks hold it (R290); which one is a free value (log 44). -/
def homeOf (line : Nat) : Nat := 48 * dieOfLine line + Config.homeSlice line % 48

/-- Whether a machine address lies in the compressed region. -/
def State.compressed (s : State) (m : Nat) : Bool := decide (s.plainEnd ≤ m)

/-- The frame of a compressed address; an unassigned frame has none (R317). -/
def State.frameAt (s : State) (m : Nat) : Option Frame := Map.find s.frames (m / 4096)

/-- The stored size of a line (R316): 0 for zeros, else 16 to 64 bytes by a free function of the data (DESIGN CHOICE, log 6). -/
def lineSize (bytes : List Byte) : Nat :=
  if bytes.all (· == 0) then 0 else 16 * (Config.lineClass bytes % 4 + 1)

/-- A frame's need in chunks (R316). -/
def State.frameNeed (s : State) (frame : Nat) : Nat :=
  let total := (List.range 64).foldl (fun a i => a + lineSize (Map.bytes s.mem (4096 * frame + 64 * i) 64)) 0
  Nat.max 1 ((total + 511) / 512)

/-! ## Checks at the controller (R266 step 6) -/

/-- What a controller answers to an access of a line. -/
inductive Reach where
  | ok
  | wait
  | inBank
  | failed
  | unassigned
deriving DecidableEq, Repr

/-- A line that a copy owns until it has written it holds the accesses of other agents (R239); `who` lists the copies whose ownership does
not hold this access. -/
def State.locked (s : State) (line : Nat) (who : List Nat) : Bool :=
  s.locks.any (fun p => p.1 == line && !who.contains p.2)

/-- The homes of a row that an `ibfence.in` is about to hand over hold every new access (R335); a copy that owns the line was
there before. -/
def State.fenced (s : State) (line : Nat) (who : List Nat) : Bool :=
  s.bankFences.any (fun f => !f.out && f.rows.contains (line / 1024)) && !who.any (fun c => s.locks.contains (line, c))

/-- The row owner, the frame's state and the data's check, for an access that is or is not a write of all 64 bytes, by a copy
or by another agent. -/
def State.reach (s : State) (line : Nat) (fullWrite : Bool) (who : List Nat := []) : Reach :=
  let frame : Reach :=
    if s.compressed line then
      match s.frameAt line with
      | none => .unassigned
      | some f => if f.state == .evicted then .wait else .ok
    else .ok
  match frame with
  | .ok =>
    if s.locked line who || s.fenced line who then .wait
    else if Map.get false s.rowOwner (line / 1024) then .inBank
    else if s.badLines.contains line && !fullWrite then .failed
    else .ok
  | r => r

/-- The cause of a refusal (R328, R333). -/
def Reach.cause : Reach → Option (BitVec 9)
  | .ok => none
  | .wait => none
  | .inBank => some 0x04C
  | .failed => some 0x050
  | .unassigned => some 0x053

/-- An access sets its frame's accessed bit, and the frame leaves the ready queue (R321). -/
def State.touchFrame (s : State) (line : Nat) : State :=
  if s.compressed line then
    { s with
      frames := Map.alter s.frames (line / 4096) (fun f => { f with accessed := true })
      readyQ := s.readyQ.filter (· != line / 4096) }
  else s

/-- The chunks of the pool, less those taken out for good (R315, R325). -/
def State.poolSize (s : State) : Nat := (2 ^ 40 - s.plainEnd) / 512 - s.chunkBad

/-- The failed chunk of a frame leaves the pool, and the frame's good lines move to a fresh one (R325): from the free pool, from the
frame's surplus, or, where neither has one, once the frame is given one more than it has and is promised, as it is for a held write; the
frame keeps the failed chunk until then (DESIGN CHOICE, log 45). -/
def State.loseChunk (s : State) (line : Nat) : State :=
  match s.frameAt line with
  | none => s
  | some f =>
    let mine := s.held.filter (fun h => h.line / 4096 == line / 4096)
    if f.state != .resident then s
    else if 0 < s.free then { s with free := s.free - 1, chunkBad := s.chunkBad + 1 }
    else if mine.isEmpty && decide (s.frameNeed (line / 4096) < f.chunks) then
      { s with chunkBad := s.chunkBad + 1, frames := Map.put s.frames (line / 4096) { f with chunks := f.chunks - 1 } }
    else
      let need := mine.foldl (fun n h => Nat.max n h.need) f.chunks + 1
      { s with held := s.held ++ [⟨line, [], false, f.ctx, s.now, need, true⟩] }

/-- A line is found to fail (R325): the error is counted and the frame is retired; in the compressed region the failed chunk leaves the
pool. -/
def State.failLine (s : State) (line : Nat) : State :=
  let x := s.preg 0x818
  let s := s.setPreg 0x818 (setField x 31 0 (field x 31 0 + 1))
  let s := s.setPreg 0x817 (s.preg 0x817 ||| 4)
  let frame := line / 4096
  let s :=
    { s with
      badLines := line :: s.badLines
      badFrames := if s.badFrames.contains frame then s.badFrames else frame :: s.badFrames }
  if s.compressed line then s.loseChunk line else s

/-- A corrected error is counted (R325). -/
def State.countCorrected (s : State) : State :=
  let x := s.preg 0x818
  s.setPreg 0x818 (setField x 63 32 (field x 63 32 + 1))

/-! ## Versions (R298 to R301) -/

def State.version (s : State) (line : Nat) : Version :=
  BitVec.ofNat 48 (Map.get 0 s.vbase (line / 4096) + Map.get 0 s.vcount (line / 64))

/-- One advance: the count, or, where the count would pass 0xFFFF, the base by 2^16 and every count of the frame to zero. -/
def State.advance (s : State) (line : Nat) : State :=
  let c := Map.get 0 s.vcount (line / 64)
  if c < 0xFFFF then { s with vcount := Map.set 0 s.vcount (line / 64) (c + 1) }
  else
    { s with
      vbase := Map.set 0 s.vbase (line / 4096) ((Map.get 0 s.vbase (line / 4096) + 0x10000) % 2 ^ 48)
      vcount := (List.range 64).foldl (fun m i => Map.set 0 m (line / 4096 * 64 + i) 0) s.vcount }

/-- The granule of a line is recorded as written (R287). -/
def State.record (s : State) (line : Nat) : State := { s with dirty := Map.set false s.dirty (line / 4096) true }

/-! ## Bytes, held writes (R318, R319) -/

/-- Every team of a context changed. -/
def State.updTeams (s : State) (c : Nat) (f : Team → Team) : State :=
  { s with teams := Map.mapVal s.teams (fun _ t => if t.ctx = c then f t else t) }

/-- One more 0x051 is armed, or `n` more discards counted in the armed one (R324), or in the one held while a handler is entered
(R388). -/
def Group.armFault (g : Group) (line n : Nat) : Group :=
  if g.held.any (fun h => h.source == .capacity) then
    { g with
      held := g.held.map (fun h =>
        if h.source == .capacity then { h with info1 := h.info1.map (· + BitVec.ofNat 64 n) } else h) }
  else
    match g.ctxFault with
    | none => { g with ctxFault := some (line, n) }
    | some (l, k) => { g with ctxFault := some (l, k + n) }

/-- Every group of a context arms a 0x051 or counts its discards: those on cores and those in images (R324). -/
def State.armFaults (s : State) (ctx line n : Nat) : State :=
  let body (b : ImageBody) : ImageBody := match b with | .group k g => .group k (g.armFault line n) | b => b
  (s.updTeams ctx (fun t => { t with groups := Map.mapVal t.groups (fun _ g => g.armFault line n) })).updCtx ctx (fun c =>
    { c with images := Map.mapVal c.images (fun _ rs => rs.map (fun r => { r with body := body r.body })) })

/-- A discarded write's line reverts to what it was (R324): its bytes, and, where it had failed its check, that failure (R325). -/
def State.revert (s : State) (line : Nat) (before : List Byte) (failed : Bool) : State :=
  { s with
    mem := Map.setBytes s.mem line before
    badLines := if failed && !s.badLines.contains line then line :: s.badLines else s.badLines }

/-- A compressed frame takes the chunks its need calls for, or the write is held (R318). A later write to a frame with a held
write is held behind it (R319). Writes of a faulted context that the pool cannot supply are discarded (R324). -/
def State.place (s : State) (line : Nat) (before : List Byte) (failed : Bool) : State :=
  match s.frameAt line with
  | none => s
  | some f =>
    let need := s.frameNeed (line / 4096)
    let waits := s.held.any (fun h => h.line / 4096 == line / 4096)
    let missing := need - f.chunks
    if missing ≤ s.free && !waits then
      { s with
        free := s.free - missing
        frames := Map.put s.frames (line / 4096) { f with state := .resident, chunks := Nat.max f.chunks need } }
    else if (s.ctxOf f.ctx).faulted then
      (s.revert line before failed).armFaults f.ctx line 1
    else { s with held := s.held ++ [⟨line, before, failed, f.ctx, s.now, need, false⟩] }

/-- Bytes of a line set; a line written whole holds no uncorrectable data any more (R325). -/
def State.storeBytes (s : State) (line off : Nat) (bytes : List (Nat × Byte)) : State :=
  { s with
    mem := bytes.foldl (fun m p => Map.set 0 m (line + off + p.1) p.2) s.mem
    badLines :=
      if (List.range 64).all (fun i => bytes.any (fun p => off + p.1 == i)) then s.badLines.filter (· != line) else s.badLines }

/-- Bytes of a line change: where they leave the data larger than its frame holds, the write is placed or held. -/
def State.putBytes (s : State) (line off : Nat) (bytes : List (Nat × Byte)) : State :=
  if s.compressed line then
    ((s.storeBytes line off bytes).touchFrame line).place line (Map.bytes s.mem line 64) (s.badLines.contains line)
  else s.storeBytes line off bytes

/-! ## The commutative state (R292, R293) -/

/-- A partial copy's element combined into the home copy. -/
def mergePart (c : CLine) (line : Nat) (m : Map Byte) (p : Map DWord) : Map Byte :=
  p.foldl
    (fun m e =>
      let n := c.ty.bits / 8
      let old := natOfBytes (Map.bytes m (line + e.1) n)
      Map.setBytes m (line + e.1) (bytesOfNat n (oneOp c.ty c.op old e.2.toNat)))
    m

/-- The merge of R293: partial copies in die order, and the version advances. Over a line that has failed its check a merge has no
bytes to combine with: it writes nothing, and the line stays failed (R325). -/
def State.mergeC (s : State) (line : Nat) : State :=
  match Map.find s.cLines (line / 64) with
  | none => s
  | some c =>
    let mem := if s.badLines.contains line then s.mem else c.part.foldl (mergePart c line) s.mem
    let bytes := (List.range 64).map (fun i => (i, Map.get 0 mem (line + i)))
    let t := (({ s with cLines := Map.erase s.cLines (line / 64) }.putBytes line 0 bytes).advance line).record line
    { t with badLines := s.badLines }

/-- Elements, by offset in the line, reduced into a die's partial copy (R292); a line not in C, or in C for another operation or
type, is first merged and its ownership recalled, and its version advances, since the reduction arrives outside C (R298). -/
def State.reduceElems (s : State) (die line : Nat) (op : MemRedOp) (t : Ty) (elems : List (Nat × Nat)) : State :=
  let s :=
    match Map.find s.cLines (line / 64) with
    | some c => if c.op = op ∧ c.ty = t then s else (s.mergeC line).advance line
    | none => s.advance line
  let s := s.touchFrame line
  let c : CLine := (Map.find s.cLines (line / 64)).getD ⟨op, t, [[], [], [], []]⟩
  let put (part : Map DWord) (e : Nat × Nat) : Map DWord :=
    let old := (Map.find part e.1).getD (BitVec.ofNat 64 (identityOf t op))
    Map.put part e.1 (BitVec.ofNat 64 (oneOp t op old.toNat e.2))
  let part := elems.foldl put (c.part.getD die [])
  let s := { s with lineOwner := Map.erase s.lineOwner (line / 64) }
  ({ s with cLines := Map.put s.cLines (line / 64) { c with part := c.part.set die part } }.record line)

/-- A reduction arrives at a die's partial copy (R292): a bf16 operand is two elements. -/
def State.reduceAt (s : State) (die line off : Nat) (op : MemRedOp) (t : Ty) (o : Nat) : State :=
  let sub := op == .sub
  let o := if sub then negated t o else o
  s.reduceElems die line (if sub then .add else op) t
    (if t = .bf16 then [(off, o % 65536), (off + 2, o / 65536 % 65536)] else [(off, o)])
where
  /-- the negated operand of `red.sub` (R292) -/
  negated (t : Ty) (o : Nat) : Nat :=
    match t with
    | .f32 => o ^^^ 0x80000000
    | .bf16 => o ^^^ 0x80008000
    | t => Ty.wrap t (-(Ty.intOf t o))

/-! ## Accesses at the home -/

/-- The bytes of a line as an access reads them: a line in C is merged first (R293), and an owner other than the reader gives up its
write ownership, so that its next store needs a new grant (R290, R298). -/
def State.readLine (s : State) (line : Nat) (who : Option Nat := none) : List Byte × State :=
  let s := (s.mergeC line).touchFrame line
  let s := if Map.get none s.lineOwner (line / 64) = who then s else { s with lineOwner := Map.erase s.lineOwner (line / 64) }
  (Map.bytes s.mem line 64, s)

/-- A write by a caching agent (R291, R298): a grant of write ownership where the agent does not own the line, which advances
the version and records the granule; a later write under the same ownership does neither. -/
def State.ownedWrite (s : State) (agent line off : Nat) (bytes : List (Nat × Byte)) : State :=
  let s := s.mergeC line
  let s :=
    if Map.get none s.lineOwner (line / 64) = some agent then s
    else ({ s with lineOwner := Map.set none s.lineOwner (line / 64) (some agent) }.advance line).record line
  s.putBytes line off bytes

/-- Every write ownership of a line is recalled, and a line in C is merged (R299). -/
def State.recall (s : State) (line : Nat) : State :=
  let s := s.mergeC line
  { s with lineOwner := Map.erase s.lineOwner (line / 64) }

/-- A write performed at the home (R298). -/
def State.homeWrite (s : State) (line off : Nat) (bytes : List (Nat × Byte)) : State :=
  (((s.recall line).putBytes line off bytes).advance line).record line

/-! ## Translation (R273 to R277) -/

/-- The kind of an access (R278): read, write, fetch, atomic. -/
inductive Kind where
  | read | write | fetch | atomic
deriving DecidableEq, Repr

def Kind.code : Kind → Nat
  | .read => 0 | .write => 1 | .fetch => 2 | .atomic => 3

/-- The outcome of a walk: a leaf with its page size, a cause with the level and the machine address of the entry it was found at, or a
wait. -/
inductive Walk where
  | leaf (entry : DWord) (size : Nat)
  | fail (c : BitVec 9) (level entry : Nat)
  | wait
deriving DecidableEq, Repr

/-- The index of a level in a virtual address (R273). -/
def levelIndex (va level : Nat) : Nat := va / 2 ^ (12 + 9 * level) % 512

def pteV (e : DWord) : Bool := e.getLsbD 0
def pteLeaf (e : DWord) : Bool := e.getLsbD 1
def pteW (e : DWord) : Bool := e.getLsbD 2
def pteX (e : DWord) : Bool := e.getLsbD 3
def pteU (e : DWord) : Bool := e.getLsbD 4
def pteGrp (e : DWord) : Bool := e.getLsbD 5
def pteRem (e : DWord) : Bool := e.getLsbD 59
def ptePeer (e : DWord) : Nat := field e 58 50
def pteFrame (e : DWord) : Nat := 4096 * field e 47 12

/-- The page size of a leaf (R273). -/
def leafSize (level : Nat) (grp : Bool) : Nat :=
  match level with
  | 0 => if grp then 2 ^ 16 else 2 ^ 12
  | 1 => if grp then 2 ^ 25 else 2 ^ 21
  | _ => 2 ^ 30

/-- A valid entry breaks R274. -/
def pteBad (e : DWord) (level : Nat) : Bool :=
  field e 63 60 != 0 || field e 49 48 != 0 || field e 9 6 != 0
  || (level == 0 && !pteLeaf e) || (decide (3 ≤ level) && pteLeaf e)
  || (if pteLeaf e then
        (pteGrp e && decide (2 ≤ level)) || pteFrame e % leafSize level false != 0
        || (if pteRem e then decide (287 < ptePeer e) else ptePeer e != 0)
      else
        pteGrp e || pteU e || pteX e || pteW e || pteRem e || ptePeer e != 0)

/-- An entry without its frame and the bits the Zoholt ignores. -/
def pteAttrs (e : DWord) : DWord := e &&& 0xFFFF0000000003FF

/-- The doubleword at an aligned machine address as a load reads it: a line in C is merged first (R293). -/
def State.seenWord (s : State) (a : Nat) : Nat := natOfBytes (Map.bytes (s.mergeC (alignDown 64 a)).mem a 8)

/-- An entry as a walk's load reads it (R276). -/
def State.pte (s : State) (a : Nat) : DWord := BitVec.ofNat 64 (s.seenWord a)

/-- The sixteen entries of a group are valid, equal but for their frames, and consecutive from an aligned base (R275). -/
def State.groupOk (s : State) (node va level : Nat) : Bool :=
  let i0 := levelIndex va level / 16 * 16
  let first := s.pte (node + 8 * i0)
  let sz := leafSize level false
  pteFrame first % (16 * sz) == 0 &&
    (List.range 16).all (fun j =>
      let e := s.pte (node + 8 * (i0 + j))
      pteV e && pteGrp e && pteAttrs e == pteAttrs first && pteFrame e == pteFrame first + j * sz)

/-- The other line of the group of sixteen entries that an entry lies in, 128 bytes from a multiple of 128. -/
def groupOther (a : Nat) : Nat := if a % 128 < 64 then alignDown 64 a + 64 else alignDown 64 a - 64

/-- A node lies outside coherent local memory (R275). -/
def State.nodeBad (s : State) (node : Nat) : Bool :=
  decide (s.frameEnd ≤ node) || (!s.compressed node && Map.get false s.stripe (node / 4096))

/-- One entry of the walk (R275): a node, and what to do at the next one down. Of a group both lines are read, and each may be held or
fail at its controller (R325). -/
def State.walkAt (s : State) (va node level : Nat) (down : Nat → Walk) : Walk :=
  let a := node + 8 * levelIndex va level
  if s.nodeBad node then .fail 0x046 level a
  else
    match s.reach (alignDown 64 a) false with
    | .wait => .wait
    | .ok =>
      let e := s.pte a
      if !pteV e then .fail 0x048 level a
      else if pteBad e level then .fail 0x046 level a
      else if pteLeaf e then
        match (if pteGrp e then s.reach (groupOther a) false else .ok) with
        | .wait => .wait
        | .ok =>
          if pteGrp e && !s.groupOk node va level then .fail 0x046 level a
          else if !pteRem e && decide (s.frameEnd ≤ pteFrame e) then .fail 0x053 level a
          else .leaf e (leafSize level (pteGrp e))
        | r => .fail (r.cause.getD 0x046) level (groupOther a)
      else down (pteFrame e)
    | r => .fail (r.cause.getD 0x046) level a

/-- The walk from a node at a level (R273, R275). -/
def State.walkFrom (s : State) (va node : Nat) : Nat → Walk
  | 0 => s.walkAt va node 0 (fun n => .fail 0x046 0 n)
  | level + 1 => s.walkAt va node (level + 1) (fun n => State.walkFrom s va n level)

/-- A walk of a context's tables. -/
def State.walk (s : State) (ctx va : Nat) : Walk :=
  s.walkFrom va (4096 * field ((s.ctxOf ctx).sreg 0x405) 47 12) 4

/-- Whether a cached leaf translates an address. -/
def TlbEntry.covers (e : TlbEntry) (ctx va : Nat) : Bool :=
  e.ctx == ctx && decide (e.va ≤ va) && decide (va < e.va + e.size)

/-- What an access translates through: the tables, or a cached leaf that they no longer give, which a free value may choose
until a write to `tlbinv` removes it (R277, DESIGN CHOICE, log 5). -/
def State.lookup (s : State) (ctx va : Nat) : Walk :=
  let w := s.walk ctx va
  match s.tlb.find? (fun e => e.covers ctx va && w != .leaf e.entry e.size) with
  | none => w
  | some e => if Config.staleHit s.tick then .leaf e.entry e.size else w

/-- The lines that a walk reads at one node, and then further down. -/
def State.walkLinesAt (s : State) (va node level : Nat) (down : Nat → List Nat) : List Nat :=
  let a := node + 8 * levelIndex va level
  let line := alignDown 64 a
  if s.nodeBad node || s.reach line false != .ok then []
  else
    let e := s.pte a
    if !pteV e || pteBad e level then [line]
    else if pteLeaf e then (if pteGrp e && s.reach (groupOther a) false == .ok then [line, groupOther a] else [line])
    else line :: down (pteFrame e)

/-- The lines that a walk from a node reads. -/
def State.walkLinesFrom (s : State) (va node : Nat) : Nat → List Nat
  | 0 => s.walkLinesAt va node 0 (fun _ => [])
  | level + 1 => s.walkLinesAt va node (level + 1) (fun n => State.walkLinesFrom s va n level)

/-- A walk has read its entries: each is a load at its home, which merges a line in C and sets the frame's accessed bit (R276, R293,
R321). -/
def State.walked (s : State) (ctx va : Nat) : State :=
  (s.walkLinesFrom va (4096 * field ((s.ctxOf ctx).sreg 0x405) 47 12) 4).foldl (fun s l => (s.readLine l).2) s

/-- An address has been translated, whether or not it may be accessed: a leaf that no cached entry gives, and a failure, were read by a
walk (R276). -/
def State.looked (s : State) (ctx va : Nat) : State :=
  match s.lookup ctx va with
  | .leaf e size => if s.tlb.contains ⟨ctx, alignDown size va, size, e⟩ then s else s.walked ctx va
  | _ => s.walked ctx va

/-- The leaf an access used is cached (R276): one that no cached entry gives was read by a walk. -/
def State.cache (s : State) (ctx va : Nat) : State :=
  match s.lookup ctx va with
  | .leaf e size =>
    let x : TlbEntry := ⟨ctx, alignDown size va, size, e⟩
    if s.tlb.contains x then s else { s.walked ctx va with tlb := x :: s.tlb }
  | _ => s

/-- Where a virtual line lies. -/
inductive Place where
  /-- coherent local memory: a machine line -/
  | loc (line : Nat)
  /-- local memory inside a non-coherent window -/
  | nc (line : Nat)
  /-- memory of a peer package -/
  | rem (peer line : Nat)
deriving DecidableEq, Repr

/-- The non-coherent windows of a context (R283): whether an address lies in an enabled one. -/
def Ctx.inWindow (c : Ctx) (va : Nat) : Bool :=
  (List.range 16).any (fun i =>
    let b := c.sreg (0x410 + i)
    let l := c.sreg (0x420 + i)
    b.getLsbD 0 && decide (4096 * field b 56 12 ≤ va) && decide (va < 4096 * field l 56 12))

/-- Translation of one virtual line with the permission checks of R275, for user or system mode. The 0x050 of an entry that the walk
reads names the entry's line (R325). -/
def State.translate (s : State) (ctx : Nat) (user : Bool) (kind : Kind) (va : Nat) : Except MStop Place :=
  match s.lookup ctx va with
  | .wait => .error .wait
  | .fail c level entry =>
    .error (.trap c none (BitVec.ofNat 64 (if c = 0x050 then alignDown 64 entry else va))
      (if c = 0x048 then BitVec.ofNat 64 (level + 16 * kind.code) else 0) 0)
  | .leaf e size =>
    let a := BitVec.ofNat 64 va
    if user && !pteU e then .error (.trap 0x044 none a 0 0)
    else if (kind == .write || kind == .atomic) && !pteW e then .error (.trap 0x043 none a 0 0)
    else if kind == .fetch && !pteX e then .error (.trap 0x045 none a 0 0)
    else
      let m := alignDown size (pteFrame e) + va % size
      if pteRem e then .ok (.rem (ptePeer e) m)
      else if (s.ctxOf ctx).inWindow va then .ok (.nc m)
      else .ok (.loc m)

/-! ## Non-coherent copies (R284, R285) -/

def State.ncCopy (s : State) (core line : Nat) : Option NcLine := Map.find (Map.get [] s.nc core) line

def State.setNc (s : State) (core line : Nat) (x : NcLine) : State :=
  { s with nc := Map.modify [] s.nc core (fun m => Map.put m line x) }

def State.dropNc (s : State) (core line : Nat) : State :=
  { s with nc := Map.modify [] s.nc core (fun m => Map.erase m line) }

/-- The dirty bytes of a copy, as offsets and bytes. -/
def NcLine.dirtyBytes (x : NcLine) : List (Nat × Byte) :=
  ((List.range 64).filter (fun i => x.mask.getLsbD i)).map (fun i => (i, x.bytes.getD i 0))

/-- What the controller answers to the write-back of a core's copy (R285, R325): a clean copy has nothing to write. -/
def State.reachNc (s : State) (core line : Nat) : Reach :=
  match s.ncCopy core line with
  | none => .ok
  | some x => if x.mask = 0 then .ok else s.reach line (x.mask == BitVec.allOnes 64)

/-- The failure of a write-back: its cause, with the machine line for 0x050 (R325) and the virtual line else, or a wait. -/
def State.ncStop (s : State) (core line va : Nat) : Option MStop :=
  match s.reachNc core line with
  | .ok => none
  | .wait => some .wait
  | e =>
    let c := e.cause.getD 0
    some (.trap c none (BitVec.ofNat 64 (if c = 0x050 then line else va)) 0 0)

/-- The first write-back of a core's copies that fails. -/
def State.flushStop (s : State) (core : Nat) : Option MStop :=
  (Map.get [] s.nc core).findSome? (fun p => s.ncStop core p.1 p.2.va)

/-- A copy's dirty bytes are applied at the home and the copy is clean (R284, R285). Bytes for only a part of a line that has failed its
check are not written (R325). -/
def State.writeBackNc (s : State) (core line : Nat) : State :=
  match s.ncCopy core line with
  | none => s
  | some x =>
    if x.mask = 0 || (s.badLines.contains line && x.mask != BitVec.allOnes 64) then s
    else (s.homeWrite line 0 x.dirtyBytes).setNc core line { x with mask := 0 }

/-- Every non-coherent line of a core's L1 is written back and discarded (rule 8). -/
def State.flushNc (s : State) (core : Nat) : State :=
  (Map.get [] s.nc core).foldl (fun s p => (s.writeBackNc core p.1).dropNc core p.1) s

/-- A core's L1 holds no line any more: its owned lines are given up, its clean non-coherent copies discarded. -/
def State.emptyL1 (s : State) (core : Nat) : State :=
  { s with lineOwner := s.lineOwner.filter (fun p => p.2 != some core), nc := Map.erase s.nc core }

/-- A core's L1 writes its dirty lines back and gives up its lines: before it is gated (R312), and for a placement that enlarges the
scratchpad on its core (R193), where which lines lie in the space it loses is not stated and the model takes all (DESIGN CHOICE, log 40). -/
def State.yieldL1 (s : State) (core : Nat) : State := (s.flushNc core).emptyL1 core

end Sys2Proof.Machine
end

