-- ==== Sys2Proof/Machine/Ops.lean ====
section
/-!
DEFINITION. Sys2Proof/Machine/Ops.lean: fetching a line, taking an exception and returning from one (R385 to R390), raising a
cause from an executing slot, holding and retiring a slot, and imprecise causes.
-/

namespace Sys2Proof.Machine

/-! ## Fetching a line (R43, R275) -/

/-- The 64 bytes of a line, the first byte in bits [7:0] (R43). -/
def lineOfBytes (b : List Byte) : BitVec 512 := BitVec.ofNat 512 (natOfBytes b)

/-! ## The fabric, as a fetch and an access need it (R360 to R364) -/

/-- The package's own number and the domain's size (R381). -/
def State.selfPkg (s : State) : Nat := field (s.preg 0x830) 8 0

def State.domainSize (s : State) : Nat := field (s.preg 0x830) 24 16

/-- The current tag, zero before the first view (R363). -/
def State.tag (s : State) : Tag := match s.view with | some v => v.2 | none => 0

/-- A member of the current view. -/
def State.member (s : State) (p : Nat) : Bool := match s.view with | some v => v.1.getLsbD p | none => false

/-- The package is excluded, or holds no view (R369, R371). -/
def State.shutOut (s : State) : Bool := s.excluded || !s.member s.selfPkg

/-- The checks of a group's use of the fabric (R360, R370, R371). -/
def State.viewStopOf (s : State) (g : Group) : Option MStop :=
  let now := s.tag
  if s.shutOut then some (.trap 0x1C2 none 0 0 0)
  else if g.ackTag ≠ now then
    if g.notified then some (.trap 0x1C1 none 0 0 0)
    else
      let n := (now.extractLsb' 32 16).toNat + 65536 - (g.ackTag.extractLsb' 32 16).toNat
      some (.trap 0x1C0 none (now.setWidth 64) (g.ackTag.setWidth 64) (BitVec.ofNat 64 (n % 65536)))
  else none

/-- A peer outside the domain or the view (R360). -/
def State.peerBad (s : State) (p : Nat) : Bool := decide (s.domainSize ≤ p) || !s.member p

/-- The address-hash lane of a machine address of a peer (R296). -/
def addrLane (line : Nat) : Nat := Nat.xor (line / 64 % 16) (line / 1024 % 16)

/-- A port whose link is up; every other one has been down since the cycle it holds. -/
def State.portUp (s : State) (k : Nat) : Bool := (Map.get ⟨false, false, false, 0⟩ s.ports k).up

/-- The first port that is up from a given one on, in ascending order and wrapping at 24; the given one where none is (R360). -/
def State.workingPort (s : State) (k : Nat) : Nat :=
  (((List.range 24).map (fun i => (k + i) % 24)).find? s.portUp).getD (k % 24)

/-- A port that is up and carries the package's extensions of UALink (R357). -/
def State.extPort (s : State) (k : Nat) : Bool := s.portUp k && (Map.get ⟨false, false, false, 0⟩ s.ports k).extensions

/-- The first port for a message of the extensions, from a given one on, in ascending order and wrapping at 24; none carries it where there is
no such port (R357). -/
def State.extFrom (s : State) (k : Nat) : Option Nat := ((List.range 24).map (fun i => (k + i) % 24)).find? s.extPort

/-- A request that is a notification, which is a message of the extensions and no access of a line. -/
def RemoteKind.isNote : RemoteKind → Bool
  | .note _ _ => true
  | _ => false

/-- The port of a pair of destination and address-hash lane (R360): the one its outstanding requests left through, which it keeps until they
are acknowledged or sent again, else the working port from (peer + lane) mod 24 on. -/
def State.portFor (s : State) (peer lane : Nat) : Nat :=
  match s.reqs.find? (fun r => r.2.peer == peer && addrLane r.2.line == lane && r.2.reply.isNone && !RemoteKind.isNote r.2.kind) with
  | some r => r.2.port
  | none => s.workingPort (peer + lane)

/-- A requester with the home that it counts its requests for (R310): the fabric port for that peer, and one of the peer's 192 homes. -/
def reqKey (peer port home : Nat) : Nat := (24 * peer + port) * 192 + home

/-- A request of a fragment's instruction, or of a copy that it issued, leaves the fabric port under the current tag. A copy's requests that
leave after a change of view that its group has acknowledged carry the new view's tag, that of their sending: R7 does not say whether an
operation issues with its copy or as it leaves (DESIGN CHOICE, log 44). -/
def State.sendReqFor (s : State) (ref : FragRef) (pc : CodePtr) (posted : Bool) (copy : Option Nat) (peer va line : Nat)
    (kind : RemoteKind) (take : List (Nat × Nat × Nat)) (reply : Option RemoteReply) : Nat × State :=
  let id := s.nextReq
  let port := if RemoteKind.isNote kind then (s.extFrom (peer + addrLane line)).getD 0 else s.portFor peer (addrLane line)
  let key := reqKey peer port (homeOf line)
  let n := Map.get 0 s.reqCounts key
  let r : Req :=
    ⟨ref, pc, posted, copy, peer, va, line, s.tag, ⟨port, BitVec.ofNat 16 n⟩, s.now, (s.teamOf ref.team).launch, kind, take, reply, port, false⟩
  (id, { s with
    reqs := Map.put s.reqs id r, nextReq := s.nextReq + 1, reqCounts := Map.set 0 s.reqCounts key ((n + 1) % 65536) })

/-- The cause that a reply reports (R361, R362, R364). -/
def RemoteReply.cause : RemoteReply → Option (BitVec 9)
  | .refused c => some (BitVec.ofNat 9 c)
  | .stale => some 0x1C1
  | _ => none

/-- The request of a fragment for a line of a peer that it fetches. -/
def State.fetched (s : State) (r : FragRef) (va : Nat) : Option (Nat × Req) :=
  s.reqs.find? (fun q => q.2.fetch && q.2.ref == r && q.2.va == va)

/-- A fetch of a fragment of the line at a virtual address, in user or system mode. A line of a peer is one remote read under R360, whose
reply the fetch waits for. -/
def State.fetch (s : State) (r : FragRef) (ctx : Nat) (user : Bool) (va : Nat) : Except MStop (BitVec 512 × State) :=
  match s.translate ctx user .fetch va with
  | .error e => .error e
  | .ok (.rem peer m) =>
    match s.viewStopOf (s.groupAt r.team r.group) with
    | some e => .error e
    | none =>
      if s.peerBad peer then .error (.trap 0x1C4 none 0 0 0)
      else
        match s.fetched r va with
        | some (id, q) =>
          match q.reply with
          | none => .error .wait
          | some (.data bs) => .ok (lineOfBytes bs, { s with reqs := Map.erase s.reqs id })
          | some x =>
            let c := (RemoteReply.cause x).getD 0
            .error (.trap c none (if c = 0x050 then BitVec.ofNat 64 m else if c = 0x1C1 then 0 else BitVec.ofNat 64 va) 0 0)
        | none => .error .wait
  | .ok (.loc m) | .ok (.nc m) =>
    match s.reach m false with
    | .ok =>
      let r := (s.cache ctx va).readLine m
      .ok (lineOfBytes r.1, r.2)
    | .wait => .error .wait
    | .failed => .error (.trap 0x050 none (BitVec.ofNat 64 m) 0 0)
    | r => .error (.trap (r.cause.getD 0) none (BitVec.ofNat 64 va) 0 0)

/-- A fetch that waits: for a line of a peer its request leaves, once. -/
def State.fetchAsk (s : State) (r : FragRef) (ctx : Nat) (user : Bool) (va : Nat) : State :=
  match s.translate ctx user .fetch va with
  | .ok (.rem peer m) =>
    if (s.fetched r va).isSome || s.peerBad peer then s
    else
      let x := s.sendReqFor r (s.fragAt r).pc false none peer va m .read [] none
      { x.2 with reqs := Map.alter x.2.reqs x.1 (fun q => { q with fetch := true }) }
  | _ => s

/-- A fetch that a fragment gives up: what a peer answered is dropped. -/
def State.fetchDrop (s : State) (r : FragRef) (va : Nat) : State :=
  match s.fetched r va with
  | some (id, _) => { s with reqs := Map.erase s.reqs id }
  | none => s

/-! ## Taking an exception (R385 to R388) -/

/-- The vector register of a cause's range (R385). -/
def vectorSreg (c : BitVec 9) : Nat :=
  if c.toNat < 0x40 then 0x450
  else if c.toNat < 0xC0 then 0x451
  else if c.toNat < 0x100 then 0x452
  else if c.toNat < 0x140 then 0x454
  else if c.toNat < 0x180 then 0x455
  else if c.toNat < 0x1C0 then 0x456
  else 0x453

/-- A cause with what its own rule puts into the trap frame. -/
structure Cause where
  code : BitVec 9
  precise : Bool := true
  sw : Bool := false
  /-- none: what R386 gives where the cause's rule sets no mask -/
  mask : Option Mask := none
  addr : CodePtr
  info0 : DWord := 0
  info1 : DWord := 0
  info2 : DWord := 0
  info3 : DWord := 0
  resume : CodePtr
deriving DecidableEq, Repr

/-- A trap-frame register (R387). -/
def Group.tfReg (g : Group) (n : Nat) : DWord := Map.get 0 g.tf n

def Group.setTf (g : Group) (n : Nat) (x : DWord) : Group := { g with tf := Map.set 0 g.tf n x }

/-- `tcause.ent`: a handler is entered and has not returned (R387). -/
def Group.ent (g : Group) : Bool := (g.tfReg 0x470).getLsbD 12

/-- The trap frame that entry writes (R386, R387). -/
def Group.writeFrame (g : Group) (c : Cause) (mask em : Mask) : Group :=
  let tcause : DWord :=
    BitVec.ofNat 64 (c.code.toNat + (if c.precise then 0x200 else 0) + (if g.sys then 0x400 else 0)
      + (if c.sw then 0x800 else 0) + 0x1000)
  ((((((((g.setTf 0x470 tcause).setTf 0x471 c.addr).setTf 0x472 mask).setTf 0x473 c.info0).setTf 0x474 c.info1).setTf
    0x475 c.info2).setTf 0x476 c.info3).setTf 0x477 c.resume).setTf 0x478 em

/-- `tmask` (R386): the cause's own mask, else the lanes that take part for a precise cause and `em` for an imprecise one;
`om` where that set is empty. -/
def trapMask (c : Cause) (f : Frag) (act : Mask) : Mask :=
  match c.mask with
  | some m => m
  | none =>
    let m := if c.precise then act else f.em
    if m = 0 then f.om else m

/-- `em` in a handler (R386): the lanes concerned that the fragment owns, and all that it owns where none is left, since a handler
never starts with no lanes (DEDUCED, log 43). -/
def handlerMask (f : Frag) (tmask : Mask) : Mask := if tmask &&& f.om = 0 then f.om else tmask &&& f.om

/-- Entry into a handler whose vector slot is marked (R386): flags clear, the frame is written, the mode becomes the context's
system level, `em` becomes the lanes concerned and the fragment continues at the vector. A 0x1C0 marks the group notified (R370). -/
def State.enterHandler (s : State) (r : FragRef) (c : Cause) (act : Mask) (vec : CodePtr) : State :=
  let f := s.fragAt r
  let m := trapMask c f act
  s.updGroupAt r.team r.group (fun g =>
    let g := (g.drain.writeFrame c m f.em)
    let g := { g with sys := true, trapEntry := some r.entry, notified := g.notified || (c.code == 0x1C0 && !c.sw) }
    g.updFrag r.entry (fun f =>
      { f with
        em := handlerMask f m, pc := vec, line := none, refetch := false, fresh := false, sent := [], counted := uncounted
        run := none, park := none, later := [], sp := false, ready := none }))

/-- A double fault ends the team with 0x1D3, and its image is written with status faulted (R388). -/
def State.doubleFault (s : State) (r : FragRef) : State := s.endTeam r.team 2 0x1D3

/-- A fragment's entry into a handler waits: for the reply of a peer that an instruction of its group needs to complete (R55,
R380), or while the vector's line waits for its frame (R323). -/
def State.trapWaits (s : State) (r : FragRef) (c : Cause) : Bool :=
  let t := s.teamOf r.team
  let g := s.groupAt r.team r.group
  !g.ent &&
    (g.inflight.any (fun x => x.2.req.isSome) ||
      match s.fetch r t.ctx false (lineOfPc ((s.ctxOf t.ctx).sreg (vectorSreg c.code))) with
      | .error .wait => true
      | _ => false)

/-- An entry that waits: a vector's line that lies in a peer is asked for. -/
def State.askVector (s : State) (r : FragRef) (c : Cause) : State :=
  let ctx := (s.teamOf r.team).ctx
  s.fetchAsk r ctx false (lineOfPc ((s.ctxOf ctx).sreg (vectorSreg c.code)))

/-- Taking an exception (R386, R388): a cause while a handler is entered, or a vector that is not a marked slot of a line that
can be fetched, is a double fault. An entry that waits changes nothing but that it may ask a peer for the vector's line. -/
def State.takeTrap (s : State) (r : FragRef) (c : Cause) (act : Mask) : State :=
  let t := s.teamOf r.team
  let g := s.groupAt r.team r.group
  if g.ent then s.doubleFault r
  else if s.trapWaits r c then s.askVector r c
  else
    let vec := (s.ctxOf t.ctx).sreg (vectorSreg c.code)
    match s.fetch r t.ctx false (lineOfPc vec) with
    | .error _ => s.doubleFault r
    | .ok (line, s') => if slotMarked line (slotOfPc vec) then s'.enterHandler r c act vec else s.doubleFault r

/-- A precise cause of the executing slot. -/
def State.raise (s : State) (code : BitVec 9) (mask : Option Mask := none) (i0 i1 i2 i3 : DWord := 0) : State :=
  let pc := s.cf.pc
  s.takeTrap s.cur.ref
    { code, mask, addr := pc, info0 := i0, info1 := i1, info2 := i2, info3 := i3, resume := pc } s.act

/-- The causes that a translation or a controller gives, whose `tinfo0` is the address translated (R266, R275). -/
def translationCause (c : BitVec 9) : Bool :=
  c == 0x043 || c == 0x044 || c == 0x045 || c == 0x046 || c == 0x048 || c == 0x04C || c == 0x053

/-- What a failed access does to the executing slot: its cause, after the loads of a walk that failed, or a hold. -/
def State.memStop (s : State) (e : MStop) : State :=
  match e with
  | .wait => s
  | .trap c mask i0 i1 i2 =>
    (if translationCause c then s.looked s.ct.ctx i0.toNat else s).raise c mask i0 i1 i2

/-- The effect of `tret` (R390) but for the check of `tresume`. -/
def State.returnFromTrap (s : State) : State :=
  s.setG (fun g =>
    let pm := (g.tfReg 0x470).getLsbD 10
    let em := g.tfReg 0x478
    let pc := g.tfReg 0x477
    let g := { g with sys := pm, trapEntry := none }.setTf 0x470 (setField (g.tfReg 0x470) 12 12 0)
    g.updFrag s.cur.ref.entry (fun f =>
      { f with
        em := em &&& f.om, pc := pc, line := none, refetch := false, fresh := false, went := true, sent := []
        counted := uncounted, run := none, ready := none, promoted := false }))

/-! ## Imprecise causes (R388) -/

/-- An imprecise cause becomes due in a group: each source holds at most one, and a later one is dropped and marked. -/
def Group.hold (g : Group) (h : Held) : Group :=
  if g.held.any (fun x => x.source == h.source) then
    { g with
      held := g.held.map (fun x =>
        if x.source == h.source then { x with info3 := x.info3 ||| 0x0400000000000000 } else x) }
  else { g with held := g.held ++ [h] }

/-- The cause that a held one gives when it is taken at a fragment's next slot; a 0x051 names that slot (R324). -/
def Held.toCause (h : Held) (slot : CodePtr) : Cause where
  code := h.cause
  precise := false
  mask := h.mask
  addr := if h.source = .capacity then slot else h.addr
  info0 := h.info0
  info1 := if h.slotInto = some 1 then slot else h.info1.getD 0
  info2 := h.info2
  info3 := if h.slotInto = some 3 then slot ||| h.info3 else h.info3
  resume := slot

/-- A group has lanes left. -/
def Group.alive (g : Group) : Bool := g.owned &&& ~~~g.exited != 0

/-- The live groups of a team, of both halves of a paired one: the half that holds each, and its number. -/
def State.liveGroups (s : State) (team : Nat) : List (Nat × Nat) :=
  (s.halves team).flatMap (fun h => ((s.teamOf h).groups.filter (fun p => p.2.alive)).map (fun p => (h, p.1)))

/-- The group of a team that takes a cause: the one named, or the team's lowest-numbered live group where it has no lanes left. -/
def State.taker (s : State) (team g : Nat) : Option (Nat × Nat) :=
  if (s.groupAt team g).alive then some (team, g)
  else (s.liveGroups team).foldl
    (fun best p => match best with | none => some p | some b => if p.2 < b.2 then some p else some b) none

/-- An imprecise cause for a group, or, where it has no lanes left, for the team's lowest-numbered live group: R205 says so of the copies of
windows, and the model does the same for every other cause (DESIGN CHOICE, log 34). -/
def State.holdCause (s : State) (team g : Nat) (h : Held) : State :=
  match s.taker team g with
  | none => s
  | some p => s.updGroupAt p.1 p.2 (·.hold h)

/-- A held cause as it is when it is taken: that of a change of view names the tags at its entry, and none is due once the group is notified
or has acknowledged the current tag (R370). -/
def State.heldNow (s : State) (g : Group) (h : Held) : Option Held :=
  if h.cause = 0x1C0 ∧ h.source = .fabric then
    if g.notified || g.ackTag == s.tag then none
    else
      let n := (s.tag.extractLsb' 32 16).toNat + 65536 - (g.ackTag.extractLsb' 32 16).toNat
      some { h with info0 := s.tag.setWidth 64, info1 := some (g.ackTag.setWidth 64), info2 := BitVec.ofNat 64 (n % 65536) }
  else some h

/-- The first held cause is taken by a fragment (R388). -/
def State.deliver (s : State) (r : FragRef) : State :=
  let g := s.groupAt r.team r.group
  match g.held.filterMap (s.heldNow g) with
  | [] => if g.ent then s else s.updGroupAt r.team r.group (fun g => { g with held := [] })
  | h :: rest =>
    let c := h.toCause (s.fragAt r).pc
    if g.ent then s
    else if s.trapWaits r c then s.askVector r c
    else (s.updGroupAt r.team r.group (fun g => { g with held := rest })).takeTrap r c 0

/-- The cause of an armed 0x051: the oldest discarded line and the number of discards (R324). -/
def faultHeld (line n : Nat) : Held :=
  ⟨.capacity, 0x051, 0, none, BitVec.ofNat 64 line, some (BitVec.ofNat 64 n), 0, 0, none⟩

/-- The armed 0x051 is taken by a fragment at a fence or safe point (R324); one that becomes due there inside a handler is held,
and taken at the first slot after the handler returns (R388). -/
def State.deliverFault (s : State) (r : FragRef) : State :=
  let g := s.groupAt r.team r.group
  match g.ctxFault with
  | none => s
  | some (line, n) =>
    let c := (faultHeld line n).toCause (s.fragAt r).pc
    if g.ent then s.updGroupAt r.team r.group (fun g => { g with ctxFault := none }.hold (faultHeld line n))
    else if s.trapWaits r c then s.askVector r c
    else (s.updGroupAt r.team r.group (fun g => { g with ctxFault := none })).takeTrap r c 0

/-! ## Retiring a slot -/

/-- The flag the executing slot attaches to (R49). -/
def State.attached (s : State) : Option Nat :=
  match s.cf.line with
  | none => none
  | some (_, line) => attachFlag line s.cur.hdr.fl

/-- The fragment moves to a slot; a line it leaves is dropped. -/
def Frag.goTo (f : Frag) (pc : CodePtr) : Frag :=
  { f with
    pc := pc
    counted := uncounted
    promoted := false
    ready := none
    refetch := false
    fresh := false
    went := true
    sent := []
    run := none
    line := match f.line with
      | some (a, l) => if a = lineOfPc pc then some (a, l) else none
      | none => none }

/-- The executing slot enters the in-flight records when it attaches to a flag, writes registers or uses tile storage (R49,
R53, R174). -/
def State.track (s : State) (regs : List Reg) (tile : TileUse := ⟨[], []⟩) : State :=
  let flag := s.attached
  if flag.isNone && regs.isEmpty && tile == ⟨[], []⟩ then s
  else s.setG (·.issue ⟨flag, regs, tile, s.tick, none⟩)

/-- Two tile instructions that the scoreboard keeps in issue order (R174). -/
def TileUse.conflicts (later earlier : TileUse) : Bool :=
  later.writes.any (fun u => earlier.reads.contains u || earlier.writes.contains u)
    || later.reads.any (fun u => earlier.writes.contains u)

/-- A tile instruction of the team that issued earlier and has not completed holds another one back (R174, R175). -/
def Team.tileHeld (t : Team) (time : Nat) (use : TileUse) : Bool :=
  t.groups.any (fun g => g.2.inflight.any (fun x => decide (x.2.time < time) && use.conflicts x.2.tile))

/-- The slot holds an instruction that the manual calls blocking whether or not it parks: an implicit safe point (R64). These are
`nap` with n of 1 or more (R96), `mld` and `mst` (R178), `mgath` (R184), `carrive.wait` and `cwait` (R215), the fences (R297),
`wlquiet` (R113) and `halt` (R390); the others are safe points only while they park. -/
def blockingSlot (w : BitVec 96) : Bool :=
  let op := (w.extractLsb' 88 8).toNat
  let fn := (w.extractLsb' 76 5).toNat
  let sub := (w.extractLsb' 72 4).toNat
  op == 0x61 || op == 0x62 || op == 0x67 || op == 0x99 || op == 0xE7 || (op == 0x08 && fn == 0 && w.extractLsb' 0 16 != 0)
    || (op == 0x7B && fn == 1) || (op == 0x7D && fn == 0) || (op == 0xBA && sub == 0)

/-- Where a pending pre-emption stops the group after the executing slot: nowhere, before the live word of an explicit safe point
(R61, R62), or at an implicit one, which saves everything whatever live word follows (R64). -/
def State.stopAfter (s : State) : Option Stop :=
  match s.cf.line with
  | none => none
  | some (_, line) =>
    if blockingSlot (slotBits line (slotOfPc s.cf.pc)) then some .implicit
    else if s.cur.hdr.sp then some (.explicit ((slotBits line (slotOfPc s.cf.pc + 1)).extractLsb' 0 88))
    else none

/-- Pre-emption at a safe point (R61, R64, R392): the group stops after the instruction. -/
def State.stopAtSafePoint (s : State) (stop : Option Stop) : State :=
  match stop, s.ct.request with
  | some w, some _ => s.setG (fun g => if g.stop.isSome || g.frags.isEmpty then g else { g.drain with stop := some w })
  | _, _ => s

/-- A group with nothing left to issue stops at once where pre-emption is requested (R64, R392): every fragment of it is parked. -/
def State.stopBlocked (s : State) (team g : Nat) : State :=
  if (s.teamOf team).request.isSome && (s.groupAt team g).blocked then s.updGroupAt team g Group.halt else s

/-- The slot has issued with its effect: the fragment goes on at a slot, its registers are pending until it completes, and a
pending pre-emption stops the group at a safe point. -/
def State.retireTo (s : State) (pc : CodePtr) (regs : List Reg) : State :=
  ((s.track regs).setF (·.goTo pc)).stopAtSafePoint s.stopAfter

/-- The slot has issued and the fragment continues in sequence. -/
def State.retire (s : State) (regs : List Reg) : State := s.retireTo (nextPc s.cf.pc) regs

/-- The slot has issued and completed at once, so that no flag ever counts it. -/
def State.retireNow (s : State) : State :=
  (s.setF (fun f => f.goTo (nextPc f.pc))).stopAtSafePoint s.stopAfter

/-- The same for a tile instruction. -/
def State.retireTile (s : State) (regs : List Reg) (tile : TileUse) : State :=
  ((s.track regs tile).setF (fun f => f.goTo (nextPc f.pc))).stopAtSafePoint s.stopAfter

/-- The fragment parks in its instruction (R97, R433): it holds no flag increment, registers it writes later stay pending, and replies of
peers that it has had are asked for again when it issues again.
A blocking instruction is an implicit safe point, so that a group whose pre-emption is requested stops there (R64, R392). -/
def State.park (s : State) (p : Park) (later : List Reg := []) : State :=
  let sp := s.cur.hdr.sp
  let s := s.setF (fun f =>
    { f with
      park := some p, later := later, sp := sp, sent := [], promoted := false, ready := none, went := true })
  if s.ct.request.isSome then s.setG Group.halt else s

/-- A parked fragment of any group goes on after its instruction: where that is an explicit safe point, a group whose pre-emption
was requested meanwhile stops before the live word, as at an implicit one (R61, R64). -/
def State.wake (s : State) (r : FragRef) : State :=
  let stops := (s.fragAt r).sp && (s.teamOf r.team).request.isSome
  let s := s.updFragAt r (fun f => { f.goTo (nextPc f.pc) with park := none, later := [], sp := false })
  if stops then s.updGroupAt r.team r.group Group.halt else s

/-- A parked fragment of any group issues its instruction again: the stalls that were counted at its slot stay counted, once for the slot
(R51, R53, R174). -/
def State.again (s : State) (r : FragRef) : State :=
  s.updFragAt r (fun f => { f with park := none, later := [], sp := false })

end Sys2Proof.Machine
end

