-- ==== Sys2Proof/Machine/Slot.lean ====
section
/-!
DEFINITION. Sys2Proof/Machine/Slot.lean: what every slot of a fetch line passes before its effect: the checks of R65 in order,
R121, the allotment of R120, the saturation of R51 and the interlock of R53.
-/

namespace Sys2Proof.Machine

/-- The registers an instruction reads and writes. -/
structure Uses where
  reads : List Reg := []
  writes : List Reg := []

/-- A register beyond the team's allotment (R120), with its number and kind as `tinfo0` holds them. A range that runs past v255 or s255 offends
with a number that bits [7:0] cannot hold, which R120 does not settle: its low eight bits are stored (DESIGN CHOICE, log 54). -/
def Team.beyond (t : Team) : Reg → Option DWord
  | .v n => if n < 8 * t.vblocks then none else some (BitVec.ofNat 64 (n % 256))
  | .s n => if n < t.uregs then none else some (BitVec.ofNat 64 (n % 256 + 256))
  | _ => none

/-- The first register beyond the allotment, destinations before sources. -/
def Team.firstBeyond (t : Team) (u : Uses) : Option DWord := (u.writes ++ u.reads).findSome? t.beyond

/-- Consecutive registers. -/
def vregs (n cnt : Nat) : List Reg := (List.range cnt).map (fun i => .v (n + i))

def uregs (n cnt : Nat) : List Reg := (List.range cnt).map (fun i => .s (n + i))

/-- The predicate a header reads (R57). -/
def predUse (h : Hdr) : List Reg := if h.pr == 7 then [] else [.p h.pr.toNat]

/-- A register whose write is pending holds the slot (R53). -/
def Group.interlocked (g : Group) (h : Hdr) (u : Uses) : Bool :=
  let p := g.pendingRegs
  (predUse h ++ u.reads ++ u.writes).any (fun r => p.contains r)

/-- A shape slot that the slot reads is being loaded, by any group of the team (R229). -/
def Team.shapeHeld (t : Team) (u : Uses) : Bool :=
  u.reads.any (fun r =>
    match r with
    | .ts _ => t.groups.any (fun g => g.2.pendingRegs.contains r)
    | _ => false)

/-- The safe point of a slot is not followed by a live word in its line (R61). -/
def State.badSafePoint (s : State) : Bool :=
  s.cur.hdr.sp &&
    (slotOfPc s.cf.pc == 4 ||
      match s.cf.line with
      | none => true
      | some (_, line) => (slotBits line (slotOfPc s.cf.pc + 1)).extractLsb' 88 8 != 0xFF#8)

/-- A move of a special register that the mode does not reach (R59, R389). -/
def State.levelBad (s : State) (i : Instr) : Bool :=
  let bad (f : FmtS) : Bool := (decide (0x400 ≤ f.sreg.toNat) && !s.cg.sys) || (decide (0x800 ≤ f.sreg.toNat) && !s.cc.owner)
  match i with
  | .mfsp f | .mtsp f | .mfsv f | .mtsv f => bad f
  | _ => false

/-- The first failing check of R65 and R121, in order. R65 does not place three checks, and the model does (DESIGN CHOICE, log 51): a
special register beyond the mode's reach takes 0x006 with row 2, before every 0x002 (R59, R389); a misaligned register range of `cvtpk` or
`cvtun` takes 0x002 with row 3, before 0x010 and 0x005 (R167); and a uniform half operand b with nonzero high bits takes 0x002 after the
allotment check, when its register is read (R167, `execFcmp` and the instructions beside it). -/
def State.slotCause (s : State) (i : Instr) : Option (BitVec 9) :=
  let l := i.legal s.cur.hdr s.cur.body
  if i.supervisor && !s.cg.sys || s.levelBad i then some 0x006
  else if l.reserved || s.attached == some 15 then some 0x002
  else if l.badType then some 0x010
  else if s.badSafePoint then some 0x005
  else if l.oddReg then some 0x002
  else none

/-- A field of `ilkcnt` counts one more and wraps (R54). -/
def Group.countStall (g : Group) (hi lo : Nat) : Group :=
  { g with ilkcnt := setField g.ilkcnt hi lo (field g.ilkcnt hi lo + 1) }

/-- A slot stalled by its full flag (R51): nothing issues, and `satcnt` counts the stall once. -/
def State.stallFull (s : State) : State :=
  if s.cf.counted.full then s
  else (s.setG (·.countStall 63 32)).setF (fun f => { f with counted := { f.counted with full := true } })

/-- A slot held by a pending register (R53): nothing issues, and `icnt` counts the hold once. -/
def State.stallPending (s : State) : State :=
  if s.cf.counted.pending then s
  else (s.setG (·.countStall 31 0)).setF (fun f => { f with counted := { f.counted with pending := true } })

/-- Whether the flag that the slot attaches to holds 63 (R51). -/
def State.flagFull (s : State) : Bool :=
  match s.attached with
  | none => false
  | some k => s.cg.flag k == 63

/-- A slot: its checks, its stalls, then its effect. -/
def State.slot (s : State) (i : Instr) (u : Uses) (effect : State → State) : State :=
  match s.slotCause i with
  | some c => s.raise c
  | none =>
    match s.ct.firstBeyond u with
    | some n => s.raise 0x00D none n
    | none =>
      if s.flagFull then s.stallFull
      else if s.cg.interlocked s.cur.hdr u || s.ct.shapeHeld u then s.stallPending
      else effect s

/-- An instruction marked *any* (R93): where it does not act, the fragment continues in sequence. -/
def State.whenActs (s : State) (effect : State → State) : State := if s.actsAny then effect s else s.retire []

end Sys2Proof.Machine
end

