-- ==== Sys2Proof/Machine/Operands.lean ====
section
/-!
DEFINITION. Sys2Proof/Machine/Operands.lean: the operand forms: format A's sources (R59, R122), and accesses through buffer
records, from lanes to lines (R263 to R268).
-/

namespace Sys2Proof.Machine

/-! ## Format A sources (R59) -/

/-- The b operand of a lane as `w` bits: a vector register or pair, a uniform register, or the immediate, which is
sign-extended where the type is signed or 64 bits wide as the caller says. -/
def Group.srcB (g : Group) (f : FmtA) (l : Nat) (wide signed : Bool) : DWord :=
  match f.bsel.toNat with
  | 0 => if wide then g.vpair f.b.toNat l else (g.vreg f.b.toNat l).setWidth 64
  | 1 => g.ureg f.b.toNat
  | _ => if signed then f.imm.signExtend 64 else f.imm.setWidth 64

/-- The register that the b operand reads. -/
def useB (f : FmtA) (wide : Bool) : List Reg :=
  match f.bsel.toNat with
  | 0 => vregs f.b.toNat (if wide then 2 else 1)
  | 1 => [.s f.b.toNat]
  | _ => []

/-! ## Buffer records (R262 to R264) -/

inductive BMode where
  | raw | structured | interleave
deriving DecidableEq, Repr

/-- A buffer record's fields (R263). -/
structure BRec where
  base : Nat
  extent : Nat
  stride : Nat
  hwm : Nat
  esize : Nat
  swz : Nat
  mode : BMode
  oob : Bool
  coh : Nat
  /-- an access that takes 0x040 beyond the bounds whatever the record's mode and policy (R229, R250, R272) -/
  strict : Bool
  /-- an access whose index is a byte offset also in a structured record, and that belongs to no lane of an interleave record -/
  flat : Bool
deriving DecidableEq, Repr

/-- The record that 32 bytes hold. -/
def BRec.of (x : BitVec 256) : BRec where
  base := (x.extractLsb' 0 57).toNat
  extent := (x.extractLsb' 96 32).toNat
  stride := (x.extractLsb' 64 32).toNat
  hwm := (x.extractLsb' 160 32).toNat
  esize := (x.extractLsb' 128 16).toNat
  swz := (x.extractLsb' 204 4).toNat
  mode := match (x.extractLsb' 202 2).toNat with | 1 => .structured | 2 => .interleave | _ => .raw
  oob := x.getLsbD 201
  coh := (x.extractLsb' 198 2).toNat
  strict := false
  flat := false

/-- A record as `ldbf` reads through it. -/
def BRec.asStrict (r : BRec) : BRec := { r with oob := false, strict := true }

/-- A record as `tsload` and `pdload` read at a byte offset of it (R229, R250). In a structured record the offset lies in element
offset div stride, in an interleave record it is one of the group's lane 0 (DESIGN CHOICE, log 42). -/
def BRec.asBytes (r : BRec) : BRec := { r with oob := false, strict := true, flat := true }

/-- A record that `ldbf` and `mkbf` refuse (R264). -/
def recordBad (x : BitVec 256) : Bool :=
  let r := BRec.of x
  let modeBits := (x.extractLsb' 202 2).toNat
  (x.extractLsb' 57 7 != 0) || (x.extractLsb' 144 16 != 0) || (x.extractLsb' 208 48 != 0) || x.getLsbD 200
  || (x.extractLsb' 192 6 != 0) || modeBits == 3 || r.coh == 3 || decide (3 < r.swz)
  || (match r.mode with
      | .raw => r.stride != 0 || r.hwm != 0 || r.esize != 0
      | .structured => r.hwm != 0 || r.stride == 0 || r.esize == 0
      | .interleave =>
        r.stride != 0 || r.esize != 0 || r.swz != 0 || r.oob || decide (r.extent < r.hwm) || r.extent % 4 != 0
        || r.hwm % 4 != 0 || r.base % 256 != 0)
  || (r.swz != 0 && r.base % 128 != 0)

/-- The record of a slot. -/
def Team.record (t : Team) (k : Nat) : BRec := BRec.of (Map.get 0 t.bf k)

/-! ## From lanes to bytes (R265) -/

/-- One access of an instruction: the participating lane it belongs to and its index. -/
structure LaneIx where
  lane : Nat
  idx : Nat
deriving DecidableEq, Repr

/-- What an access asks: alignment, byte count, and whether it reads, writes or both. -/
structure Ask where
  align : Nat
  n : Nat
  kind : Kind
  /-- one access for the whole fragment: failures name no lane of their own -/
  uniform : Bool
deriving DecidableEq, Repr

/-- The group number within the team's half (R265). -/
def groupInHalf (t : Team) (g : Nat) : Nat := if t.half = 1 then g - (t.groupCount + 1) / 2 else g

/-- The swizzle of R265: chunk bits [6:4] of an offset are exchanged with the row bits. -/
def swizzle (swz q : Nat) : Nat :=
  if swz = 0 then q else q / 128 * 128 + (Nat.xor (q / 16 % 8) (q / 128 % 8 % 2 ^ swz)) * 16 + q % 16

/-- The element of an access through a structured record. -/
def BRec.elem (r : BRec) (i : LaneIx) : Nat := if r.flat then i.idx / r.stride else i.idx

/-- The lane of an access through an interleave record. -/
def BRec.laneOf (r : BRec) (i : LaneIx) : Nat := if r.flat then 0 else i.lane

/-- The relative offset `o` of an access: signed in raw and structured mode, `t` in interleave mode. -/
def laneOffset (r : BRec) (off : BitVec 32) (i : LaneIx) : Int :=
  match r.mode with
  | .structured => if r.flat then (i.idx % r.stride : Nat) + off.toInt else off.toInt
  | _ => i.idx + off.toInt

/-- The address of byte j of an access. -/
def byteAddr (t : Team) (r : BRec) (group : Nat) (off : BitVec 32) (i : LaneIx) (j : Nat) : Int :=
  match r.mode with
  | .raw => rel (laneOffset r off i + j)
  | .structured => rel ((r.elem i * r.stride : Nat) + laneOffset r off i + j)
  | .interleave =>
    let q := laneOffset r off i + j
    let g := groupInHalf t group
    r.base + g * r.extent * t.width + (q / 4 * t.width + r.laneOf i) * 4 + q % 4
where
  /-- an offset from the base, swizzled where it is not negative -/
  rel (q : Int) : Int := if q < 0 then r.base + q else r.base + swizzle r.swz q.toNat

/-- The first byte address before any swizzle, which alignment is judged by (R266 step 2). -/
def alignAddr (r : BRec) (off : BitVec 32) (i : LaneIx) : Int :=
  match r.mode with
  | .raw => r.base + laneOffset r off i
  | .structured => r.base + (r.elem i * r.stride : Nat) + laneOffset r off i
  | .interleave => laneOffset r off i

/-- What the bounds test says of an access (R265, R282): where it fails, with the failing offset o, e or t. -/
inductive Bound where
  | inside
  | dropped
  | fault (c : BitVec 9) (info : Int)
deriving DecidableEq, Repr

/-- The bounds test. In structured mode the failing index is the element where it is out of range, else the offset. -/
def bound (r : BRec) (off : BitVec 32) (n : Nat) (i : LaneIx) : Bound :=
  let o := laneOffset r off i
  match r.mode with
  | .raw =>
    if 0 ≤ o ∧ o + n ≤ r.extent then .inside else if r.oob then .dropped else .fault 0x040 o
  | .structured =>
    if r.elem i < r.extent ∧ 0 ≤ o ∧ o + n ≤ r.esize then .inside
    else if r.oob then .dropped
    else .fault 0x040 (if r.elem i < r.extent then o else r.elem i)
  | .interleave =>
    if o < 0 ∨ r.extent < o + n then .fault (if r.strict then 0x040 else 0x04B) o
    else if r.hwm < o + n then .fault (if r.strict then 0x040 else 0x04A) o
    else .inside

/-- The least and the greatest of a list of integers. -/
def minInt (l : List Int) : Int := l.foldl (fun a x => if x < a then x else a) (l.headD 0)

def maxInt (l : List Int) : Int := l.foldl (fun a x => if a < x then x else a) (l.headD 0)

/-- A failing mask: the lanes, or none where the access belongs to the fragment. -/
def failMask (a : Ask) (l : List Nat) : Option Mask := if a.uniform then none else some (maskOf l)

/-- One line request: its virtual line, where it lies, and for each lane the bytes it takes there: byte number of the access
and offset in the line. -/
structure LineReq where
  va : Nat
  place : Place
  bytes : List (Nat × Nat × Nat)
deriving DecidableEq, Repr

/-- Accesses that passed the checks: lanes dropped by their record, and line requests in ascending line address (R268). -/
structure Resolved where
  dropped : List Nat
  live : List LaneIx
  lines : List LineReq
deriving DecidableEq, Repr

/-- Distinct numbers in ascending order. -/
def sortedInsert (x : Nat) : List Nat → List Nat
  | [] => [x]
  | y :: l => if x < y then x :: y :: l else if x = y then y :: l else y :: sortedInsert x l

def sortNats (l : List Nat) : List Nat := l.foldr sortedInsert []

/-- Step 3 of R266: every lane that fails is in `tmask`. Some 0x04B among the causes of an interleave record goes before 0x04A;
`tinfo0` is the lowest failing offset, and for 0x04A the largest t + n (R282). -/
def boundsStop (slot : Nat) (a : Ask) (bs : List (LaneIx × Bound)) : Option MStop :=
  let bad := bs.filterMap (fun p => match p.2 with | .fault c x => some (p.1.lane, c, x) | _ => none)
  let mask := failMask a (bad.map (·.1))
  let low := BitVec.ofInt 64 (minInt (bad.map (·.2.2)))
  match bad with
  | [] => none
  | b :: _ =>
    if bad.any (fun b => b.2.1 == 0x04B) then some (.trap 0x04B mask low 0 0)
    else if b.2.1 = 0x04A then
      some (.trap 0x04A mask (BitVec.ofInt 64 (maxInt (bad.map (fun b => b.2.2 + a.n)))) 0 (BitVec.ofNat 64 slot))
    else some (.trap b.2.1 mask low 0 0)

/-- Alignment, bounds and address width (R266 steps 2 to 4): the lanes that stay, and the lanes dropped. -/
def checkLanes (t : Team) (r : BRec) (group : Nat) (off : BitVec 32) (slot : Nat) (a : Ask) (ls : List LaneIx) :
    Except MStop (List LaneIx × List Nat) :=
  let k : Int := a.align
  let mis := ls.filter (fun i => alignAddr r off i % k != 0)
  if !mis.isEmpty then
    .error (.trap 0x041 (failMask a (mis.map (·.lane))) (BitVec.ofInt 64 (minInt (mis.map (fun i => byteAddr t r group off i 0)))) 0 0)
  else
    let bs := ls.map (fun i => (i, bound r off a.n i))
    match boundsStop slot a bs with
    | some e => .error e
    | none =>
      let dropped := bs.filterMap (fun p => if p.2 == .dropped then some p.1.lane else none)
      let live := bs.filterMap (fun p => if p.2 == .inside then some p.1 else none)
      let high := live.filterMap (fun i =>
        let xs := ((List.range a.n).map (fun j => byteAddr t r group off i j)).filter (fun x => decide (2 ^ 57 ≤ x))
        if xs.isEmpty then none else some (i.lane, minInt xs))
      if !high.isEmpty then
        .error (.trap 0x04E (failMask a (high.map (·.1))) (BitVec.ofInt 64 (minInt (high.map (·.2)))) 0 0)
      else .ok (live, dropped)

/-- The bytes that every lane takes, as lane, byte number and address. -/
def allBytes (t : Team) (r : BRec) (group : Nat) (off : BitVec 32) (n : Nat) (ls : List LaneIx) : List (Nat × Nat × Nat) :=
  (ls.map (fun i => (List.range n).map (fun j => (i.lane, j, (byteAddr t r group off i j).toNat)))).flatten

/-- The line requests (R267): every line that some byte lies in, in ascending address. -/
def coalesce (bytes : List (Nat × Nat × Nat)) : List (Nat × List (Nat × Nat × Nat)) :=
  (sortNats (bytes.map (fun b => alignDown 64 b.2.2))).map (fun va =>
    (va, (bytes.filter (fun b => alignDown 64 b.2.2 == va)).map (fun b => (b.1, b.2.1, b.2.2 % 64))))

/-- The lanes of a line request. -/
def reqLanes (b : List (Nat × Nat × Nat)) : List Nat := b.map (·.1)

/-- The failure of a translation, if it failed. -/
def stopOf : Except MStop Place → Option MStop
  | .error e => some e
  | .ok _ => none

/-- Translation of every line (R267): the cause is that of the lowest failing line, with every lane touching a line that fails
with it. -/
def translateLines (s : State) (ctx : Nat) (user : Bool) (slot : Nat) (a : Ask)
    (ls : List (Nat × List (Nat × Nat × Nat))) : Except MStop (List LineReq) :=
  let rs : List ((Nat × List (Nat × Nat × Nat)) × Except MStop Place) :=
    ls.map (fun p => (p, s.translate ctx user a.kind p.1))
  match (rs.findSome? (fun p => stopOf p.2) : Option MStop) with
  | none =>
    .ok (rs.filterMap (fun p => match p.2 with | .ok pl => some ⟨p.1.1, pl, p.1.2⟩ | .error _ => none))
  | some .wait => .error .wait
  | some (.trap c _ i0 i1 i2) =>
    let lanes := (rs.map (fun p => match p.2 with
      | .error (.trap d _ _ _ _) => if d = c then reqLanes p.1.2 else []
      | _ => [])).flatten
    .error (.trap c (failMask a lanes) i0 i1 (if c = 0x048 then BitVec.ofNat 64 slot else i2))

/-- Every byte of a line is written by a request. -/
def coversLine (b : List (Nat × Nat × Nat)) : Bool := (List.range 64).all (fun o => b.any (fun x => x.2.2 == o))

/-- What step 6 of R266 says of one line request: an access that only its copy in a non-coherent window serves does not reach
the controller. -/
def reqReach (s : State) (core : Nat) (write : Bool) (r : LineReq) : Reach :=
  match r.place with
  | .loc m => s.reach m (write && coversLine r.bytes)
  | .nc m => if (s.ncCopy core m).isSome then .ok else s.reach m false
  | .rem _ _ => .ok

/-- The machine line of a place. -/
def Place.line : Place → Nat
  | .loc m | .nc m | .rem _ m => m

/-- The lowest byte address of a line request. -/
def LineReq.low (r : LineReq) : Nat :=
  match sortNats (r.bytes.map (·.2.2)) with
  | o :: _ => r.va + o
  | [] => r.va

/-- Step 6 of R266: the first failing line decides the cause, and every lane that fails the step is in `tmask`. `tinfo0` is the lowest
failing byte address, and for 0x050 the machine line (R325). -/
def stepSix (a : Ask) (rs : List (LineReq × Reach)) : Option MStop :=
  match rs.find? (fun p => p.2 != .ok) with
  | none => none
  | some (r, e) =>
    match e.cause with
    | none => some .wait
    | some c =>
      let lanes := (rs.map (fun p => if p.2.cause.isSome then reqLanes p.1.bytes else [])).flatten
      some (.trap c (failMask a lanes) (BitVec.ofNat 64 (if c = 0x050 then r.place.line else r.low)) 0 0)

/-- Step 6 of R266 over every line. -/
def checkReach (s : State) (core : Nat) (write : Bool) (a : Ask) (ls : List LineReq) : Except MStop (List LineReq) :=
  match stepSix a (ls.map (fun r => (r, reqReach s core write r))) with
  | none => .ok ls
  | some e => .error e

/-! ## Remote pages (R360, R370, R371) -/

/-- The same for the executing group. -/
def State.viewStop (s : State) : Option MStop := s.viewStopOf s.cg

/-- A cause where some line fails a test. Neither R309 nor R360 sets a mask or an information word (R386). -/
def linesStop (c : BitVec 9) (ls : List LineReq) (bad : Place → Bool) : Option MStop :=
  if ls.any (fun r => bad r.place) then some (.trap c none 0 0 0) else none

def Place.remote : Place → Bool
  | .rem _ _ => true
  | _ => false

def Place.inNc : Place → Bool
  | .nc _ => true
  | _ => false

/-- What an instruction asks of the places of its lines, beyond translation. -/
inductive Touch where
  /-- loads and stores: remote pages under R360 -/
  | plain
  /-- atomics: no non-coherent window (R309) -/
  | atomic
  /-- version operations: no window and no remote page (R309) -/
  | version
  /-- `vstc`: no remote page (R309, R313) -/
  | buffered
deriving DecidableEq, Repr

/-- The checks of R360 and R309 on translated lines. -/
def State.placeStop (s : State) (k : Touch) (ls : List LineReq) : Option MStop :=
  let bad (p : Place) : Bool :=
    match k with | .plain => false | .atomic => p.inNc | .version => p.inNc || p.remote | .buffered => p.remote
  match linesStop 0x060 ls bad with
  | some e => some e
  | none =>
    if ls.any (fun r => r.place.remote) then
      match s.viewStop with
      | some e => some e
      | none =>
        linesStop 0x1C4 ls (fun p => match p with | .rem q _ => s.peerBad q | _ => false)
    else none

/-- The whole address path of an instruction up to its effect (R266), through a record that a slot holds; `memory` says that it
reaches the controllers. -/
def State.resolveRec (s : State) (r : BRec) (slot : Nat) (off : BitVec 32) (a : Ask) (k : Touch) (memory : Bool)
    (ls : List LaneIx) : Except MStop Resolved :=
  let t := s.ct
  match checkLanes t r s.cur.ref.group off slot a ls with
  | .error e => .error e
  | .ok (live, dropped) =>
    match translateLines s t.ctx (!s.cg.sys) slot a (coalesce (allBytes t r s.cur.ref.group off a.n live)) with
    | .error e => .error e
    | .ok reqs =>
      match s.placeStop k reqs with
      | some e => .error e
      | none =>
        if memory then
          match checkReach s t.core (a.kind == .write) a reqs with
          | .error e => .error e
          | .ok reqs => .ok ⟨dropped, live, reqs⟩
        else .ok ⟨dropped, live, reqs⟩

/-- The address path of a format M instruction. -/
def State.resolve (s : State) (f : FmtM) (a : Ask) (k : Touch) (memory : Bool) (ls : List LaneIx) : Except MStop Resolved :=
  s.resolveRec (s.ct.record f.bf.toNat) f.bf.toNat f.off a k memory ls

/-! ## Requests to peers (R362) -/

/-- A request of the executing slot. -/
def State.sendReq (s : State) (posted : Bool) (copy : Option Nat) (peer va line : Nat) (kind : RemoteKind)
    (take : List (Nat × Nat × Nat)) (reply : Option RemoteReply) : Nat × State :=
  s.sendReqFor s.cur.ref s.cf.pc posted copy peer va line kind take reply

/-- Requests are dropped. -/
def State.forget (s : State) (ids : List Nat) : State := { s with reqs := ids.foldl (fun m i => Map.erase m i) s.reqs }

/-- The executing slot has what it waited for: its requests are dropped, and should it be held or park before it takes effect, it sends them
again when it issues again. -/
def State.answered (s : State) (ids : List Nat) : State := (s.forget ids).setF (fun f => { f with sent := [] })

/-- A cause that replies report is taken (R362), unless its entry waits, which leaves the slot as it is. -/
def State.raiseReplies (s : State) (ids : List Nat) (c : BitVec 9) (mask : Option Mask) (i0 : DWord) : State :=
  let t := s.raise c mask i0
  if t.cf.sent == ids && t.ct.ending.isNone then t else t.answered ids

/-- The bytes a replied request gives its lanes. -/
def Req.bytes (r : Req) : List (Nat × Nat × Byte) :=
  match r.reply with
  | some (.data bs) => r.take.map (fun t => (t.1, t.2.1, bs.getD t.2.2 0))
  | _ => []

/-- The lowest byte address that a request asks for. -/
def Req.low (r : Req) : Nat :=
  match r.kind, sortNats (r.take.map (·.2.2)) with
  | .atomic _ _ off _ _, _ => r.va + off
  | _, o :: _ => r.va + o
  | _, [] => r.va

/-- The cause that some replies report precisely (R362): that of the lowest refused byte address, with the lanes of every refused
request; `tinfo0` is that address, and the machine line for 0x050 (R325, R266). A stale reply names no address (R386). -/
def refusedReplies (uniform : Bool) (rs : List Req) : Option (BitVec 9 × Option Mask × DWord) :=
  let bad := rs.filterMap (fun r => (r.reply.bind RemoteReply.cause).map (fun c => (r, c)))
  match sortNats (bad.map (fun p => p.1.low)) with
  | [] => none
  | low :: _ =>
    match bad.find? (fun p => p.1.low == low) with
    | none => none
    | some (r, c) =>
      if c = 0x1C1 then some (c, none, 0)
      else
        let lanes := (bad.map (fun p => p.1.take.map (·.1))).flatten
        some (c, if uniform then none else some (maskOf lanes), BitVec.ofNat 64 (if c = 0x050 then r.line else low))

/-- An instruction that needs replies of peers: `start` at its first turn, which may send requests and leave the slot in place;
then it waits for every reply; a refusal is taken precisely with no register written, and `finish` has the bytes. -/
def State.withReplies (s : State) (uniform : Bool) (start : State → State) (finish : List (Nat × Nat × Byte) → State → State) : State :=
  match s.cf.sent with
  | [] => start s
  | ids =>
    let rs := ids.filterMap (fun i => Map.find s.reqs i)
    if rs.any (fun r => r.reply.isNone) then s
    else
      match refusedReplies uniform rs with
      | some (c, mask, i0) => s.raiseReplies ids c mask i0
      | none => finish ((rs.map Req.bytes).flatten) (s.answered ids)

/-! ## Format M operands (R59, R265) -/

/-- The index registers that a format M instruction reads. -/
def useX (f : FmtM) : List Reg :=
  match f.ix.toNat with
  | 0 => [.v f.x.toNat]
  | 1 => [.s f.x.toNat]
  | _ => []

/-- The index of a lane. -/
def indexM (f : FmtM) (g : Group) (l : Nat) : Nat :=
  match f.ix.toNat with
  | 0 => (g.vreg f.x.toNat l).toNat
  | 1 => (g.ureg f.x.toNat).toNat
  | _ => 0

/-- The accesses of the participating lanes. -/
def State.laneIxs (s : State) (f : FmtM) : List LaneIx := s.lanes.map (fun l => ⟨l, indexM f s.cg l⟩)

/-- The one access of a uniform form. -/
def State.oneIx (s : State) (f : FmtM) : List LaneIx := [⟨0, indexM f s.cg 0⟩]

/-! ## Reading and writing line requests -/

/-- A line request is read: bytes, with the copy of a non-coherent window filled where it is absent (R284), and none for a
line of a peer. -/
def State.readReq (s : State) (r : LineReq) : Option (List Byte) × State :=
  let ctx := s.ct.ctx
  let core := s.ct.core
  match r.place with
  | .loc m => let x := (s.cache ctx r.va).readLine m (some core); (some x.1, x.2)
  | .nc m =>
    match s.ncCopy core m with
    | some c => (some c.bytes, s)
    | none =>
      let x := (s.cache ctx r.va).readLine m
      (some x.1, x.2.setNc core m ⟨ctx, r.va, x.1, 0⟩)
  | .rem _ _ => (none, s)

/-- Line requests read in ascending order: the bytes of each lane that are known. -/
def State.readReqs (s : State) : List LineReq → List (Nat × Nat × Byte) × State
  | [] => ([], s)
  | r :: rs =>
    let x := s.readReq r
    let rest := x.2.readReqs rs
    match x.1 with
    | none => rest
    | some bs => (r.bytes.map (fun b => (b.1, b.2.1, bs.getD b.2.2 0)) ++ rest.1, rest.2)

/-- The bytes of one lane's access in order. -/
def laneBytes (n : Nat) (xs : List (Nat × Nat × Byte)) (lane : Nat) : List (Option Byte) :=
  (List.range n).map (fun j => (xs.find? (fun x => x.1 == lane && x.2.1 == j)).map (·.2.2))

/-- The bytes a line request stores, a higher lane's byte over a lower lane's (R268), as offset and byte. -/
def reqStores (r : LineReq) (data : Nat → Nat → Byte) : List (Nat × Byte) :=
  r.bytes.map (fun b => (b.2.2, data b.1 b.2.1))

/-- A store of one local line request by the core (R268, R284). -/
def State.storeReq (s : State) (r : LineReq) (data : Nat → Nat → Byte) : State :=
  let ctx := s.ct.ctx
  let core := s.ct.core
  match r.place with
  | .loc m => (s.cache ctx r.va).ownedWrite core m 0 (reqStores r data)
  | .nc m =>
    let x : NcLine × State :=
      match s.ncCopy core m with
      | some c => (c, s)
      | none => let x := (s.cache ctx r.va).readLine m; (⟨ctx, r.va, x.1, 0⟩, x.2)
    let c := (reqStores r data).foldl
      (fun c p => { c with bytes := c.bytes.set p.1 p.2, mask := c.mask ||| BitVec.ofNat 64 (2 ^ p.1) }) x.1
    x.2.setNc core m c
  | .rem _ _ => s

def State.storeReqs (s : State) (rs : List LineReq) (data : Nat → Nat → Byte) : State :=
  rs.foldl (fun s r => s.storeReq r data) s

end Sys2Proof.Machine
end

