-- ==== Sys2Proof/Machine/Lists.lean ====
section
/-!
DEFINITION. Sys2Proof/Machine/Lists.lean: what agents other than a fragment do at the homes (the scheduler, engines and the
adapter), and launch lists with their records (R104, R105).
-/

namespace Sys2Proof.Machine

/-! ## Accesses of agents at the home -/

/-- What step 6 of R266 says of one local line, for an access that writes all of it or not. -/
def State.reachStop (s : State) (va m : Nat) (whole : Bool) (who : List Nat := []) : Option MStop :=
  match s.reach m whole who with
  | .ok => none
  | .wait => some .wait
  | e =>
    let c := e.cause.getD 0
    some (.trap c none (BitVec.ofNat 64 (if c = 0x050 then m else va)) 0 0)

/-- The parts of a byte range that lie in one line each: line address, offset in it, and count. -/
def linePieces (va n : Nat) : List (Nat × Nat × Nat) :=
  (List.range ((va % 64 + n + 63) / 64)).map (fun i =>
    let line := alignDown 64 va + 64 * i
    let lo := Nat.max va line
    (line, lo - line, min (va + n) (line + 64) - lo))

/-- The machine line of a virtual line for an agent that works at the home: local memory, inside a window or not (R284). A
page of a peer has no home here. -/
def State.homeLine (s : State) (ctx : Nat) (user : Bool) (kind : Kind) (va : Nat) : Except MStop Nat :=
  match s.translate ctx user kind va with
  | .error e => .error e
  | .ok (.loc m) | .ok (.nc m) => .ok m
  | .ok (.rem _ _) => .error (.trap 0x060 none (BitVec.ofNat 64 va) 0 0)

/-- The pieces of a range read at the home in ascending order. -/
def State.readPieces (s : State) (ctx : Nat) (user : Bool) : List (Nat × Nat × Nat) → Except MStop (List Byte × State)
  | [] => .ok ([], s)
  | (line, off, n) :: rest =>
    match s.homeLine ctx user .read line with
    | .error e => .error e
    | .ok m =>
      match s.reachStop line m false with
      | some e => .error e
      | none =>
        let x := (s.cache ctx line).readLine m
        match x.2.readPieces ctx user rest with
        | .error e => .error e
        | .ok y => .ok ((x.1.drop off).take n ++ y.1, y.2)

/-- Bytes of a context's memory as an agent reads them. -/
def State.agentRead (s : State) (ctx : Nat) (user : Bool) (va n : Nat) : Except MStop (List Byte × State) :=
  s.readPieces ctx user (linePieces va n)

/-- A write of at most one line by an agent, performed at the home. -/
def State.agentWrite (s : State) (ctx : Nat) (user : Bool) (va : Nat) (bytes : List Byte) : Except MStop State :=
  let line := alignDown 64 va
  match s.homeLine ctx user .write line with
  | .error e => .error e
  | .ok m =>
    match s.reachStop line m (bytes.length == 64) with
    | some e => .error e
    | none => .ok ((s.cache ctx line).homeWrite m (va % 64) (bytes.zipIdx.map (fun p => (p.2, p.1))))

/-- Writes of several lines, each of which is possible before the first is made. -/
def State.agentWrites (s : State) (ctx : Nat) (user : Bool) : List (Nat × List Byte) → Except MStop State
  | [] => .ok s
  | (va, bs) :: rest =>
    match s.agentWrite ctx user va bs with
    | .error e => .error e
    | .ok s' => s'.agentWrites ctx user rest

/-- Bytes cut into their lines. -/
def lineWrites (va : Nat) (bytes : List Byte) : List (Nat × List Byte) :=
  (linePieces va bytes.length).map (fun p => (p.1 + p.2.1, (bytes.drop (p.1 + p.2.1 - va)).take p.2.2))

/-! ## Launch records (R105) -/

/-- The record that 256 bytes hold. -/
def LaunchRec.of (b : List Byte) : LaunchRec :=
  let q (o : Nat) : Nat := natOfBytes ((b.drop o).take 8)
  let w (o : Nat) : Nat := natOfBytes ((b.drop o).take 4)
  { entry := BitVec.ofNat 64 (q 0)
    args := BitVec.ofNat 64 (q 8)
    teams := w 0x10
    csize := bits (w 0x14) 19 15
    pair := bit (w 0x14) 14
    width := 16 * 2 ^ bits (w 0x14) 13 12
    lanes := bits (w 0x14) 11 0
    scratch := bits (w 0x18) 24 21
    tiles := bits (w 0x18) 20 13
    uregs := bits (w 0x18) 12 6
    vregs := bits (w 0x18) 5 0
    dies := bits (w 0x1C) 24 21
    frag := bits (w 0x1C) 20 13
    slots := bits (w 0x1C) 12 7
    copyq := bits (w 0x1C) 6 0
    gate := q 0x20
    gval := q 0x28
    done := q 0x30
    ranges := (List.range (bits (w 0x38) 3 0)).map (fun j => (q (0x40 + 16 * j), q (0x48 + 16 * j))) }

/-- The groups of a team. -/
def LaunchRec.groups (r : LaunchRec) : Nat := (r.lanes + r.width - 1) / r.width

/-- The fields of a record that 256 bytes hold break the limits of R105: reserved bits, limits, and the entry's layout (R87). Of the range
entries only those below nrange are looked at (DESIGN CHOICE, log 33). -/
def recordBreaks (b : List Byte) : Bool :=
  let q (o : Nat) : Nat := natOfBytes ((b.drop o).take 8)
  let w (o : Nat) : Nat := natOfBytes ((b.drop o).take 4)
  let r := LaunchRec.of b
  !pcOk (BitVec.ofNat 64 (q 0))
  || r.teams == 0
  || bits (w 0x14) 31 20 != 0 || r.csize == 0 || decide (16 < r.csize) || bits (w 0x14) 13 12 == 3
  || r.lanes == 0 || decide ((if r.pair then 2048 else 1024) < r.lanes)
  || bits (w 0x18) 31 25 != 0 || decide (10 < r.scratch) || decide (128 < r.tiles)
  || r.uregs == 0 || decide (64 < r.uregs) || r.vregs == 0 || decide (32 < r.vregs)
  || bits (w 0x1C) 31 25 != 0 || decide (r.frag < r.groups) || decide (128 < r.frag)
  || decide (32 < r.slots) || decide (64 < r.copyq)
  || bits (q 0x38) 63 4 != 0 || decide (8 < bits (w 0x38) 3 0)
  || r.ranges.any (fun x => bits x.2 63 50 != 0)
  || ((b.drop 0xC0).take 0x38).any (· != 0)

/-! ## Launch lists (R104) -/

/-- A launch list's header. -/
structure ListHead where
  base : Nat
  head : Nat
  tail : Nat
  z : Nat
deriving DecidableEq, Repr

/-- The address of slot i. -/
def ListHead.slotAt (h : ListHead) (i : Nat) : Nat := h.base + 64 + 256 * (i % 2 ^ h.z)

/-- A list's header as the scheduler or `spawn` reads it; none where the list is unused. -/
def State.listHead (s : State) (ctx : Nat) (user : Bool) (n : Nat) : Except MStop (Option ListHead × State) :=
  let c := s.ctxOf ctx
  let base := field (c.sreg (0x400 + n)) 56 6 * 64
  if c.unused.contains n then .ok (none, s)
  else
    match s.agentRead ctx user base 24 with
    | .error e => .error e
    | .ok (b, s) =>
      let z := natOfBytes ((b.drop 16).take 1)
      .ok (if z < 4 ∨ 16 < z then none
        else some ⟨base, natOfBytes (b.take 8), natOfBytes ((b.drop 8).take 8), z⟩, s)

/-- The record in slot i of a list, if it is published. -/
def State.recordAt (s : State) (ctx : Nat) (h : ListHead) (i : Nat) : Except MStop (Option (List Byte) × State) :=
  match s.agentRead ctx false (h.slotAt i) 256 with
  | .error e => .error e
  | .ok (b, s) => .ok (if natOfBytes ((b.drop 0xF8).take 8) = (i + 1) % 2 ^ 64 then some b else none, s)

end Sys2Proof.Machine
end

