-- ==== Sys2Proof/Machine/Capacity.lean ====
section
/-!
DEFINITION. Sys2Proof/Machine/Capacity.lean: the ballooning engine (R318 to R324) and the capacity commands (R327).
-/

namespace Sys2Proof.Machine

/-- The context's launches that have teams on the cores. -/
def State.runningLaunches (s : State) : List Launch :=
  (s.launches.filter (fun l => s.teams.any (fun t => t.2.launch == l.1))).map (·.2)

/-- A frame is moved through an update. -/
def State.updFrame (s : State) (frame : Nat) (f : Frame → Frame) : State := { s with frames := Map.alter s.frames frame f }

/-! ## Held writes (R318, R319) -/

/-- The chunks that the frame of a held write still lacks. -/
def State.lacks (s : State) (h : HeldWrite) : Nat :=
  match Map.find s.frames (h.line / 4096) with
  | none => 0
  | some f => h.need - f.chunks

/-- Chunks that reclaim freed go to the held writes in order, and what is left over to the free pool (R319, rule 3). -/
def State.giveChunks (s : State) (n : Nat) : List HeldWrite → State
  | [] => { s with free := s.free + n }
  | h :: hs =>
    let k := min n (s.lacks h)
    (s.updFrame (h.line / 4096) (fun f => { f with chunks := f.chunks + k })).giveChunks (n - k) hs

/-- Chunks freed by reclaim. -/
def State.freed (s : State) (n : Nat) : State := s.giveChunks n s.held

/-- A held write ends its wait once its frame holds its need, and so do the return of a frame and a resident frame's wait for a fresh
chunk, which gives its failed one up (R325). -/
def State.served (s : State) (h : HeldWrite) : State :=
  let frame := h.line / 4096
  if !h.back then s.updFrame frame (fun f => { f with state := .resident })
  else
    match Map.find s.frames frame with
    | none => s
    | some f =>
      if f.state == .evicted then
        { s.updFrame frame (fun f => { f with state := .resident, accessed := true, returned := true }) with
          evUsed := s.evUsed - 1 }
      else { s.updFrame frame (fun f => { f with chunks := f.chunks - 1 }) with chunkBad := s.chunkBad + 1 }

/-- HELD_WRITE_PLACE: the oldest held write takes the chunks its frame lacks, and is placed (R319). -/
def execHeldWritePlace (s : State) : Res :=
  match s.held with
  | [] => .next s
  | h :: hs =>
    let k := s.lacks h
    if s.free < k then .next s
    else
      let s := { s with held := hs, free := s.free - k }
      .next (((s.updFrame (h.line / 4096) (fun f => { f with chunks := f.chunks + k })).served h).settleHand)

/-! ## Reclaim (R320 to R322) -/

/-- A frame that the sweeper and step 3 may choose: resident, not pinned, with no held write and no in-bank row. -/
def State.mayLeave (s : State) (frame : Nat) (f : Frame) : Bool :=
  f.state == .resident && !f.pin && !s.held.any (fun h => h.line / 4096 == frame)
    && !(List.range 4).any (fun i => Map.get false s.rowOwner (frame * 4 + i))

/-- The sweeper visits one frame: its accessed bit is cleared, or it joins the ready queue (R321). -/
def State.sweepAt (s : State) (frame : Nat) (f : Frame) : State :=
  let s := { s with sweep := frame + 1 }
  if f.accessed then s.updFrame frame (fun f => { f with accessed := false, returned := false })
  else if s.readyQ.contains frame then s
  else { s with readyQ := s.readyQ ++ [frame] }

/-- CLOCK_SWEEP: the next frame in ascending address, wrapping at F, while the ready queue is short (R321). -/
def execClockSweep (s : State) : Res :=
  if field (s.preg 0x811) 63 32 ≤ s.readyQ.length then .next s
  else
    let ok := s.frames.filter (fun p => s.mayLeave p.1 p.2)
    match ok.find? (fun p => decide (s.sweep ≤ p.1)) with
    | some p => .next (s.sweepAt p.1 p.2)
    | none => match ok with | [] => .next s | p :: _ => .next (s.sweepAt p.1 p.2)

/-- The frames that a range of virtual addresses maps to, read as the walker does but without faults (R322). -/
def State.rangeCovers (s : State) (ctx : Nat) (r : Nat × Nat) (frame : Nat) : Bool :=
  let len := r.2 % 2 ^ 48
  let pages := (r.1 % 4096 + len + 4095) / 4096
  len != 0 && (List.range pages).any (fun i =>
    let va := alignDown 4096 r.1 + 4096 * i
    match s.walk ctx va with
    | .leaf e size => !pteRem e && (alignDown size (pteFrame e) + va % size) / 4096 == frame
    | _ => false)

/-- A record's ranges map to a frame. -/
def State.recordCovers (s : State) (ctx : Nat) (r : LaunchRec) (frame : Nat) : Bool :=
  r.ranges.any (fun x => s.rangeCovers ctx x frame)

/-- The queued records of a priority, in slot order, as the evictor searches them. -/
def State.queuedRecords (s : State) (ctx list : Nat) : List LaunchRec :=
  match s.listHead ctx false list with
  | .ok (some h, _) =>
    (List.range (min (h.tail - h.head) (2 ^ h.z))).filterMap (fun i =>
      match s.recordAt ctx h (h.head + i) with
      | .ok (some b, _) => some (LaunchRec.of b)
      | _ => none)
  | _ => []

/-- The evictor's table and list reads (R322) as loads at their homes (R276, R321): the lists with their records, and the walks of the
ranges of the running and the queued launches. Which of them a search gets to is not told; here it reads them all before it chooses
(DESIGN CHOICE, log 35). -/
def State.searched (s : State) : State :=
  let pages (s : State) (ctx : Nat) (r : LaunchRec) : State :=
    r.ranges.foldl (fun s x => (List.range ((x.1 % 4096 + x.2 % 2 ^ 48 + 4095) / 4096)).foldl (fun s i =>
      s.walked ctx (alignDown 4096 x.1 + 4096 * i)) s) s
  let list (s : State) (ctx l : Nat) : State :=
    match s.listHead ctx false l with
    | .ok (some h, s) =>
      (List.range (min (h.tail - h.head) (2 ^ h.z))).foldl (fun s i =>
        match s.recordAt ctx h (h.head + i) with
        | .ok (some b, s) => pages s ctx (LaunchRec.of b)
        | .ok (none, s) => s
        | .error _ => s) s
    | .ok (none, s) => s
    | .error _ => s
  let s := s.runningLaunches.foldl (fun s l => pages s l.ctx l.record) s
  (List.range 4).foldl (fun s l => s.ctxs.foldl (fun s c => list s c.1 l) s) s

/-- The contexts that have placed teams. -/
def State.activeContexts (s : State) : List Nat := sortNats (s.teams.map (fun t => t.2.ctx))

/-- Whether step 3 searches the lists (R322). -/
def State.searches (s : State) : Bool := (s.preg 0x810).getLsbD 23 && decide (s.activeContexts.length ≤ 4)

/-- The evictor's search: list 0 first, then lists 1, 2 and 3, the contexts of one list in ascending number. -/
def State.searchOrder (s : State) : List (Nat × LaunchRec) :=
  ((List.range 4).map (fun l =>
    (s.ctxs.map (fun c => (s.queuedRecords c.1 l).map (fun r => (c.1, r)))).flatten)).flatten

/-- A candidate's distance, none for infinity. -/
def State.distance (s : State) (order : List (Nat × LaunchRec)) (frame : Nat) : Option Nat :=
  order.findIdx? (fun p => s.recordCovers p.1 p.2 frame)

/-- The frame with the largest distance, the first in ready-queue order among equals. -/
def farthest : List (Nat × Option Nat) → Option Nat
  | [] => none
  | (f, d) :: rest =>
    match farthestFrom f d rest with
    | x => some x
where
  farthestFrom (f : Nat) (d : Option Nat) : List (Nat × Option Nat) → Nat
    | [] => f
    | (g, e) :: rest =>
      let more : Bool := match d, e with
        | none, _ => false
        | some _, none => true
        | some a, some b => decide (a < b)
      if more then farthestFrom g e rest else farthestFrom f d rest

/-- The frame that step 3 evicts under the active policy. -/
def State.victim (s : State) : Option Nat :=
  let q := s.readyQ.filter (fun n => match Map.find s.frames n with | some f => s.mayLeave n f && !f.returned | none => false)
  if s.searches then
    let running := s.runningLaunches
    let cand := q.filter (fun n => !running.any (fun l => s.recordCovers l.ctx l.record n))
    let order := s.searchOrder
    farthest (cand.map (fun n => (n, s.distance order n)))
  else q.head?

/-- A frame leaves for the host (R320, R408): its chunks are freed, and the stores to host memory await acknowledgement. -/
def State.evict (s : State) (frame : Nat) : State :=
  let n := match Map.find s.frames frame with | some f => f.chunks | none => 0
  let s := s.updFrame frame (fun f => { f with state := .evicted, chunks := 0 })
  { s with evUsed := s.evUsed + 1, readyQ := s.readyQ.filter (· != frame), hostOut := s.hostOut + 1 }.freed n

/-- Whether the background run goes on: it starts when the free pool falls below `caplow.chunks` and stops once the pool is above it
(R320). -/
def State.balloonRuns (s : State) : Bool :=
  let low := field (s.preg 0x811) 31 0
  decide (s.free < low) || (s.balloon && s.free == low)

/-- The chunks that the oldest held write lacks, or what the background run wants. -/
def State.wantChunks (s : State) : Nat :=
  match s.held with
  | h :: _ => s.lacks h - s.free
  | [] => if s.balloonRuns then field (s.preg 0x811) 31 0 + 1 - s.free else 0

/-- What a frame keeps when it is repacked (R316, R320): its need, counted without the writes still held for it, and what those are
given. -/
def State.frameKeeps (s : State) (frame : Nat) : Nat :=
  let mine := s.held.filter (fun h => h.line / 4096 == frame && !h.back)
  let placed : State := { s with mem := mine.foldr (fun (h : HeldWrite) m => Map.setBytes m h.line h.before) s.mem }
  mine.foldl (fun n h => Nat.max n h.need) (placed.frameNeed frame)

/-- Reclaim has nothing left to give: the failure, and step 3 without a slot (R324, R326). -/
def State.reclaimFails (s : State) : State :=
  if s.held.isEmpty then s else (s.setPreg 0x817 (s.preg 0x817 ||| 1)).irq 2

/-- What a move of the engine leaves: from the reserve, by compaction of the lowest frame with a surplus, or by eviction (R320). -/
def State.reclaim (s : State) (want : Nat) : State :=
  if want = 0 then s
  else if 0 < s.reserve then
    let n := min want s.reserve
    { s with reserve := s.reserve - n }.freed n
  else
    match s.frames.find? (fun p => p.2.state == .resident && decide (s.frameKeeps p.1 < p.2.chunks)) with
    | some (n, f) =>
      let need := s.frameKeeps n
      (s.updFrame n (fun f => { f with chunks := need })).freed (f.chunks - need)
    | none =>
      let slots := field (s.preg 0x816) 31 0
      if slots = 0 then s.reclaimFails
      else if slots ≤ s.evUsed then (s.setPreg 0x817 (s.preg 0x817 ||| 2)).reclaimFails
      else
        let s := if s.searches then s.searched else s
        match s.victim with
        | some n => s.evict n
        | none => s.reclaimFails

/-- BALLOON_RECLAIM: one move of the engine, and whether the background run goes on. -/
def execBalloonReclaim (s : State) : Res := .next { s.reclaim s.wantChunks with balloon := s.balloonRuns }

/-! ## Returns and failures (R323, R324) -/

/-- An evicted frame comes back: at once if the pool has its need, else it waits as a held write does (R323). -/
def State.bringBack (s : State) (frame : Nat) : State :=
  match Map.find s.frames frame with
  | none => s
  | some f =>
    if f.state != .evicted || s.held.any (fun h => h.back && h.line / 4096 == frame) then s
    else
      let need := s.frameNeed frame
      let h : HeldWrite := ⟨4096 * frame, [], false, f.ctx, s.now, need, true⟩
      if need ≤ s.free then
        ({ s with free := s.free - need }.updFrame frame (fun f => { f with chunks := need })).served h
      else { s with held := s.held ++ [h] }

/-- EVICTED_FRAME_RETURN -/
def execEvictedFrameReturn (frame : Nat) (s : State) : Res := .next (s.bringBack frame).settleHand

/-- Held writes of a context are discarded, the latest first, so that each line reverts to its content before them. -/
def State.discard (s : State) (ctx : Nat) : State :=
  let mine := s.held.filter (fun h => h.ctx == ctx && !h.back)
  let first := match mine with | h :: _ => h.line | [] => 0
  let s := mine.foldr (fun h s => s.revert h.line h.before h.failed) s
  let s := { s with held := s.held.filter (fun h => !(h.ctx == ctx && !h.back)) }
  (s.updCtx ctx (fun c => { c with faulted := true })).armFaults ctx first mine.length

/-- Core cycles in a number of microseconds, at 3.3 GHz (R1). -/
def cyclesOfUs (us : Nat) : Nat := 3300 * us

/-- RECLAIM_TIMEOUT: the oldest held write has waited longer than `captmo` (R324). -/
def execReclaimTimeout (s : State) : Res :=
  let tmo := field (s.preg 0x814) 31 0
  match s.held.find? (fun h => !h.back) with
  | none => .next s
  | some h => if tmo ≠ 0 ∧ cyclesOfUs tmo < s.now - h.time then .next (s.discard h.ctx) else .next s

/-! ## Commands (R326, R327) -/

/-- The frames of a command, upward from `capfrm`. -/
def State.cmdFrames (s : State) (count : Nat) : List Nat :=
  (List.range count).map (· + field (s.preg 0x819) 47 12)

/-- A frame of the compressed region. -/
def State.isCompressed (s : State) (frame : Nat) : Bool :=
  decide (s.plainEnd ≤ 4096 * frame) && decide (4096 * frame < s.frameEnd)

/-- A frame of the plain region. -/
def State.isPlain (s : State) (frame : Nat) : Bool := decide (4096 * frame < s.plainEnd)

/-- An assigned compressed frame. -/
def State.assigned (s : State) (frame : Nat) : Bool := s.isCompressed frame && Map.has s.frames frame

/-- Every line of an assigned frame is zero (R317), and none is owned or in C: the command follows every earlier access (R327). -/
def State.zeroFrame (s : State) (frame : Nat) : State :=
  { s with
    mem := s.mem.filter (fun p => p.1 / 4096 != frame)
    cLines := s.cLines.filter (fun p => p.1 / 64 != frame)
    lineOwner := s.lineOwner.filter (fun p => p.1 / 64 != frame)
    badLines := s.badLines.filter (fun l => l / 4096 != frame) }

/-- A frame's versions start above every version that a line of the package carries (R300): above the largest base and the largest count
(which such base, DESIGN CHOICE, log 35). -/
def State.freshBase (s : State) (frame : Nat) : State :=
  let top := s.vbase.foldl (fun n p => Nat.max n p.2) 0
  { s with
    vbase := Map.set 0 s.vbase frame ((top + 0x10000) % 2 ^ 48)
    vcount := s.vcount.filter (fun p => p.1 / 64 != frame) }

/-- Command 1 for one frame. -/
def State.assignFrame (s : State) (frame : Nat) : State :=
  let f : Frame := ⟨.empty, field (s.preg 0x819) 63 48, 0, false, false, false⟩
  { (s.zeroFrame frame).freshBase frame with frames := Map.put s.frames frame f }

/-- Command 2 for one frame: its chunks go to the reserve, its host slot is freed. Writes still held for it are dropped, and a failed
chunk that waits to be replaced leaves the pool (R325). -/
def State.returnFrame (s : State) (frame : Nat) : State :=
  match Map.find s.frames frame with
  | none => s
  | some f =>
    let lost := if f.state == .evicted then 0 else (s.held.filter (fun h => h.back && h.line / 4096 == frame)).length
    { s with
      frames := Map.erase s.frames frame
      reserve := s.reserve + (f.chunks - lost)
      chunkBad := s.chunkBad + lost
      evUsed := if f.state == .evicted then s.evUsed - 1 else s.evUsed
      cLines := s.cLines.filter (fun p => p.1 / 64 != frame)
      lineOwner := s.lineOwner.filter (fun p => p.1 / 64 != frame)
      held := s.held.filter (fun h => h.line / 4096 != frame)
      readyQ := s.readyQ.filter (· != frame) }

/-- A stripe command over a frame with an in-bank row is refused (R331). -/
def State.anyRowInBank (s : State) (frame : Nat) : Bool :=
  (List.range 4).any (fun i => Map.get false s.rowOwner (frame * 4 + i))

/-- Command op over `count` frames: 0x052 where a rule is broken, else the state after it and whether it is done; pinning an
evicted frame asks for its return, and is done once it is back. -/
def State.capCommand (s : State) (op count : Nat) : Except (BitVec 9) (State × Bool) :=
  let fs := s.cmdFrames count
  let onlyIf (ok : Nat → Bool) (f : State → Nat → State) : Except (BitVec 9) (State × Bool) :=
    if count = 0 || !fs.all ok then .error 0x052 else .ok (fs.foldl f s, true)
  match op with
  | 1 => onlyIf (fun n => s.isCompressed n && !s.assigned n && !s.badFrames.contains n) State.assignFrame
  | 2 => onlyIf s.assigned State.returnFrame
  | 3 =>
    if count = 0 || !fs.all s.assigned then .error 0x052
    else
      let s := fs.foldl State.bringBack s
      let gone := fs.any (fun n => match Map.find s.frames n with | some f => f.state == .evicted | none => false)
      .ok (fs.foldl (fun s n => s.updFrame n (fun f => { f with pin := true })) s, !gone)
  | 4 => onlyIf s.assigned (fun s n => s.updFrame n (fun f => { f with pin := false }))
  | 5 => onlyIf (fun n => s.isPlain n && !s.anyRowInBank n) (fun s n => { s with stripe := Map.set false s.stripe n true })
  | 6 => onlyIf (fun n => s.isPlain n && !s.anyRowInBank n) (fun s n => { s with stripe := Map.set false s.stripe n false })
  | _ => .error 0x052

/-- A command that a master writes, which only the owner may (R404): a refused one changes nothing. -/
def State.capEvent (s : State) (op : Nat) (count : BitVec 20) : Res :=
  .next (s.byOwner s.writer (fun s =>
    match s.capCommand op count.toNat with
    | .error _ => s
    | .ok r => r.1.settleHand))

/-- CAPCMD_ASSIGN -/
def execCapcmdAssign (count : BitVec 20) (s : State) : Res := s.capEvent 1 count

/-- CAPCMD_RETURN -/
def execCapcmdReturn (count : BitVec 20) (s : State) : Res := s.capEvent 2 count

/-- CAPCMD_PIN -/
def execCapcmdPin (count : BitVec 20) (s : State) : Res := s.capEvent 3 count

/-- CAPCMD_UNPIN -/
def execCapcmdUnpin (count : BitVec 20) (s : State) : Res := s.capEvent 4 count

/-- CAPCMD_STRIPE_ON -/
def execCapcmdStripeOn (count : BitVec 20) (s : State) : Res := s.capEvent 5 count

/-- CAPCMD_STRIPE_OFF -/
def execCapcmdStripeOff (count : BitVec 20) (s : State) : Res := s.capEvent 6 count

end Sys2Proof.Machine
end

