-- ==== Sys2Proof/Machine/Sram.lean ====
section
/-!
DEFINITION. Sys2Proof/Machine/Sram.lean: operations on the SRAM array that its instructions share: bounds and presence of
scratchpad lines (R194 to R198), peer routes (R202), windows' start (R205), the service of queues (R211) and the update of
clasps (R218, R219).
-/

namespace Sys2Proof.Machine

/-! ## Scratchpad addresses (R195, R199) -/

/-- One lane's access: its lane, exact address and size. -/
structure SpAcc where
  lane : Nat
  addr : Int
  size : Nat
deriving DecidableEq, Repr

/-- Alignment first, then bounds, over every lane (R195). -/
def spCheck (size : Nat) (uniform : Bool) (l : List SpAcc) : Option MStop :=
  let bad := l.filter (fun a => a.addr % (a.size : Int) != 0)
  let out := l.filter (fun a => decide (a.addr < 0) || decide ((size : Int) < a.addr + a.size))
  let mk (c : BitVec 9) (x : List SpAcc) : MStop :=
    .trap c (if uniform then none else some (maskOf (x.map (·.lane)))) (BitVec.ofInt 64 ((x.headD ⟨0, 0, 1⟩).addr)) 0 0
  if !bad.isEmpty then some (mk 0x101 bad) else if !out.isEmpty then some (mk 0x100 out) else none

/-- The 128-byte lines that byte ranges touch. -/
def spLines (l : List (Nat × Nat)) : List Nat :=
  sortNats ((l.map (fun p => if p.2 = 0 then [] else (List.range ((p.1 + p.2 - 1) / 128 - p.1 / 128 + 1)).map (· + p.1 / 128))).flatten)

/-- Whether a line is absent (R197). -/
def Team.lineAbsent (t : Team) (line : Nat) : Bool := Map.get false t.absent line

/-- The absent lines among some. -/
def Team.absentOf (t : Team) (lines : List Nat) : List Nat := lines.filter t.lineAbsent

/-- A window covers a line. -/
def Window.covers (w : Window) (line : Nat) : Bool :=
  w.state != 0 && decide (w.base / 128 ≤ line) && decide (line < (w.base + w.len) / 128)

/-- A window's copy starts (R205): state 2, and it waits for one of the team's copy-queue entries. -/
def Team.startWindow (t : Team) (team w : Nat) : Team :=
  let x := Map.get nullWindow t.win w
  if x.state = 1 then
    { t with
      win := Map.put t.win w { x with state := 2 }
      entryWait := t.entryWait ++ [(⟨team, x.group, 0⟩, some w)] }
  else t
where
  /-- an unbound window (R203) -/
  nullWindow : Window := ⟨0, 0, 0, 0, [], false, 0, 0⟩

/-- Touching lines starts the copy of every bound window that covers one of them. -/
def Team.touchWindows (t : Team) (team : Nat) (lines : List Nat) : Team :=
  (List.range 16).foldl
    (fun t w =>
      if lines.any (fun l => (Map.get Team.startWindow.nullWindow t.win w).covers l) then t.startWindow team w else t) t

/-- A bound window whose copy has not started covers one of some lines. -/
def Team.touches (t : Team) (lines : List Nat) : Bool :=
  (List.range 16).any (fun w =>
    let x := Map.get Team.startWindow.nullWindow t.win w
    x.state == 1 && lines.any x.covers)

/-- A lane touches lines of a team's scratchpad, absent or present: the copies of the windows over them start (R205). -/
def State.touch (s : State) (team : Nat) (lines : List Nat) : State :=
  if (s.teamOf team).touches lines then s.updTeam team (fun t => t.touchWindows team lines) else s

/-- The executing fragment parks on the absent lines of a team (R197). -/
def State.parkOn (s : State) (team : Nat) (lines : List Nat) (later : List Reg) : State :=
  (s.touch team lines).park (.lines team lines) later

/-- What a read of an uncorrectable line by an instruction gives its group (R198): 0x10C, not precise. -/
def badHeld (line : Nat) (pc : CodePtr) : Held := ⟨.storage, 0x10C, pc, none, BitVec.ofNat 64 (line * 128), none, 0, 0, some 1⟩

/-- A read meets an uncorrectable line. -/
def State.badScratch (s : State) (line : Nat) : State := s.setG (·.hold (badHeld line s.cf.pc))

/-- Accesses that together write all 128 bytes of a line, which ends its failure (R198). -/
def coversSpLine (l : List SpAcc) (line : Nat) : Bool :=
  (List.range 128).all (fun i =>
    l.any (fun a => decide (a.addr ≤ (line * 128 + i : Nat)) && decide ((line * 128 + i : Nat) < a.addr + a.size)))

/-- The first of some lines that fails its check (R198). -/
def Team.badOf (t : Team) (lines : List Nat) : Option Nat := lines.find? (t.badSp.contains ·)

/-- Bytes of a scratchpad. -/
def Team.spRead (t : Team) (a n : Nat) : Nat := natOfBytes (Map.bytes t.sp a n)

/-- Bytes stored to a scratchpad. -/
def Team.spWrite (t : Team) (a n x : Nat) : Team := { t with sp := Map.setBytes t.sp a (bytesOfNat n x) }

/-! ## Peer routes (R74, R202) -/

/-- The core one hop from a core in a direction (0 N, 1 E, 2 S, 3 W), or none off the die's mesh. -/
def hop (core dir : Nat) : Option Nat :=
  let row := core % 64 / 8
  let col := core % 8
  match dir with
  | 0 => if row = 0 then none else some (core - 8)
  | 1 => if col = 7 then none else some (core + 1)
  | 2 => if row = 7 then none else some (core + 8)
  | _ => if col = 0 then none else some (core - 1)

/-- A hop that enters no retired position. -/
def State.hopTo (s : State) (core dir : Nat) : Option Nat :=
  match hop core dir with
  | none => none
  | some c => if s.retired.getLsbD c then none else some c

/-- The moves after the first hop: straight, left, right or stop, at most seven. -/
def State.routeFrom (s : State) (core dir route : Nat) : Nat → Option Nat
  | 0 => some core
  | n + 1 =>
    let m := route / 4 ^ n % 4
    if m = 3 then some core
    else
      let dir := if m = 0 then dir else if m = 1 then (dir + 3) % 4 else (dir + 1) % 4
      match s.hopTo core dir with
      | none => none
      | some c => State.routeFrom s c dir route n

/-- The core a route ends at. -/
def State.route (s : State) (core route : Nat) : Option Nat :=
  let dir := route / 2 ^ 14 % 4
  match s.hopTo core dir with
  | none => none
  | some c => s.routeFrom c dir route 7

/-- The team of the issuing team's cluster on a core. -/
def State.clusterTeamOn (s : State) (t : Team) (core : Nat) : Option Nat :=
  (s.teams.find? (fun p => p.2.core == core && p.2.sameCluster t)).map (·.1)

/-- The team a route leads to, or cause 0x007 (R202). -/
def State.peer (s : State) (route : Nat) : Except MStop Nat :=
  let bad : MStop := .trap 0x007 none (BitVec.ofNat 64 route) 0 0
  match s.route s.ct.core route with
  | none => .error bad
  | some c => match s.clusterTeamOn s.ct c with | none => .error bad | some t => .ok t

/-- The team that a queue or clasp instruction acts on: its own, or the one its route leads to (R209), where a frozen team
takes 0x10A (R220). -/
def State.holder (s : State) (imm : BitVec 32) : Except MStop Nat :=
  if imm.getLsbD 16 then
    match s.peer (imm.toNat % 65536) with
    | .error e => .error e
    | .ok t =>
      if (s.teamOf t).status == .frozen then .error (.trap 0x10A none (BitVec.ofNat 64 (imm.toNat % 65536)) 0 0) else .ok t
  else .ok s.cur.ref.team

/-! ## Queues (R208 to R213) -/

/-- A queue before `qcfg`. -/
def nullQueue : Queue := ⟨false, false, 0, 0, 0, 0, [], [], none⟩

def Team.queue (t : Team) (q : Nat) : Queue := Map.get nullQueue t.q q

def Team.setQ (t : Team) (q : Nat) (x : Queue) : Team := { t with q := Map.set nullQueue t.q q x }

def Queue.depth (q : Queue) : Nat := 2 ^ q.e

def Queue.count (q : Queue) : Nat := (q.tail + 2 ^ 32 - q.head) % 2 ^ 32

/-- The scratchpad address of item k. -/
def Queue.slotAddr (q : Queue) (k : Nat) : Nat := q.base + 4 * (k % 2 ^ 32 % q.depth)

/-- The lines that `n` items from item `k` touch. -/
def Queue.ringLines (q : Queue) (k n : Nat) : List Nat := spLines ((List.range n).map (fun i => (q.slotAddr (k + i), 4)))

/-- The absent lines that `n` items from item `k` touch. -/
def Team.ringAbsent (t : Team) (q : Queue) (k n : Nat) : List Nat := t.absentOf (q.ringLines k n)

/-- Items appended. -/
def Team.pushItems (t : Team) (q : Nat) : List Word → Team
  | [] => t
  | x :: xs =>
    let qu := t.queue q
    Team.pushItems ((t.spWrite (qu.slotAddr qu.tail) 4 x.toNat).setQ q { qu with tail := (qu.tail + 1) % 2 ^ 32 }) q xs

/-- A step of a queue has taken effect: no step waits any more as the first one for its ring (R211). -/
def Team.stepped (t : Team) (q : Nat) : Team := t.setQ q { t.queue q with first := none }

/-- A push of items; one that writes all of a failed line ends its failure (R198). -/
def Team.push (t : Team) (q : Nat) (items : List Word) : Team :=
  let qu := t.queue q
  let l : List SpAcc := (List.range items.length).map (fun i => ⟨0, qu.slotAddr (qu.tail + i), 4⟩)
  { (t.pushItems q items).stepped q with badSp := t.badSp.filter (fun b => !coversSpLine l b) }

/-- The oldest `m` items. -/
def Team.headItems (t : Team) (q : Nat) (m : Nat) : List Word :=
  let qu := t.queue q
  (List.range m).map (fun i => BitVec.ofNat 32 (t.spRead (qu.slotAddr (qu.head + i)) 4))

/-- The oldest `m` items removed. -/
def Team.dropItems (t : Team) (q m : Nat) : Team :=
  let qu := t.queue q
  t.setQ q { qu with head := (qu.head + m) % 2 ^ 32, first := none }

/-- What a pop of `m` items writes into the popping group: the first m lanes receive them, the predicate says which (R211). -/
def Group.receive (g : Group) (r : QReq) (items : List Word) : Group :=
  let m := items.length
  if r.uniform then
    let g := g.setP r.pd (maskOf r.lanes) (if m = 0 then 0 else maskOf r.lanes)
    match items with
    | x :: _ => g.setU r.d (x.setWidth 64)
    | [] => g
  else
    let got := r.lanes.take m
    let g := (got.zip items).foldl (fun g p => g.setV r.d p.1 p.2) g
    g.setP r.pd (maskOf r.lanes) (maskOf got)

/-- The number of items that a popper at the head of its order takes now, if it fits (R211, R212). -/
def Queue.popNow (q : Queue) (n : Nat) : Option Nat :=
  if n ≤ q.count then some n else if q.closed then some (min q.count n) else none

/-- A served request ends its instruction; a served producer PUSH is marked for its slot (R256). -/
def State.serveDone (s : State) (r : QReq) (f : Group → Group) : State :=
  match r.who with
  | none => { s with pushServed := r.core :: s.pushServed }
  | some ref => (s.updGroupAt ref.team ref.group f).wake ref

/-- The absent ring lines for which a step of a queue waits, so that the queue takes no later one (R211): a fragment's own step, or the one of the popper or the pusher at the head of its order. -/
def State.queueStuck (s : State) (team q : Nat) : Option (List Nat) :=
  let t := s.teamOf team
  let qu := t.queue q
  let own : Option (List Nat) :=
    match qu.first with
    | none => none
    | some (r, pc) =>
      if !s.live r || (s.fragAt r).pc != pc || (s.groupAt r.team r.group).stop.isSome then none
      else match (s.fragAt r).park with | some (.lines _ l) => some l | _ => some []
  let pop : Option (List Nat) :=
    match qu.poppers with
    | [] => none
    | r :: _ => (qu.popNow r.n).bind (fun m => let l := t.ringAbsent qu qu.head m; if l.isEmpty then none else some l)
  let push : Option (List Nat) :=
    match qu.pushers with
    | [] => none
    | r :: _ =>
      let l := t.ringAbsent qu qu.tail r.n
      if qu.depth - qu.count < r.n || l.isEmpty then none else some l
  own <|> pop <|> push

/-- The popper at the head of its order is served, where it fits and its ring lines are present; one that would read a line that fails its
check receives nothing, and its group takes 0x10C (R198). -/
def State.servePop (s : State) (team q : Nat) : Option State :=
  let t := s.teamOf team
  let qu := t.queue q
  match qu.poppers with
  | [] => none
  | r :: rest =>
    match qu.popNow r.n with
    | none => none
    | some m =>
      if !(t.ringAbsent qu qu.head m).isEmpty then none
      else
        let t' := t.setQ q { t.queue q with poppers := rest }
        match t.badOf (qu.ringLines qu.head m) with
        | some b => some ((s.updTeam team (fun _ => t')).serveDone r (·.hold (badHeld b r.addr)))
        | none =>
          some (((s.updTeam team (fun _ => t'.dropItems q m)).touch team (qu.ringLines qu.head m)).serveDone r
            (·.receive r (t.headItems q m)))

/-- The pusher at the head of its order is served, where it fits and its ring lines are present. -/
def State.servePush (s : State) (team q : Nat) : Option State :=
  let t := s.teamOf team
  let qu := t.queue q
  match qu.pushers with
  | [] => none
  | r :: rest =>
    if qu.closed || qu.depth - qu.count < r.n || !(t.ringAbsent qu qu.tail r.n).isEmpty then none
    else
      let t := t.push q r.items
      let t := t.setQ q { t.queue q with pushers := rest }
      let s := s.updTeam team (fun _ => t)
      some ((if r.who.isNone then s else s.touch team (qu.ringLines qu.tail r.n)).serveDone r id)

/-- The lanes of the requests at the heads of a queue's orders, where they fit, touch the ring (R205). -/
def State.touchHeads (s : State) (team q : Nat) : State :=
  let qu := (s.teamOf team).queue q
  let pop : List Nat := match qu.poppers with | [] => [] | r :: _ => ((qu.popNow r.n).map (qu.ringLines qu.head)).getD []
  let push : List Nat :=
    match qu.pushers with
    | [] => []
    | r :: _ => if r.who.isNone || qu.depth - qu.count < r.n then [] else qu.ringLines qu.tail r.n
  s.touch team (pop ++ push)

/-- The queue serves parked requests one after another, as long as the head's request fits and no step waits for a line (R211). -/
def State.serve (s : State) (team q : Nat) : Nat → State
  | 0 => s
  | fuel + 1 =>
    if (s.queueStuck team q).isSome then s.touchHeads team q
    else
      match s.servePop team q with
      | some s => s.serve team q fuel
      | none =>
        match s.servePush team q with
        | some s => s.serve team q fuel
        | none => s

/-- A step of a queue is followed by the service of every request that fits. -/
def State.serveAll (s : State) (team q : Nat) : State :=
  let qu := (s.teamOf team).queue q
  s.serve team q (qu.pushers.length + qu.poppers.length)

/-- Parked pushers of a queue take cause 0x103 (R212). -/
def State.failPushers (s : State) (team q : Nat) : State :=
  let rs := ((s.teamOf team).queue q).pushers
  let s := s.updTeam team (fun t => t.setQ q { t.queue q with pushers := [] })
  rs.foldl
    (fun s r =>
      match r.who with
      | none => s
      | some ref =>
        let pc := (s.fragAt ref).pc
        (s.again ref).takeTrap ref { code := 0x103, addr := pc, resume := pc, mask := some (maskOf r.lanes) } 0)
    s

/-- A queue closes (R212): parked poppers pop what the rule gives them, parked pushers take 0x103, and a producer's PUSH loses its place. -/
def State.shutQueue (s : State) (team q : Nat) : State :=
  let qu := (s.teamOf team).queue q
  if !qu.cfg || qu.closed then s
  else ((s.updTeam team (fun t => t.setQ q { t.queue q with closed := true })).failPushers team q).serveAll team q

/-! ## Clasps (R214 to R219) -/

/-- The words of a clasp: expected, remaining, pending and phase. -/
structure Clasp where
  expected : Nat
  remaining : Nat
  pending : Int
  phase : Bool
deriving DecidableEq, Repr

def Team.clasp (t : Team) (a : Nat) : Clasp :=
  let w0 := t.spRead a 4
  let w1 := t.spRead (a + 4) 4
  let p : Nat := w1 % 33554432
  { expected := w0 % 65536, remaining := w0 / 65536, pending := if p < 16777216 then (p : Int) else (p : Int) - 33554432
    phase := t.spRead (a + 8) 4 % 2 == 1 }

/-- The clasp unit writes words 0 to 2; bits [31:25] of word 1 are kept zero, and the reserved bits of words 2 and 3 stay. -/
def Team.putClasp (t : Team) (a : Nat) (c : Clasp) : Team :=
  let w2 := t.spRead (a + 8) 4 / 2 * 2 + (if c.phase then 1 else 0)
  ((t.spWrite a 4 (c.remaining * 65536 + c.expected)).spWrite (a + 4) 4 (c.pending % (2 ^ 25 : Nat)).toNat).spWrite (a + 8) 4 w2

/-- One contribution (R218): bytes added by `cexpect` or taken by a landing, or an arrival. -/
inductive Contrib where
  | bytes (x : Int)
  | arrive
deriving DecidableEq, Repr

/-- A contribution applied, or the cause that rejects it. -/
def Clasp.apply (c : Clasp) : Contrib → Except (BitVec 9) Clasp
  | .bytes x =>
    let p := c.pending + x
    if p < -(2 ^ 24) ∨ 2 ^ 24 - 1 < p then .error 0x108 else .ok { c with pending := p }
  | .arrive => if c.remaining = 0 then .error 0x109 else .ok { c with remaining := c.remaining - 1 }

/-- The completion test of an update: the phase flips when nothing is awaited. -/
def Clasp.finish (c : Clasp) : Clasp :=
  if c.remaining = 0 ∧ c.pending = 0 then { c with phase := !c.phase, remaining := c.expected } else c

/-- The fragments parked on a clasp. -/
def State.claspWaiters (s : State) (team a : Nat) : List (FragRef × Bool) :=
  (s.teams.map (fun t =>
    (t.2.groups.map (fun g =>
      g.2.frags.filterMap (fun f =>
        match f.2.park with
        | some (.clasp tm ad par) => if tm = team ∧ ad = a then some (⟨t.1, g.1, f.1⟩, par) else none
        | _ => none))).flatten)).flatten

/-- Every waiter whose awaited phase has come goes on (R219). -/
def State.wakeClasp (s : State) (team a : Nat) : State :=
  let ph := ((s.teamOf team).clasp a).phase
  (s.claspWaiters team a).foldl (fun s w => if w.2 != ph then s.wake w.1 else s) s

/-- The place of a group's arrival among those of its clock (R218): ascending core, then group slot. -/
def State.arrivalPlace (s : State) (r : FragRef) : Nat := 64 * (s.teamOf r.team).core + (s.groupAt r.team r.group).slot + 1

/-- Where the other fragments of a team's cluster stand that could issue now. -/
def State.standing (s : State) (team : Nat) : List (FragRef × CodePtr) :=
  (s.teams.filter (fun t => t.2.sameCluster (s.teamOf team))).flatMap (fun t =>
    t.2.groups.flatMap (fun g =>
      g.2.frags.filterMap (fun f =>
        let r : FragRef := ⟨t.1, g.1, f.1⟩
        if f.2.park.isNone && r != s.cur.ref then some (r, f.2.pc) else none)))

/-- An update completes: where the phase flips, every waiter goes on, and what of the same clock comes after it in R218's order is known to
come after it. -/
def State.putUpdate (s : State) (team a : Nat) (c : Clasp) (place : Nat) : State :=
  let d := c.finish
  let s := s.updTeam team (fun t => t.putClasp a d)
  if d.phase != c.phase then
    (s.updTeam team (fun t =>
      { t with flips := ⟨a, s.now, place, s.standing team⟩ :: t.flips.filter (fun x => x.addr != a) })).wakeClasp team a
  else s

/-- The clasp's lines that are absent. -/
def Team.claspAbsent (t : Team) (a : Nat) : List Nat := t.absentOf (spLines [(a, 16)])

/-- The line of a clasp that fails its check (R198). -/
def Team.claspBad (t : Team) (a : Nat) : Option Nat := t.badOf (spLines [(a, 16)])

/-- Checks of a clasp address (R215). -/
def claspCheck (x : DWord) (size : Nat) : Option MStop :=
  let a := field x 31 0
  if a % 8 ≠ 0 then some (.trap 0x101 none (BitVec.ofNat 64 a) 0 0)
  else if field x 63 32 ≠ 0 ∨ size < a + 16 then some (.trap 0x100 none x 0 0)
  else none

/-! ## Arrivals (R217) -/

/-- The lanes a group still has. -/
def Group.remainingLanes (g : Group) : Mask := g.owned &&& ~~~g.exited

/-- The team that holds an arrival record's clasp: the group's own, or the cluster team of its rank, in its half. -/
def State.arrivalTeam (s : State) (team : Nat) (r : Arrival) : Nat :=
  match r.rank with
  | none => team
  | some k =>
    ((s.teams.find? (fun p => p.2.sameCluster (s.teamOf team) && p.2.rank == k && p.2.half == r.half)).map (·.1)).getD team

end Sys2Proof.Machine
end

