-- ==== Sys2Proof/Machine/Shape.lean ====
section
/-!
DEFINITION. Sys2Proof/Machine/Shape.lean: shape descriptors (R225 to R228): their fields, the check of `tsload`, and where a
box's elements lie in memory and in scratchpad.
-/

namespace Sys2Proof.Machine

/-- A descriptor's fields (R225), box sizes as sizes. -/
structure Desc where
  base : Nat
  fill : Nat
  oob : Nat
  swz : Nat
  rank : Nat
  ty : Ty
  dims : List Nat
  strides : List Nat
  box : List Nat
deriving DecidableEq, Repr

/-- Bits [hi:lo] of a descriptor, from a byte offset. -/
def descField (x : BitVec 512) (byte hi lo : Nat) : Nat := (x.extractLsb' (8 * byte + lo) (hi + 1 - lo)).toNat

def Desc.of (x : BitVec 512) : Desc where
  base := descField x 0 56 0
  fill := descField x 8 63 32
  oob := descField x 8 13 12
  swz := descField x 8 11 8
  rank := descField x 8 6 4 + 1
  ty := Ty.ofCode (x.extractLsb' 64 4)
  dims := (List.range 5).map (fun d => descField x (0x10 + 4 * d) 31 0)
  strides := 0 :: (List.range 4).map (fun d => descField x (0x24 + 5 * d) 39 0)
  box := (List.range 5).map (fun d => descField x (0x38 + d) 7 0 + 1)

/-- The elements of a box. -/
def Desc.boxCount (d : Desc) : Nat := d.box.foldl (· * ·) 1

/-- The box's byte count (R226). -/
def Desc.boxBytes (d : Desc) : Nat := d.boxCount * d.ty.bits / 8

/-- A descriptor that `tsload` refuses with 0x142 (R226). -/
def descBad (x : BitVec 512) : Bool :=
  let d := Desc.of x
  let above := (List.range 5).filter (fun i => decide (d.rank ≤ i))
  let below := (List.range 5).filter (fun i => decide (i < d.rank))
  descField x 0 63 57 != 0 || descField x 8 31 16 != 0 || descField x 8 7 7 != 0 || descField x 0x3D 23 0 != 0
  || d.base % 16 != 0 || decide (5 < d.rank) || decide (3 < d.swz) || d.oob == 3
  || (d.oob == 1 && !([Ty.f32, .f16, .bf16, .e4m3, .e5m2].contains d.ty))
  || below.any (fun i => d.dims.getD i 0 == 0)
  || below.any (fun i => d.strides.getD i 0 % 16 != 0)
  || above.any (fun i => d.dims.getD i 0 != 0 || d.strides.getD i 0 != 0 || d.box.getD i 1 != 1)
  || (d.ty.bits == 4 && d.box.getD 0 1 % 2 == 1)
  || decide (327680 < d.boxBytes)

/-- The index of the box's n-th element in each dimension, dimension 0 fastest (R227). -/
def boxIndex : List Nat → Nat → List Nat
  | [], _ => []
  | b :: bs, n => n % b :: boxIndex bs (n / b)

/-- The scratchpad bit offset of the box's n-th element: packed, then swizzled by 16-byte chunks within 128-byte lines. -/
def Desc.spBit (d : Desc) (n : Nat) : Nat :=
  let o := n * d.ty.bits
  let byte := o / 8
  let j := byte / 16 % 8
  let line := byte / 128
  (line * 128 + Nat.xor j (line % 2 ^ d.swz) * 16 + byte % 16) * 8 + o % 8

/-- Where an element lies in the tensor (R228): its bit address, or none out of bounds. -/
def Desc.elemBit (d : Desc) (coords : List Int) (ix : List Nat) : Option Nat :=
  let xs := (List.range d.rank).map (fun i => coords.getD i 0 + (ix.getD i 0 : Int))
  if (List.range d.rank).all (fun i => decide (0 ≤ xs.getD i 0) && decide (xs.getD i 0 < d.dims.getD i 0)) then
    let off := (List.range d.rank).foldl
      (fun a i => if i = 0 then a else a + (xs.getD i 0).toNat * d.strides.getD i 0) d.base
    some (off * 8 + (xs.getD 0 0).toNat * d.ty.bits)
  else none

/-- What a copy that reads the tensor gives an out-of-bounds element (R225). -/
def Desc.fillValue (d : Desc) : Nat :=
  match d.oob with
  | 0 => 0
  | 1 => (Ty.ffmt d.ty).canonNan
  | _ => d.fill % 2 ^ d.ty.bits

/-- Coordinates c0 to c4 from three uniform registers (R204). -/
def coordsOf (x y z : DWord) : List Int :=
  [(x.extractLsb' 0 32).toInt, (x.extractLsb' 32 32).toInt, (y.extractLsb' 0 32).toInt, (y.extractLsb' 32 32).toInt,
    (z.extractLsb' 0 32).toInt]

end Sys2Proof.Machine
end

