-- ==== Sys2Proof/Machine/Scratch.lean ====
section
/-!
DEFINITION. Sys2Proof/Machine/Scratch.lean: the instructions of the SRAM array: scratchpad loads, stores and atomics
(R199 to R202), windows (R203 to R207), queues (R209 to R213) and clasps (R215 to R219).
-/

namespace Sys2Proof.Machine

/-! ## Loads, stores and atomics -/

/-- The access size of a sub field (R199). -/
def spSize (sub : BitVec 4) : Nat :=
  match sub.toNat with
  | 0 | 1 => 1
  | 2 | 3 => 2
  | 4 => 4
  | _ => 8

/-- A loaded value extended to 32 bits (R199). -/
def spExtend (sub : BitVec 4) (x : Nat) : Word :=
  match sub.toNat with
  | 1 => (BitVec.ofNat 8 x).signExtend 32
  | 3 => (BitVec.ofNat 16 x).signExtend 32
  | _ => BitVec.ofNat 32 x

/-- The destination registers of an access of a size. -/
def spRegs (sub : BitVec 4) (d : BitVec 8) : List Reg := vregs d.toNat (if sub == 5 then 2 else 1)

/-- The accesses of the participating lanes at v(a) + an offset (R199). -/
def State.spAccs (s : State) (a : BitVec 8) (off : Int) (size : Nat) : List SpAcc :=
  s.lanes.map (fun l => ⟨l, (s.cg.vreg a.toNat l).toNat + off, size⟩)

/-- The lines of accesses that are in range. -/
def accLines (l : List SpAcc) : List Nat := spLines (l.map (fun a => (a.addr.toNat, a.size)))

/-- An access to a team's scratchpad that passed its checks: absent lines park the fragment before any effect (R197), and a
failed line is not read (R198). -/
def State.spAccess (s : State) (team : Nat) (l : List SpAcc) (reads : Bool) (later : List Reg) (k : State → State) : State :=
  let t := s.teamOf team
  let lines := accLines l
  let gone := t.absentOf lines
  let s := s.touch team lines
  if !gone.isEmpty then s.parkOn team gone later
  else
    match (if reads then t.badOf lines else none) with
    | some b => (s.badScratch b).retire []
    | none => k s

/-- `lds` and `pld` on a team's scratchpad. -/
def State.spLoad (s : State) (team : Nat) (f : FmtE) (off : Int) : State :=
  let l := s.spAccs f.a off (spSize f.sub)
  match spCheck (s.teamOf team).spSize false l with
  | some e => s.memStop e
  | none =>
    s.spAccess team l true (spRegs f.sub f.d) (fun s =>
      let t := s.teamOf team
      let put (g : Group) (a : SpAcc) : Group :=
        let x := t.spRead a.addr.toNat a.size
        if f.sub == 5 then g.setV64 f.d.toNat a.lane (BitVec.ofNat 64 x) else g.setV f.d.toNat a.lane (spExtend f.sub x)
      (s.setG (fun g => l.foldl put g)).retire (spRegs f.sub f.d))

/-- `sts` and `pst` on a team's scratchpad, in ascending lane order (R196). -/
def State.spStore (s : State) (team : Nat) (f : FmtE) (off : Int) : State :=
  let l := s.spAccs f.a off (spSize f.sub)
  match spCheck (s.teamOf team).spSize false l with
  | some e => s.memStop e
  | none =>
    s.spAccess team l false [] (fun s =>
      let g := s.cg
      let val (lane : Nat) : Nat := if f.sub == 5 then (g.vpair f.b.toNat lane).toNat else (g.vreg f.b.toNat lane).toNat
      let put (t : Team) (a : SpAcc) : Team := t.spWrite a.addr.toNat a.size (val a.lane)
      (s.updTeam team (fun t =>
        { l.foldl put t with badSp := t.badSp.filter (fun b => !coversSpLine l b) })).retire [])

/-- A peer access acts only with a participating lane; it walks its route then (R202). A load reads a frozen team's
scratchpad, a store to one takes 0x10A (R220). -/
def State.viaPeer (s : State) (f : FmtE) (store : Bool) (k : Nat → State) : State :=
  if s.lanes.isEmpty then s.retire []
  else
    match s.peer (f.imm.toNat % 65536) with
    | .error e => s.memStop e
    | .ok t =>
      if store && (s.teamOf t).status == .frozen then s.raise 0x10A none (BitVec.ofNat 64 (f.imm.toNat % 65536)) else k t

/-- The signed 16-bit offset of a peer access (R202). -/
def peerOffset (f : FmtE) : Int := (f.imm.extractLsb' 16 16).toInt

/-- `lds` (R200) -/
def execLds (f : FmtE) (s : State) : Res :=
  .next (s.slot (.lds f) { reads := [.v f.a.toNat], writes := spRegs f.sub f.d } (fun s =>
    s.spLoad s.cur.ref.team f f.imm.toInt))

/-- `sts` (R200) -/
def execSts (f : FmtE) (s : State) : Res :=
  .next (s.slot (.sts f) { reads := .v f.a.toNat :: spRegs f.sub f.b } (fun s =>
    s.spStore s.cur.ref.team f f.imm.toInt))

/-- `pld` (R202) -/
def execPld (f : FmtE) (s : State) : Res :=
  .next (s.slot (.pld f) { reads := [.v f.a.toNat], writes := spRegs f.sub f.d } (fun s =>
    s.viaPeer f false (fun t => s.spLoad t f (peerOffset f))))

/-- `pst` (R202) -/
def execPst (f : FmtE) (s : State) : Res :=
  .next (s.slot (.pst f) { reads := .v f.a.toNat :: spRegs f.sub f.b } (fun s =>
    s.viaPeer f true (fun t => s.spStore t f (peerOffset f))))

/-- The registers of `atms`: old value, address, operand, and the new value of `cas` (R201). -/
def atmsUses (op : AtmOp) (f : FmtE) : Uses :=
  let n := (Ty.ofCode f.sub).bits / 32
  { reads := .v f.a.toNat :: vregs f.b.toNat (if op == .cas then 2 * n else n), writes := vregs f.d.toNat n }

/-- `atms` (R201): lane by lane, each old value read after the lanes before it. -/
def execAtms (op : AtmOp) (f : FmtE) (s : State) : Res :=
  .next (s.slot (.atms op f) (atmsUses op f) (fun s =>
    let ty := Ty.ofCode f.sub
    let wide := ty.bits == 64
    let size := if wide then 8 else 4
    let l := s.spAccs f.a f.imm.toInt size
    let team := s.cur.ref.team
    match spCheck s.ct.spSize false l with
    | some e => s.memStop e
    | none =>
      s.spAccess team l true (atmsUses op f).writes (fun s =>
        let g := s.cg
        let val (r lane : Nat) : Nat := if wide then (g.vpair r lane).toNat else (g.vreg r lane).toNat
        let turn (s : State) (a : SpAcc) : State :=
          let old := s.ct.spRead a.addr.toNat size
          let x := atmNew ty op old (val f.b.toNat a.lane) (val (f.b.toNat + (if wide then 2 else 1)) a.lane)
          (s.setT (fun t => t.spWrite a.addr.toNat size x.1)).setG (fun g =>
            if wide then g.setV64 f.d.toNat a.lane (BitVec.ofNat 64 old) else g.setV f.d.toNat a.lane (BitVec.ofNat 32 old))
        (l.foldl turn s).retire (atmsUses op f).writes)))

/-! ## Windows (R203 to R207) -/

/-- An unbound window. -/
def Team.window (t : Team) (w : Nat) : Window := Map.get Team.startWindow.nullWindow t.win w

/-- `wbind` (R204) -/
def execWbind (f : FmtE) (s : State) : Res :=
  let a := f.a.toNat
  .next (s.slot (.wbind f) { reads := uregs a 3 ++ [.s f.b.toNat] } (fun s =>
    s.whenActs (fun s =>
      let t := s.ct
      let g := s.cg
      if t.slots ≤ f.ts.toNat then s.raise 0x140
      else
        let c2 := g.ureg (a + 2)
        let b := g.ureg f.b.toNat
        match Map.find t.ts f.ts.toNat with
        | none => s.raise 0x104
        | some x =>
          let base := field b 31 0
          let len := alignUp 128 (Desc.of x).boxBytes
          let lines := (List.range (len / 128)).map (· + base / 128)
          let others := (List.range 16).filter (fun w => w != f.wq.toNat)
          if (t.window f.wq.toNat).state != 0 || field c2 63 32 != 0 || field b 63 32 != 0 || base % 128 != 0
              || decide (t.spSize < base + len) || others.any (fun w => lines.any (t.window w).covers)
              || !(t.absentOf lines).isEmpty then s.raise 0x104
          else
            let w : Window :=
              ⟨1, base, len, x, coordsOf (g.ureg a) (g.ureg (a + 1)) c2, g.sys, s.cur.ref.group, s.cf.pc⟩
            (s.setT (fun t =>
              { t with
                win := Map.put t.win f.wq.toNat w
                absent := lines.foldl (fun m l => Map.set false m l true) t.absent })).retire [])))

/-- `wtouch` (R205) -/
def execWtouch (f : FmtE) (s : State) : Res :=
  .next (s.slot (.wtouch f) {} (fun s =>
    s.whenActs (fun s => (s.setT (fun t => t.startWindow s.cur.ref.team f.wq.toNat)).retire [])))

/-- The lines of a window's range that have not landed. -/
def Team.windowAbsent (t : Team) (w : Window) : Nat :=
  (t.absentOf ((List.range (w.len / 128)).map (· + w.base / 128))).length

/-- `wstat` (R206) -/
def execWstat (f : FmtE) (s : State) : Res :=
  .next (s.slot (.wstat f) { writes := [.s f.d.toNat] } (fun s =>
    s.whenActs (fun s =>
      let w := s.ct.window f.wq.toNat
      let absent := if w.state = 0 then 0 else s.ct.windowAbsent w
      (s.setG (·.setU f.d.toNat (BitVec.ofNat 64 (w.base * 2 ^ 32 + absent * 2 ^ 8 + w.state)))).retire
        [.s f.d.toNat])))

/-- `wunbind` (R207): while the copy runs the fragment waits for its landing. -/
def execWunbind (f : FmtE) (s : State) : Res :=
  .next (s.slot (.wunbind f) {} (fun s =>
    s.whenActs (fun s =>
      let w := s.ct.window f.wq.toNat
      if w.state = 2 then s.park (.again (.window f.wq.toNat))
      else
        let lines := if w.state = 1 then (List.range (w.len / 128)).map (· + w.base / 128) else []
        (s.setT (fun t =>
          { t with
            win := Map.erase t.win f.wq.toNat
            absent := lines.foldl (fun m l => Map.erase m l) t.absent })).retire [])))

/-! ## The producer's part (R253, R256, R259) -/

/-- The producer state of a slot that nobody holds. -/
def nullProducer : Producer where
  team := 0
  store := []
  n := 0
  pc := 0
  x := []
  st0 := ⟨none, 0, 0⟩
  st1 := ⟨none, 0, 0⟩
  tb0 := ⟨[], 0, false, none⟩
  tb1 := ⟨[], 0, false, none⟩
  clasp := none
  state := 0
  why := 0
  tblstall := 0
  cause := 0
  group := 0
  user := false
  start := 0
  queued := false
  counted := false
  asked := []

def State.prod (s : State) (core : Nat) : Producer := Map.get nullProducer s.producers core

def State.updProd (s : State) (core : Nat) (f : Producer → Producer) : State :=
  { s with producers := Map.alter s.producers core f }

/-- A stalled PUSH gives up its place in the pushers' order (R253). -/
def State.withdrawPush (s : State) (core : Nat) : State :=
  let p := s.prod core
  if !p.queued then s
  else
    let mine (r : QReq) : Bool := r.who.isNone && r.core == core
    let qs := (List.range 16).filter (fun q => ((s.teamOf p.team).queue q).pushers.any mine)
    let drop (s : State) (q : Nat) : State :=
      (s.updTeam p.team (fun t => t.setQ q { t.queue q with pushers := (t.queue q).pushers.filter (!mine ·) })).serveAll p.team q
    qs.foldl drop (s.updProd core (fun p => { p with queued := false }))

/-- A program stops on a fault (R259): the cause is recorded, its queues close, and the reporting group takes the cause
imprecisely. A PUSH that the queue served and that has not gone on has pushed its item; the program stands at it all the same. -/
def State.producerFault (s : State) (core : Nat) (cause : BitVec 9) (addr : Int) (pc : Nat) : State :=
  let s := s.withdrawPush core
  let s := { s with pushServed := s.pushServed.filter (· != core) }
  let s := s.updProd core (fun p =>
    { p with
      state := 7, why := 0, cause := cause, asked := [], queued := false
      tb0 := { p.tb0 with load := none }, tb1 := { p.tb1 with load := none } })
  let p := s.prod core
  let s := p.pushed.foldl (fun s q => s.shutQueue p.team q) s
  s.holdCause p.team p.group
    ⟨.producer, cause, p.start, none, BitVec.ofInt 64 addr, none, BitVec.ofNat 64 pc, 0x4000000000000000, some 1⟩

/-- A queue closes (R212), and a producer whose PUSH held a place in it takes 0x103 (R256). -/
def State.closeQueue (s : State) (team q : Nat) : State :=
  let qu := (s.teamOf team).queue q
  let pushed := qu.pushers.filter (·.who.isNone)
  let s' := s.shutQueue team q
  if !qu.cfg || qu.closed then s
  else pushed.foldl (fun s r => s.producerFault r.core 0x103 0 (s.prod r.core).pc) s'

/-! ## Queues (R209 to R213) -/

/-- `qcfg` (R210): a step of the queue, which waits where the queue takes none (R211). -/
def execQcfg (f : FmtE) (s : State) : Res :=
  .next (s.slot (.qcfg f) { reads := [.s f.a.toNat] } (fun s =>
    s.whenActs (fun s =>
      let x := s.cg.ureg f.a.toNat
      let en := x.getLsbD 31
      let e := field x 27 24
      let base := field x 23 0
      let q := s.ct.queue f.wq.toNat
      if field x 63 32 != 0 || field x 30 28 != 0
          || (en && (base % 4 != 0 || decide (8 < e) || decide (s.ct.spSize < base + 4 * 2 ^ e))) then s.raise 0x102
      else
        match s.queueStuck s.cur.ref.team f.wq.toNat with
        | some lines => s.parkOn s.cur.ref.team lines []
        | none =>
          if q.count != 0 || !q.pushers.isEmpty || !q.poppers.isEmpty then s.raise 0x102
          else (s.setT (fun t => t.setQ f.wq.toNat { nullQueue with cfg := en, e := e, base := base })).retire [])))

/-- Parks or fails a queue request that cannot take effect now. -/
def State.queuePark (s : State) (team q : Nat) (later : List Reg) (add : Queue → Queue) : State :=
  (s.updTeam team (fun t => t.setQ q (add (t.queue q)))).park (.queue team q) later

/-- The executing fragment's step of a queue is the one that the queue waits for (R211): it goes before every request parked since. -/
def State.hasStep (s : State) (team q : Nat) : Bool := ((s.teamOf team).queue q).first == some (s.cur.ref, s.cf.pc)

/-- The executing fragment's own step waits no more for a line of a queue's ring. -/
def State.ownStep (s : State) (team q : Nat) : State :=
  s.updTeam team (fun t =>
    let qu := t.queue q
    match qu.first with
    | some (r, _) => if r == s.cur.ref then t.setQ q { qu with first := none } else t
    | none => t)

/-- The executing fragment's own step of a queue finds absent lines of the ring: it parks on them, and the queue takes no later step
(R197, R211). -/
def State.ringPark (s : State) (team q : Nat) (lines : List Nat) (later : List Reg) : State :=
  (s.updTeam team (fun t => t.setQ q { t.queue q with first := some (s.cur.ref, s.cf.pc) })).parkOn team lines later

/-- A push of the executing fragment (R211): `n` items of lanes `ls`; the try form writes a predicate. -/
def State.push (s : State) (f : FmtE) (uniform : Bool) (try_ : Bool) : State :=
  let act := s.act
  let ls := bitsOf act
  let n := if uniform then (if s.actsAny then 1 else 0) else ls.length
  let q := f.wq.toNat
  let done (s : State) (ok : Bool) : State :=
    if try_ then (s.setG (·.setP f.d.toNat act (if ok then act else 0))).retire [.p f.d.toNat] else s.retire []
  if f.imm.getLsbD 16 && n == 0 then s.retire []
  else
    match s.holder f.imm with
    | .error e => s.memStop e
    | .ok team =>
      let mine := s.hasStep team q
      let s := s.ownStep team q
      let t := s.teamOf team
      let qu := t.queue q
      if !qu.cfg then s.raise 0x102
      else if qu.closed then s.raise 0x103
      else if qu.depth < n then s.raise 0x105
      else if n = 0 then s.retire []
      else
        let items : List Word :=
          if uniform then [(s.cg.ureg f.a.toNat).setWidth 32] else ls.map (fun l => s.cg.vreg f.a.toNat l)
        let r : QReq := ⟨some s.cur.ref, 0, items, n, ls, 0, 7, uniform, s.cf.pc⟩
        let wait (s : State) : State := s.queuePark team q [] (fun x => { x with pushers := x.pushers ++ [r] })
        let pd : List Reg := if try_ then [.p f.d.toNat] else []
        if qu.depth - qu.count < n || (!mine && !qu.pushers.isEmpty) then
          if try_ then done s false else wait s
        else
          match (if mine then none else s.queueStuck team q) with
          | some lines => if try_ then s.parkOn team lines pd else wait s
          | none =>
            let gone := t.ringAbsent qu qu.tail n
            if !gone.isEmpty then s.ringPark team q gone pd
            else (done ((s.touch team (qu.ringLines qu.tail n)).updTeam team (·.push q items)) true).serveAll team q

/-- A pop of the executing fragment (R211). -/
def State.pop (s : State) (f : FmtE) (uniform : Bool) (try_ : Bool) : State :=
  let act := s.act
  let ls := bitsOf act
  let n := if uniform then (if s.actsAny then 1 else 0) else ls.length
  let q := f.wq.toNat
  let regs : List Reg := (if uniform then .s f.d.toNat else .v f.d.toNat) :: (if f.b == 7 then [] else [.p f.b.toNat])
  if f.imm.getLsbD 16 && n == 0 then s.retire []
  else
    match s.holder f.imm with
    | .error e => s.memStop e
    | .ok team =>
      let mine := s.hasStep team q
      let s := s.ownStep team q
      let t := s.teamOf team
      let qu := t.queue q
      if !qu.cfg then s.raise 0x102
      else if qu.depth < n then s.raise 0x105
      else if n = 0 then s.retire []
      else
        let wait (s : State) (r : QReq) : State := s.queuePark team q regs (fun x => { x with poppers := x.poppers ++ [r] })
        let r : QReq := ⟨some s.cur.ref, 0, [], n, ls, f.d.toNat, f.b.toNat, uniform, s.cf.pc⟩
        let m : Option Nat :=
          if n ≤ qu.count && (mine || qu.poppers.isEmpty) then some n
          else if qu.closed then some (min qu.count n)
          else if try_ then some 0 else none
        match m with
        | none => wait s r
        | some m =>
          match (if mine then none else s.queueStuck team q) with
          | some lines => if try_ then s.parkOn team lines regs else wait s r
          | none =>
            let gone := t.ringAbsent qu qu.head m
            let s := s.touch team (qu.ringLines qu.head m)
            if !gone.isEmpty then s.ringPark team q gone regs
            else
              match t.badOf (qu.ringLines qu.head m) with
              | some b => (s.badScratch b).retire []
              | none =>
                let items := t.headItems q m
                (((s.updTeam team (·.dropItems q m)).setG (·.receive r items)).retire regs).serveAll team q

/-- The registers a pop writes. -/
def popWrites (f : FmtE) (uniform : Bool) : List Reg :=
  (if uniform then .s f.d.toNat else .v f.d.toNat) :: (if f.b == 7 then [] else [.p f.b.toNat])

/-- The register a push reads. -/
def pushReads (f : FmtE) (uniform : Bool) : List Reg := [if uniform then .s f.a.toNat else .v f.a.toNat]

/-- `qpush` -/
def execQpush (f : FmtE) (s : State) : Res :=
  .next (s.slot (.qpush f) { reads := pushReads f false } (fun s => s.push f false false))

/-- `qpush.u` -/
def execQpushU (f : FmtE) (s : State) : Res :=
  .next (s.slot (.qpushU f) { reads := pushReads f true } (fun s => s.push f true false))

/-- `qpush.try` -/
def execQpushTry (f : FmtE) (s : State) : Res :=
  .next (s.slot (.qpushTry f) { reads := pushReads f (f.sub == 1), writes := [.p f.d.toNat] } (fun s =>
    s.push f (f.sub == 1) true))

/-- `qpop` -/
def execQpop (f : FmtE) (s : State) : Res :=
  .next (s.slot (.qpop f) { writes := popWrites f false } (fun s => s.pop f false false))

/-- `qpop.u` -/
def execQpopU (f : FmtE) (s : State) : Res :=
  .next (s.slot (.qpopU f) { writes := popWrites f true } (fun s => s.pop f true false))

/-- `qpop.try` -/
def execQpopTry (f : FmtE) (s : State) : Res :=
  .next (s.slot (.qpopTry f) { writes := popWrites f (f.sub == 1) } (fun s => s.pop f (f.sub == 1) true))

/-- `qclose` (R212) -/
def execQclose (f : FmtE) (s : State) : Res :=
  .next (s.slot (.qclose f) {} (fun s =>
    s.whenActs (fun s =>
      match s.holder f.imm with
      | .error e => s.memStop e
      | .ok team =>
        if !((s.teamOf team).queue f.wq.toNat).cfg then s.raise 0x102
        else
          match s.queueStuck team f.wq.toNat with
          | some lines => s.parkOn team lines []
          | none => (s.retire []).closeQueue team f.wq.toNat)))

/-- The word of `qstat` (R213). A queue that `qcfg` leaves unconfigured holds nothing and shows allowance 0 beside the e it was given, as one
that was never configured does: R208's depth less count would show the depth there (DESIGN CHOICE, log 54). -/
def Queue.stat (q : Queue) : Nat :=
  (if q.cfg then 2 ^ 63 else 0) + (if q.closed then 2 ^ 62 else 0)
    + min 255 (q.pushers.filter (·.who.isSome)).length * 2 ^ 48 + min 255 q.poppers.length * 2 ^ 40 + q.e * 2 ^ 36
    + (if q.cfg then (q.depth - q.count) * 2 ^ 16 + q.count else 0)

/-- `qstat` (R213) -/
def execQstat (f : FmtE) (s : State) : Res :=
  .next (s.slot (.qstat f) { writes := [.s f.d.toNat] } (fun s =>
    s.whenActs (fun s =>
      match s.holder f.imm with
      | .error e => s.memStop e
      | .ok team =>
        (s.setG (·.setU f.d.toNat (BitVec.ofNat 64 ((s.teamOf team).queue f.wq.toNat).stat))).retire
          [.s f.d.toNat])))

/-! ## Clasps (R215 to R219) -/

/-- A rejected landing (R218): a cause held for the group whose copy or collective landed, or a fault of the producer whose PUSH
it was. -/
def State.rejectLanding (s : State) (team : Nat) (cause : BitVec 9) (addr : Nat) (x : LandSrc) : State :=
  match x with
  | .group team g pc => s.holdCause team g ⟨.clasp, cause, pc, none, BitVec.ofNat 64 addr, none, 0, 0, some 1⟩
  | .producer core pc =>
    let p := s.prod core
    if Map.has s.producers core && p.team == team && p.state != 7 then s.producerFault core cause addr pc else s

/-- The place of a landing among those of its clock (R218): ascending core, then group slot, a producer after the groups of its core
(DESIGN CHOICE, log 53). -/
def State.landPlace (s : State) (x : Landing) : Nat :=
  match x.src with
  | .group team g _ => 64 * (s.teamOf team).core + (s.groupAt team g).slot
  | .producer core _ => 64 * core + 63

/-- Landings in the order of their places, those of one place as they came. -/
def State.sortLandings (s : State) : List Landing → List Landing
  | [] => []
  | x :: xs => put x (State.sortLandings s xs)
where
  /-- a landing put before those of the same place or a later one -/
  put (x : Landing) : List Landing → List Landing
    | [] => [x]
    | y :: ys => if s.landPlace x ≤ s.landPlace y then x :: y :: ys else y :: put x ys

/-- Queued landings applied to a clasp in order, before the completion test. -/
def applyLandings (c : Clasp) : List Landing → Clasp × List Landing
  | [] => (c, [])
  | x :: xs =>
    match c.apply (.bytes (-(x.bytes : Int))) with
    | .ok d => applyLandings d xs
    | .error _ => let r := applyLandings c xs; (r.1, x :: r.2)

/-- The landings that have reached a clasp, in their order. -/
def State.claspLandings (s : State) (team addr : Nat) : List Landing :=
  s.sortLandings ((s.teamOf team).landings.filter (fun x => x.addr == addr))

/-- One update of a clasp (R218): a `cexpect` first, then what has landed, then an arrival; the landings that it rejects. -/
def Clasp.merge (c : Clasp) (l : List Landing) (x : Contrib) : Except (BitVec 9) (Clasp × List Landing) :=
  match x with
  | .bytes _ => (c.apply x).map (fun c => applyLandings c l)
  | .arrive => let r := applyLandings c l; (r.1.apply x).map (fun c => (c, r.2))

/-- The landings of a clasp have been taken by an update that leaves it with a value, which rejects some of them. -/
def State.landed (s : State) (team a : Nat) (c : Clasp) (place : Nat) (rejected : List Landing) : State :=
  let s := s.updTeam team (fun t => { t with landings := t.landings.filter (fun x => x.addr != a) })
  rejected.foldl (fun s x => s.rejectLanding team 0x108 a x.src) (s.putUpdate team a c place)

/-- An arrival falls into the clock of an update that has flipped the phase: it finds no arrival remaining (R218). Arrivals of one core
cycle share their clock where R218's order lets them and the fragment stood at its slot when the phase flipped; one that the flip woke, or
that has issued since, is of a later clock (R219; DESIGN CHOICE, log 53). -/
def State.lateArrival (s : State) (team a place : Nat) (who : FragRef × CodePtr) : Bool :=
  (s.teamOf team).flips.any (fun x => x.addr == a && x.cycle == s.now && decide (x.place < place) && x.standing.contains who)

/-- One contribution to a clasp, of a fragment at a slot (R218), merged with what has landed; a rejected one changes nothing of the clasp. -/
def State.claspUpdate (s : State) (team a : Nat) (x : Contrib) (place : Nat) (who : FragRef × CodePtr) : Except (BitVec 9) State :=
  if x == .arrive && s.lateArrival team a place who then .error 0x109
  else (((s.teamOf team).clasp a).merge (s.claspLandings team a) x).map (fun r => s.landed team a r.1 place r.2)

/-- The absent lines of the clasp, with its team, at which lanes of a group that leave would make its arrival: their `exit` waits for
them (R197, R217). -/
def State.exitGone (s : State) (ref : FragRef) (lanes : Mask) : Option (Nat × List Nat) :=
  let g := s.groupAt ref.team ref.group
  match g.arr with
  | none => none
  | some r =>
    let team := s.arrivalTeam ref.team r
    let gone := (s.teamOf team).claspAbsent r.addr
    if g.remainingLanes &&& ~~~lanes &&& ~~~r.mask != 0 || (team != ref.team && (s.teamOf team).status == .frozen) || gone.isEmpty then none
    else some (team, gone)

/-- An `exit` that completes the coverage of the group's record makes the arrival (R217); a rejected one is an imprecise 0x109
(R218), and one that reads an uncorrectable line an imprecise 0x10C (R198). The clasps of a frozen peer do not change (R220). -/
def State.exitArrival (s : State) (ref : FragRef) (pc : CodePtr) : State :=
  let g := s.groupAt ref.team ref.group
  match g.arr with
  | none => s
  | some r =>
    if g.remainingLanes &&& ~~~r.mask != 0 then s
    else
      let s := s.updGroupAt ref.team ref.group (fun g => { g with arr := none })
      let team := s.arrivalTeam ref.team r
      if team != ref.team && (s.teamOf team).status == .frozen then s
      else
        match (s.teamOf team).claspBad r.addr with
        | some b => s.holdCause ref.team ref.group (badHeld b pc)
        | none =>
          match s.claspUpdate team r.addr .arrive (s.arrivalPlace ref) (ref, pc) with
          | .ok s => s
          | .error c =>
            s.holdCause ref.team ref.group ⟨.clasp, c, pc, none, BitVec.ofNat 64 r.addr, none, 0, 0, some 1⟩

/-- A clasp instruction that acts: the team that holds the clasp, its address checked and its lines present; one that reads the clasp takes
0x10C from a line that fails its check (R198). -/
def State.withClasp (s : State) (f : FmtE) (reads : Bool) (later : List Reg) (k : State → Nat → Nat → State) : State :=
  match s.holder f.imm with
  | .error e => s.memStop e
  | .ok team =>
    let x := s.cg.ureg f.a.toNat
    let t := s.teamOf team
    match claspCheck x t.spSize with
    | some e => s.memStop e
    | none =>
      let a := field x 31 0
      let gone := t.claspAbsent a
      let s := s.touch team (spLines [(a, 16)])
      if !gone.isEmpty then s.parkOn team gone later
      else
        match (if reads then t.claspBad a else none) with
        | some b => (s.badScratch b).retire []
        | none => k s team a

/-- `cinit` (R215, R216) -/
def execCinit (f : FmtE) (s : State) : Res :=
  .next (s.slot (.cinit f) { reads := [.s f.a.toNat, .s f.b.toNat] } (fun s =>
    s.whenActs (fun s =>
      s.withClasp { f with imm := 0 } false [] (fun s team a =>
        let n := s.cg.ureg f.b.toNat
        if n = 0 ∨ field n 63 16 ≠ 0 then s.raise 0x106
        else
          let e := field n 15 0
          (s.updTeam team (fun t =>
            { t with sp := Map.setBytes t.sp a (bytesOfNat 16 (e * 65536 + e)) })).retire []))))

/-- The rank of a peer clasp's holder, none for the group's own team, to which a route may lead too (R202, R217). -/
def State.rankOf (s : State) (team : Nat) : Option Nat := if team = s.cur.ref.team then none else some (s.teamOf team).rank

/-- An arrival of the executing fragment's lanes (R217): the state after it with the phase bit that s(D) receives, or the cause
that refuses it. -/
def State.arriveAt (s : State) (team a : Nat) : Except (BitVec 9) (Bool × State) :=
  let g := s.cg
  let ph := ((s.teamOf team).clasp a).phase
  let rank := s.rankOf team
  let half := (s.teamOf team).half
  let rec0 : Arrival := g.arr.getD ⟨a, rank, half, 0⟩
  if rec0.addr ≠ a ∨ rec0.rank ≠ rank ∨ rec0.half ≠ half then .error 0x107
  else
    let mask := rec0.mask ||| s.cf.om
    if g.remainingLanes &&& ~~~mask = 0 then
      match (s.setG (fun g => { g with arr := none })).claspUpdate team a .arrive (s.arrivalPlace s.cur.ref) (s.cur.ref, s.cf.pc) with
      | .error c => .error c
      | .ok s => .ok (ph, s)
    else .ok (ph, s.setG (fun g => { g with arr := some ⟨a, rank, half, mask⟩ }))

/-- `carrive` -/
def execCarrive (f : FmtE) (s : State) : Res :=
  .next (s.slot (.carrive f) { reads := [.s f.a.toNat], writes := [.s f.d.toNat] } (fun s =>
    s.whenActs (fun s =>
      s.withClasp f true [.s f.d.toNat] (fun s team a =>
        match s.arriveAt team a with
        | .error c => s.raise c
        | .ok (ph, s) => (s.setG (·.setU f.d.toNat (if ph then 1 else 0))).retire [.s f.d.toNat]))))

/-- `carrive.wait`: arrives, then parks until the phase bit differs from the value written (R219). -/
def execCarriveWait (f : FmtE) (s : State) : Res :=
  .next (s.slot (.carriveWait f) { reads := [.s f.a.toNat], writes := [.s f.d.toNat] } (fun s =>
    s.whenActs (fun s =>
      s.withClasp f true [.s f.d.toNat] (fun s team a =>
        match s.arriveAt team a with
        | .error c => s.raise c
        | .ok (ph, s) =>
          let s := s.setG (·.setU f.d.toNat (if ph then 1 else 0))
          if ((s.teamOf team).clasp a).phase != ph then s.retire [] else s.park (.clasp team a ph)))))

/-- `cexpect` (R218) -/
def execCexpect (f : FmtE) (s : State) : Res :=
  .next (s.slot (.cexpect f) { reads := [.s f.a.toNat, .s f.b.toNat] } (fun s =>
    s.whenActs (fun s =>
      s.withClasp f true [] (fun s team a =>
        match s.claspUpdate team a (.bytes (s.cg.ureg f.b.toNat).toInt) 0 (s.cur.ref, s.cf.pc) with
        | .error c => s.raise c
        | .ok s => s.retire []))))

/-- `cwait` (R219) -/
def execCwait (f : FmtE) (s : State) : Res :=
  .next (s.slot (.cwait f) { reads := [.s f.a.toNat] } (fun s =>
    s.whenActs (fun s =>
      s.withClasp f true [] (fun s team a =>
        if ((s.teamOf team).clasp a).phase != f.sub.getLsbD 0 then s.retire []
        else s.park (.clasp team a (f.sub.getLsbD 0))))))

/-- `ctest` (R219) -/
def execCtest (f : FmtE) (s : State) : Res :=
  .next (s.slot (.ctest f) { reads := [.s f.a.toNat], writes := [.p f.d.toNat] } (fun s =>
    s.whenActs (fun s =>
      s.withClasp f true [.p f.d.toNat] (fun s team a =>
        let ok := ((s.teamOf team).clasp a).phase != f.sub.getLsbD 0
        (s.setG (·.setP f.d.toNat s.act (if ok then s.act else 0))).retire [.p f.d.toNat]))))

/-- CLASP_UPDATE: one update of a clasp merges every landing that has reached it (R218); over a line that fails its check each is rejected
with 0x10C (R198). The clasps of a frozen team take none (R220). -/
def execClaspUpdate (team addr : Nat) (s : State) : Res :=
  let t := s.teamOf team
  let mine := t.landings.filter (fun x => x.addr == addr)
  if mine.isEmpty || !(t.claspAbsent addr).isEmpty || t.status == .frozen then .next s
  else
    match t.claspBad addr with
    | some b =>
      let s := s.updTeam team (fun t => { t with landings := t.landings.filter (fun x => x.addr != addr) })
      .next (mine.foldl (fun s x => s.rejectLanding team 0x10C (128 * b) x.src) s)
    | none =>
      let r := applyLandings (t.clasp addr) (s.claspLandings team addr)
      .next (s.landed team addr r.1 0 r.2)

end Sys2Proof.Machine
end

