-- ==== Sys2Proof/Machine/Worklists.lean ====
section
/-!
DEFINITION. Sys2Proof/Machine/Worklists.lean: the worklists of the compaction units and their quiescence (R111 to R113).
-/

namespace Sys2Proof.Machine

/-! ## Every group, also those in saved images -/

/-- The body of a record with its group changed. -/
def ImageBody.mapGroup (f : Group → Group) : ImageBody → ImageBody
  | .group n g => .group n (f g)
  | b => b

/-- Every group of the package changed, saved ones included. -/
def State.mapGroups (s : State) (f : Group → Group) : State :=
  { s with
    teams := Map.mapVal s.teams (fun _ t => { t with groups := Map.mapVal t.groups (fun _ g => f g) })
    ctxs := Map.mapVal s.ctxs (fun _ c =>
      { c with images := Map.mapVal c.images (fun _ rs => rs.map (fun r => { r with body := r.body.mapGroup f })) }) }

/-- The group of a record. -/
def ImageBody.groups : ImageBody → List Group
  | .group _ g => [g]
  | _ => []

/-- Every group of the package, saved ones included. -/
def State.allGroups (s : State) : List Group :=
  (s.teams.map (fun t => t.2.groups.map (·.2))).flatten ++
    (s.ctxs.map (fun c => (c.2.images.map (fun i => (i.2.map (fun r => r.body.groups)).flatten)).flatten)).flatten

/-! ## Quiescence (R113) -/

/-- The lists of a die that hold items, as a mask. -/
def State.fullLists (s : State) (die : Nat) : DWord :=
  maskOf ((List.range 64).filter (fun l => !(Map.get [] s.lists (64 * die + l)).isEmpty))

/-- A group has a fragment parked in `wlquiet` of a die. -/
def Group.waitsIn (g : Group) (die : Nat) : Bool :=
  g.frags.any (fun f => match f.2.park with | some (.quiet d _ _) => d == die | _ => false)

/-- All lists of a die are empty and every registered worker waits. -/
def State.quiescent (s : State) (die : Nat) : Bool :=
  s.fullLists die == 0 && s.allGroups.all (fun g => !(g.worker == some die && g.alive) || g.waitsIn die)

/-- The waits of a die that `pick` answers are over with its value. -/
def Group.answer (die : Nat) (pick : DWord → Option DWord) (g : Group) : Group :=
  { g with
    frags := Map.mapVal g.frags (fun _ f =>
      match f.park with
      | some (.quiet d mask reg) =>
        if d = die then (match pick mask with | some x => { f with park := some (.got reg x) } | none => f) else f
      | _ => f) }

/-- Where a die has become quiescent, every parked `wlquiet` returns 0, and the state holds until the next append. -/
def State.settleQuiet (s : State) (die : Nat) : State :=
  if s.quiescent die then
    { s.mapGroups (Group.answer die (fun _ => some 0)) with
      quiet := if s.quiet.contains die then s.quiet else die :: s.quiet }
  else s

/-- The units that can become quiescent: those with registered workers. -/
def State.settleUnits (s : State) : State :=
  (sortNats (s.allGroups.filterMap (·.worker))).foldl (fun s d => s.settleQuiet d) s

/-- WORKLIST_QUIESCENT (R113) -/
def execWorklistQuiescent (die : Nat) (s : State) : Res := .next (s.settleQuiet die)

/-! ## Instructions -/

/-- The die of the executing core, where its unit belongs to the team's context (R111). -/
def State.withUnit (s : State) (k : Nat → State) : State :=
  let die := s.ct.core / 64
  let owner := field (s.preg (0x802 + die)) 15 0
  if owner = 0 ∨ owner ≠ s.ct.ctx then s.raise 0x00B else k die

/-- An append to a list that has room: every parked `wlquiet` whose mask includes the list wakes with the lists it waits for. -/
def State.appendItem (s : State) (die list : Nat) (x : Word) : State :=
  let key := 64 * die + list
  let s := { s with
    lists := Map.set [] s.lists key (Map.get [] s.lists key ++ [x])
    quiet := s.quiet.filter (· != die) }
  let full := s.fullLists die
  s.mapGroups (Group.answer die (fun mask => if mask.getLsbD list then some (mask &&& full) else none))

/-- `wlapp` (R112) -/
def execWlapp (f : FmtE) (s : State) : Res :=
  .next (s.slot (.wlapp f) { reads := [.v f.a.toNat, .v f.b.toNat], writes := [.p f.d.toNat] } (fun s =>
    s.withUnit (fun die =>
      let g := s.cg
      let act := s.act
      let list (l : Nat) : Nat := (g.vreg f.b.toNat l).toNat
      let bad := s.lanes.filter (fun l => decide (63 < list l))
      if !bad.isEmpty then s.raise 0x00A (some (maskOf bad))
      else
        let turn (acc : Mask × State) (l : Nat) : Mask × State :=
          if (Map.get [] acc.2.lists (64 * die + list l)).length < 1024 then
            (acc.1 ||| maskOf [l], acc.2.appendItem die (list l) (g.vreg f.a.toNat l))
          else acc
        let r := s.lanes.foldl turn (0, s)
        (r.2.setG (·.setP f.d.toNat act r.1)).retire [.p f.d.toNat])))

/-- `wlpop` (R112) -/
def execWlpop (f : FmtE) (s : State) : Res :=
  .next (s.slot (.wlpop f) { reads := [.s f.b.toNat], writes := [.v f.d.toNat, .p f.a.toNat] } (fun s =>
    s.withUnit (fun die =>
      let b := s.cg.ureg f.b.toNat
      let act := s.act
      if field b 63 6 ≠ 0 then s.raise 0x002
      else
        let key := 64 * die + field b 5 0
        let items := Map.get [] s.lists key
        let got := s.lanes.take items.length
        let s := { s with lists := Map.set [] s.lists key (items.drop got.length) }
        let s := s.setG (fun g =>
          ((got.zip items).foldl (fun g p => g.setV f.d.toNat p.1 p.2) g).setP f.a.toNat act (maskOf got))
        (s.retire [.v f.d.toNat, .p f.a.toNat]).settleQuiet die)))

/-- `wlquiet` (R113) -/
def execWlquiet (f : FmtE) (s : State) : Res :=
  .next (s.slot (.wlquiet f) { reads := [.s f.a.toNat], writes := [.s f.d.toNat] } (fun s =>
    s.whenActs (fun s =>
      s.withUnit (fun die =>
        let mask := s.cg.ureg f.a.toNat
        let full := mask &&& s.fullLists die
        let put (x : DWord) : State := (s.setG (·.setU f.d.toNat x)).retire [.s f.d.toNat]
        if full ≠ 0 then put full
        else if s.quiet.contains die then put 0
        else (s.park (.quiet die mask f.d.toNat) [.s f.d.toNat]).settleQuiet die))))

/-- `wlquiet.reg` (R113) -/
def execWlquietReg (s : State) : Res :=
  .next (s.slot .wlquietReg {} (fun s =>
    s.whenActs (fun s => s.withUnit (fun die => (s.setG (fun g => { g with worker := some die })).retire []))))

/-- `wlquiet.unreg` (R113) -/
def execWlquietUnreg (s : State) : Res :=
  .next (s.slot .wlquietUnreg {} (fun s =>
    s.whenActs (fun s =>
      s.withUnit (fun die => ((s.setG (fun g => { g with worker := if g.worker = some die then none else g.worker })).retire []).settleQuiet die))))

end Sys2Proof.Machine
end

