-- ==== Sys2Proof/Machine/Control.lean ====
section
/-!
DEFINITION. Sys2Proof/Machine/Control.lean: no-operations, divergence and joins (R86 to R92), the other transfers of control
(R93, R94), parking and ages (R96 to R100).
-/

namespace Sys2Proof.Machine

/-! ## Transfers (R47, R94) -/

/-- A taken transfer to a code pointer: the slot it enters must be marked, unless the transfer only continues to the next slot;
a line that cannot be fetched takes its own cause at the target slot (R94). The mark is read from the line as it comes, before its parity
is checked: of a line that fails both fetches a clear bit is a 0x003 at the branch, and a set one leaves the 0x004 to the line (R45 and R47
give no order; DESIGN CHOICE, log 51). -/
def State.withMarked (s : State) (pc : CodePtr) (k : CodePtr → State) : State :=
  if pc = nextPc s.cf.pc then k pc
  else
    match s.fetch s.cur.ref s.ct.ctx (!s.cg.sys) (lineOfPc pc) with
    | .error .wait => s.fetchAsk s.cur.ref s.ct.ctx (!s.cg.sys) (lineOfPc pc)
    | .error _ => k pc
    | .ok (line, _) => if slotMarked line (slotOfPc pc) then k pc else s.raise 0x003 none pc

/-- A direct target (R59, R94): the branch's own line plus 64 x delta, computed exactly. -/
def State.withTarget (s : State) (f : FmtB) (k : CodePtr → State) : State :=
  let line : Int := (lineOfPc s.cf.pc : Int) + 64 * f.tline.toInt
  let pc := BitVec.ofInt 64 line + BitVec.ofNat 64 f.tslot.toNat
  if line < 0 ∨ 2 ^ 57 ≤ line then s.raise 0x003 none pc else s.withMarked pc k

/-- An indirect target (R94). -/
def State.withPointer (s : State) (x : CodePtr) (k : CodePtr → State) : State :=
  if pcOk x then s.withMarked x k else s.raise 0x003 none x

/-- A branch's join label. -/
def State.joinOf (s : State) (f : FmtB) : CodePtr :=
  BitVec.ofInt 64 ((lineOfPc s.cf.pc : Int) + 64 * f.jline.toInt) + BitVec.ofNat 64 f.jslot.toNat

/-! ## The split table (R84, R89, R90) -/

/-- Entries in use: each group's root entry while the group has lanes or entries, and every entry that a split created. That a
finished group's root entry joins the team's pool is the model's reading of "gives up" (R92, DESIGN CHOICE, log 48). -/
def Team.usedEntries (t : Team) : Nat :=
  t.groups.foldl
    (fun n g =>
      let made := (g.2.frags.filter (fun f => f.1 != g.1)).length
      n + made + (if g.2.alive || !g.2.frags.isEmpty then 1 else 0)) 0

/-- Whether a number is an entry of some group of the team. -/
def Team.entryUsed (t : Team) (n : Nat) : Bool := t.groups.any (fun g => Map.has g.2.frags n)

/-- The entry that a split takes: the least number that is no root entry and not in use (R89 says only "a free entry"; DESIGN CHOICE,
log 48). Root entries have their groups' numbers, so that a root comes first among equal stamps (R99). -/
def Team.freeEntry (t : Team) : Nat :=
  ((List.range 129).map (· + t.groupCount)).find? (fun n => !t.entryUsed n) |>.getD (t.groupCount + 129)

/-- Pending records of the group beyond the one that each entry holds: the spill area's records (R90). -/
def Group.spilled (g : Group) : Nat := g.frags.foldl (fun n f => n + (f.2.pend.length - 1)) 0

/-- Where a group's spill area holds its n-th record (R90, R107): 64 records of 32 bytes for each group slot. -/
def State.spillAt (s : State) (core slot n : Nat) : Nat :=
  field (s.preg 0x801) 47 21 * 2097152 + (core * 48 + slot) * 2048 + 32 * n

/-- An access to the n-th place of the executing group's spill area, under the checks of every access of a core (R3, R325): a home that
waits holds the slot, and one that refuses gives its cause at the slot, before any change, with the line's machine address in `tinfo0`
(which address, DESIGN CHOICE, log 47). -/
def State.atSpill (s : State) (n : Nat) (k : Nat → State) : State :=
  let a := s.spillAt s.ct.core s.cg.slot n
  match s.reach (alignDown 64 a) false with
  | .ok => k a
  | .wait => s
  | e => s.raise (e.cause.getD 0) none (BitVec.ofNat 64 (alignDown 64 a))

/-- The older record of a full pend moves into the group's spill area: the manual gives its bytes no layout, so that memory receives
free values and the record itself stays in the fragment's list (R90, DESIGN CHOICE, log 47). -/
def State.spillRecord (s : State) (a : Nat) : State :=
  s.homeWrite (alignDown 64 a) (a % 64) ((List.range 32).map (fun i => (i, Config.spillByte s.tick i)))

/-- A branch that cannot split runs its taken side first, and the other side waits in the fragment's own entry (R90). -/
def State.overflow (s : State) (a b : Mask) (target join : CodePtr) : State :=
  let f := s.cf
  let p : Pending := ⟨b, nextPc f.pc, join, f.om, f.em, f.join, false⟩
  ((s.retireTo target []).setF (fun f => { f with om := a, em := a, join := some join, pend := p :: f.pend })).setG
    (fun g => { g with grpcnt := setField g.grpcnt 31 0 (field g.grpcnt 31 0 + 1) })

/-- `bra` with lanes on both sides (R89, R90). -/
def State.split (s : State) (a b : Mask) (target join : CodePtr) : State :=
  let r := s.cur.ref
  let f := s.cf
  if s.ct.usedEntries < s.ct.entries then
    let n := s.ct.freeEntry
    let made : Frag :=
      { nullFrag with
        om := a, em := a, pc := target, join := some join, sib := some r.entry, parent := some r.entry
        save := some ⟨f.om, f.em, f.join, f.sib⟩, stamp := f.stamp }
    let s := s.retire []
    (s.setF (fun f => { f with om := b, em := b, join := some join, sib := some n })).setG
      (fun g => { g with frags := Map.put g.frags n made })
  else if f.pend.isEmpty then s.overflow a b target join
  else if field (s.preg 0x801) 47 21 == 0 || decide (64 ≤ s.cg.spilled) then s.raise 0x009
  else s.atSpill s.cg.spilled (fun p => (s.spillRecord p).overflow a b target join)

/-- `bra` (R89). A target that takes 0x003 does so before an overflow takes 0x009: R47 and R90 give them no order (DESIGN CHOICE,
log 48). -/
def execBra (f : FmtB) (s : State) : Res :=
  .next (s.slot (.bra f) {} (fun s =>
    let a := s.act
    let b := s.cf.em &&& ~~~a
    if a = 0 then s.retire []
    else s.withTarget f (fun pc => if b = 0 then s.retireTo pc [] else s.split a b pc (s.joinOf f))))

/-- `bra.u` (R93). -/
def execBraU (f : FmtB) (s : State) : Res :=
  .next (s.slot (.braU f) {} (fun s => s.whenActs (fun s => s.withTarget f (fun pc => s.retireTo pc []))))

/-- `jmp` (R93). -/
def execJmp (f : FmtB) (s : State) : Res :=
  .next (s.slot (.jmp f) {} (fun s => s.withTarget f (fun pc => s.retireTo pc [])))

/-- `jmpi` (R93, R94). -/
def execJmpi (f : FmtB) (s : State) : Res :=
  .next (s.slot (.jmpi f) { reads := [.s f.a.toNat] } (fun s =>
    s.withPointer (s.cg.ureg f.a.toNat) (fun pc => s.retireTo pc [])))

/-- `call` (R93): the return address goes into a register pair of every lane of `em`. -/
def execCall (f : FmtB) (s : State) : Res :=
  .next (s.slot (.call f) { writes := vregs f.a.toNat 2 } (fun s =>
    s.withTarget f (fun pc =>
      let back := nextPc s.cf.pc
      let lanes := bitsOf s.cf.em
      (s.setG (fun g => g.setLanes64 f.a.toNat lanes (fun _ => back))).retireTo pc (vregs f.a.toNat 2))))

/-- `ret` (R93, R94): every lane of `em` holds the same code pointer. -/
def execRet (f : FmtB) (s : State) : Res :=
  .next (s.slot (.ret f) { reads := vregs f.a.toNat 2 } (fun s =>
    match bitsOf s.cf.em with
    | [] => s.raise 0x008 (some 0)
    | l :: ls =>
      let x := s.cg.vpair f.a.toNat l
      let bad := ls.filter (fun k => s.cg.vpair f.a.toNat k != x)
      if bad.isEmpty then s.withPointer x (fun pc => s.retireTo pc []) else s.raise 0x008 (some (maskOf bad))))

/-- `loop` (R93). -/
def execLoop (f : FmtB) (s : State) : Res :=
  .next (s.slot (.loop f) { reads := [.s f.a.toNat], writes := [.s f.a.toNat] } (fun s =>
    s.whenActs (fun s =>
      let x := s.cg.ureg f.a.toNat - 1
      let put (s : State) : State := s.setG (·.setU f.a.toNat x)
      if x = 0 then (put s).retire [.s f.a.toNat]
      else s.withTarget f (fun pc => (put s).retireTo pc [.s f.a.toNat]))))

/-! ## Joins (R91, R92) -/

/-- A fragment goes to the pending side, or restores what the branch saved (R91). -/
def Frag.takePending (f : Frag) (exited : Mask) (p : Pending) (rest : List Pending) (x : CodePtr) : Frag :=
  if !p.phase then
    { f.goTo p.pc with om := p.mask &&& ~~~exited, em := p.mask &&& ~~~exited, pend := { p with phase := true } :: rest }
  else
    { f.goTo (nextPc x) with om := p.om &&& ~~~exited, em := p.em &&& ~~~exited, join := p.ojoin, pend := rest }

/-- No pending record at the join (R92): parked as arrived with a sibling, else ended. -/
def Group.settleAlone (g : Group) (e : Nat) : Group :=
  match (g.fragOf e).sib with
  | some _ => g.updFrag e (fun f => { f with wait := true, park := some .join, later := [] })
  | none => { g with frags := Map.erase g.frags e }

/-- A fragment whose `om` is empty has arrived at its join (R92): the pending side, then a wait for the sibling, else it ends.
Each turn of the loop takes one side of a pending record. -/
def Group.settle (g : Group) (e : Nat) : Nat → Group
  | 0 => g
  | fuel + 1 =>
    let f := g.fragOf e
    if f.om != 0 then g
    else
      match f.join, f.pend with
      | some j, p :: rest =>
        if p.join = j then Group.settle (g.updFrag e (fun f => f.takePending g.exited p rest j)) e fuel
        else g.settleAlone e
      | _, _ => g.settleAlone e

/-- Turns enough for every pending record of an entry. -/
def Group.settleAll (g : Group) (e : Nat) : Group := g.settle e (2 * (g.fragOf e).pend.length + 1)

/-- A fragment at its own join with no pending record there: it waits for its sibling, or goes on (R91). -/
def State.arriveAtJoin (s : State) : State :=
  match s.cf.sib with
  | none => s.retire []
  | some _ => (s.park .join).setF (fun f => { f with wait := true })

/-- A fragment at its own join takes its top pending record (R91). -/
def State.joinPending (s : State) (p : Pending) (rest : List Pending) (x : CodePtr) : State :=
  let ex := s.cg.exited
  ((((s.track []).setF (fun f => f.takePending ex p rest x)).setG
    (·.settleAll s.cur.ref.entry)).stopAtSafePoint s.stopAfter).stopBlocked s.cur.ref.team s.cur.ref.group

/-- `join` (R91). The move to a pending side is no taken transfer. A pop refills the entry from the spill area (R90), whose line is read. -/
def execJoin (s : State) : Res :=
  .next (s.slot .join {} (fun s =>
    let f := s.cf
    let x := f.pc
    if f.join ≠ some x then s.retire []
    else
      match f.line with
      | some (_, line) =>
        if !slotMarked line (slotOfPc x) then s.raise 0x003 none x
        else
          match f.pend with
          | p :: rest =>
            if p.join = x then
              if p.phase && !rest.isEmpty then s.atSpill (s.cg.spilled - 1) (fun a => (s.readLine (alignDown 64 a)).2.joinPending p rest x)
              else s.joinPending p rest x
            else s.arriveAtJoin
          | [] => s.arriveAtJoin
      | none => s))

/-- Two entries pair at a join: both wait there, and one of them is the other's sibling by the split that made it (R91). -/
def Group.fusePair (g : Group) (e : Nat) : Option (Nat × Nat) :=
  let f := g.fragOf e
  match f.sib with
  | none => none
  | some k =>
    let o := g.fragOf k
    if Map.has g.frags e && Map.has g.frags k && f.wait && o.wait && f.join == o.join then
      if f.parent == some k then some (e, k) else if o.parent == some e then some (k, e) else none
    else none

/-- Fusion (R91): the entry the split created gives its saved masks to the other one, which continues after the join. -/
def Group.fuse (g : Group) (child parent : Nat) : Group :=
  let c := g.fragOf child
  match c.save, c.join with
  | some sv, some x =>
    let g := g.updFrag parent (fun p =>
      { p.goTo (nextPc x) with
        om := sv.om &&& ~~~g.exited, em := sv.em &&& ~~~g.exited, join := sv.join, sib := sv.sib, wait := false
        park := none, later := [], sp := false })
    Group.settleAll { g with frags := Map.erase g.frags child } parent
  | _, _ => g

/-- FRAGMENT_FUSE: a fragment and its sibling, both waiting at their join, fuse (R91). A `join` that is an explicit safe point too stops
a group whose pre-emption was requested meanwhile (R61, R64). -/
def execFragmentFuse (r : FragRef) (s : State) : Res :=
  let g := s.groupAt r.team r.group
  if !s.live r || g.stop.isSome then .next s
  else
    match g.fusePair r.entry with
    | none => .next s
    | some (c, p) =>
      let stops := ((g.fragOf c).sp || (g.fragOf p).sp) && (s.teamOf r.team).request.isSome
      let s := s.updGroupAt r.team r.group (·.fuse c p)
      .next (if stops then s.updGroupAt r.team r.group Group.halt else s.stopBlocked r.team r.group)

/-- Lanes leave their fragment for good (R93): the arrival that this may complete (R217), then R92, and
the end of a registered worker (R113). -/
def State.exitLanes (s : State) (lanes : Mask) : State :=
  let r := s.cur.ref
  let pc := s.cf.pc
  let s := s.setG (fun g => { g with exited := g.exited ||| lanes })
  let s := (s.retire []).setF (fun f => { f with om := f.om &&& ~~~lanes, em := f.em &&& ~~~lanes })
  let s := s.exitArrival r pc
  ((s.setG (·.settleAll r.entry)).stopBlocked r.team r.group).settleUnits

/-- `exit` (R93): per lane; it parks where it would arrive at a clasp on an absent line (R197). -/
def execExit (s : State) : Res :=
  .next (s.slot .exit {} (fun s =>
    match s.exitGone s.cur.ref s.act with
    | some (team, lines) => s.parkOn team lines []
    | none => s.exitLanes s.act))

/-! ## Masks (R86): these instructions complete in their issue cycle -/

/-- `mfem` -/
def execMfem (f : FmtA) (s : State) : Res :=
  .next (s.slot (.mfem f) { writes := [.s f.d.toNat] } (fun s =>
    (s.setG (·.setU f.d.toNat s.cf.em)).retireNow))

/-- `mtem`, and `mtsp` to `em` (R81): lanes outside `om` stay out. -/
def State.setEm (s : State) (x : DWord) : State := s.setF (fun f => { f with em := x &&& f.om })

/-- `mtem`: a uniform register, or imm32 zero-extended. -/
def execMtem (f : FmtA) (s : State) : Res :=
  .next (s.slot (.mtem f) { reads := useB f false } (fun s => (s.setEm (s.cg.srcB f 0 false false)).retireNow))

/-- `mfom` -/
def execMfom (f : FmtA) (s : State) : Res :=
  .next (s.slot (.mfom f) { writes := [.s f.d.toNat] } (fun s =>
    (s.setG (·.setU f.d.toNat s.cf.om)).retireNow))

/-! ## No-operations, parking and ages -/

/-- `nop` (R68): every bit of its slot is zero, so that it reads no predicate and attaches to no flag. -/
def execNop (s : State) : Res := .next (s.setF (fun f => f.goTo (nextPc f.pc)))

/-- The live word: a no-op wherever it stands (R62). It has no header, so that no check of one applies. -/
def execLiveWord (s : State) : Res := .next (s.setF (fun f => f.goTo (nextPc f.pc)))

/-- The fragment's stamp becomes the newest on its core (R96, R99). -/
def State.renew (s : State) : State :=
  let n := s.newStamp s.ct.core
  n.2.setF (fun f => { f with stamp := n.1 })

/-- `yield` (R96). -/
def execYield (s : State) : Res := .next (s.slot .yield {} (fun s => s.whenActs (fun s => s.renew.retire [])))

/-- `nap` (R96): nothing issues in the n cycles after this one; n = 0 acts as `yield`. -/
def execNap (f : FmtA) (s : State) : Res :=
  .next (s.slot (.nap f) {} (fun s =>
    s.whenActs (fun s =>
      let n := (f.imm.extractLsb' 0 16).toNat
      if n = 0 then s.renew.retire [] else s.park (.nap (s.now + n + 1)))))

/-- NAP_EXPIRE: a napping fragment whose cycle has come goes on (R96). -/
def execNapExpire (r : FragRef) (s : State) : Res :=
  if s.live r && (s.groupAt r.team r.group).stop.isNone then
    match (s.fragAt r).park with
    | some (.nap wake) => .next (if wake ≤ s.now then s.wake r else s)
    | _ => .next s
  else .next s

end Sys2Proof.Machine
end

