-- ==== Sys2Proof/Machine/Integer.lean ====
section
/-!
DEFINITION. Sys2Proof/Machine/Integer.lean: integer, logic and predicate instructions of lanes (R121 to R136), the cross-lane
instructions (R137 to R142) and the uniform instructions (R143, R144).
-/

namespace Sys2Proof.Machine

/-! ## Values: functions of a type and the patterns A, B and C, each below 2^w (R122, R125 to R135) -/

def iAdd (t : Ty) (sat : Bool) (a b _c : Nat) : Nat := Ty.fit t sat (Ty.intOf t a + Ty.intOf t b)

def iSub (t : Ty) (sat : Bool) (a b _c : Nat) : Nat := Ty.fit t sat (Ty.intOf t a - Ty.intOf t b)

def iMin (t : Ty) (a b _c : Nat) : Nat := if Ty.intOf t b < Ty.intOf t a then b else a

def iMax (t : Ty) (a b _c : Nat) : Nat := if Ty.intOf t a < Ty.intOf t b then b else a

def iAbs (t : Ty) (sat : Bool) (a _b _c : Nat) : Nat := Ty.fit t sat ((Ty.intOf t a).natAbs : Int)

def iNeg (t : Ty) (sat : Bool) (a _b _c : Nat) : Nat := Ty.fit t sat (-(Ty.intOf t a))

def iMul (t : Ty) (sat : Bool) (a b _c : Nat) : Nat := Ty.fit t sat (Ty.intOf t a * Ty.intOf t b)

/-- The exact product shifted right by the width, arithmetically for a signed type (R127). -/
def iMulh (t : Ty) (a b _c : Nat) : Nat := Ty.wrap t (Ty.intOf t a * Ty.intOf t b / (2 ^ Ty.bits t : Nat))

def iMad (t : Ty) (sat : Bool) (a b c : Nat) : Nat := Ty.fit t sat (Ty.intOf t a * Ty.intOf t b + Ty.intOf t c)

/-- The 64-bit type of a widening instruction (R127). -/
def wideTy (t : Ty) : Ty := if Ty.signed t then .i64 else .n64

def iMadw (t : Ty) (sat : Bool) (a b c : Nat) : Nat :=
  Ty.fit (wideTy t) sat (Ty.intOf t a * Ty.intOf t b + Ty.intOf (wideTy t) c)

/-- The quotient and the remainder of R128. -/
def iDivRem (t : Ty) (sat : Bool) (a b : Nat) : Nat × Nat :=
  let x := Ty.intOf t a
  let y := Ty.intOf t b
  if y = 0 then (2 ^ Ty.bits t - 1, a)
  else if Ty.signed t ∧ x = Ty.minInt t ∧ y = -1 then (Ty.wrap t (if sat then Ty.maxInt t else Ty.minInt t), 0)
  else (Ty.wrap t (x.tdiv y), Ty.wrap t (x - x.tdiv y * y))

def iDiv (t : Ty) (sat : Bool) (a b _c : Nat) : Nat := (iDivRem t sat a b).1

def iRem (t : Ty) (a b _c : Nat) : Nat := (iDivRem t false a b).2

def iAnd (a b _c : Nat) : Nat := a &&& b

def iOr (a b _c : Nat) : Nat := a ||| b

def iXor (a b _c : Nat) : Nat := a ^^^ b

def iNot (t : Ty) (a _b _c : Nat) : Nat := 2 ^ Ty.bits t - 1 - a

def iAndn (t : Ty) (a b _c : Nat) : Nat := a &&& (2 ^ Ty.bits t - 1 - b)

/-- Bits of a number given by a function of the bit position. -/
def ofBits (w : Nat) (b : Nat → Bool) : Nat := (List.range w).foldl (fun x i => x + (if b i then 2 ^ i else 0)) 0

/-- The function of a truth table (R130). -/
def iLop3 (t : Ty) (table : Nat) (a b c : Nat) : Nat :=
  ofBits (Ty.bits t) (fun i =>
    table.testBit ((a.testBit i).toNat + 2 * (b.testBit i).toNat + 4 * (c.testBit i).toNat))

/-! Shifts by a count `n` below 2^32 (R131). -/

def iShl (t : Ty) (a n _c : Nat) : Nat := if Ty.bits t ≤ n then 0 else a * 2 ^ n % 2 ^ Ty.bits t

def iShr (t : Ty) (a n _c : Nat) : Nat := if Ty.bits t ≤ n then 0 else a / 2 ^ n

def iSra (t : Ty) (a n _c : Nat) : Nat :=
  let w := Ty.bits t
  let x : Int := if 2 ^ (w - 1) ≤ a then (a : Int) - (2 ^ w : Nat) else a
  (x / (2 ^ (Nat.min n w) : Nat) % (2 ^ w : Nat)).toNat

def iRol (t : Ty) (a n _c : Nat) : Nat :=
  let w := Ty.bits t
  a * 2 ^ (n % w) % 2 ^ w + a / 2 ^ (w - n % w)

def iRor (t : Ty) (a n _c : Nat) : Nat :=
  let w := Ty.bits t
  a / 2 ^ (n % w) + a * 2 ^ (w - n % w) % 2 ^ w

/-- The place and length of the field that the b operand of `bfx` and `bfi` describes, length 0 if it is empty (R132). -/
def bitField (w b : Nat) : Nat × Nat :=
  let pos := b % 256
  let len := b / 256 % 256
  if pos < w then (pos, Nat.min (pos + len) w - pos) else (0, 0)

def iBfx (t : Ty) (a b _c : Nat) : Nat :=
  let f := bitField (Ty.bits t) b
  let x := a / 2 ^ f.1 % 2 ^ f.2
  if f.2 = 0 then 0
  else if Ty.signed t && x.testBit (f.2 - 1) then Ty.wrap t ((x : Int) - (2 ^ f.2 : Nat))
  else x

def iBfi (t : Ty) (a b c : Nat) : Nat :=
  let f := bitField (Ty.bits t) b
  let below := a % 2 ^ f.1
  let above := a / 2 ^ (f.1 + f.2)
  if f.2 = 0 then a else below + (c % 2 ^ f.2) * 2 ^ f.1 + above * 2 ^ (f.1 + f.2)

def iPopc (t : Ty) (a : Nat) : Nat := popNat a (Ty.bits t)

def iClz (t : Ty) (a : Nat) : Nat := if a = 0 then Ty.bits t else Ty.bits t - 1 - Nat.log2 a

def iCtz (t : Ty) (a : Nat) : Nat := ((List.range (Ty.bits t)).find? (fun i => a.testBit i)).getD (Ty.bits t)

def iBrev (t : Ty) (a _b _c : Nat) : Nat := ofBits (Ty.bits t) (fun i => a.testBit (Ty.bits t - 1 - i))

/-- One output byte of `bperm` (R133). -/
def permByte (a b c i : Nat) : Nat :=
  let ctl := b / 256 ^ i % 256
  let j := ctl % 8
  let x := (if j < 4 then a / 256 ^ j else c / 256 ^ (j - 4)) % 256
  match ctl / 8 % 4 with
  | 0 => x
  | 1 => 0
  | 2 => if 128 ≤ x then 255 else 0
  | _ => 255 - x

def iBperm (a b c : Nat) : Nat :=
  permByte a b c 0 + 256 * permByte a b c 1 + 65536 * permByte a b c 2 + 16777216 * permByte a b c 3

/-- A condition on integers (R134). -/
def condInt (c : Cond) (x y : Int) : Bool :=
  match c with
  | .eq => decide (x = y)
  | .ne => decide (x ≠ y)
  | .lt => decide (x < y)
  | .le => decide (x ≤ y)
  | .gt => decide (y < x)
  | .ge => decide (y ≤ x)

/-- `lea`: A plus the extended 32-bit b shifted (R135). -/
def iLea (t : Ty) (sh : Nat) (a b _c : Nat) : Nat :=
  let x : Int := if Ty.signed t then Ty.intOf .i32 b else (b % 2 ^ 32 : Nat)
  Ty.wrap t (Ty.intOf t a + x * (2 ^ sh : Nat))

/-! ## Operands and results of lanes (R122) -/

/-- A register of a lane read as a pattern of a type. -/
def Group.regI (g : Group) (t : Ty) (r l : Nat) : Nat :=
  (if Ty.bits t = 64 then (g.vpair r l).toNat else (g.vreg r l).toNat) % 2 ^ Ty.bits t

/-- The b operand as a pattern of a type. -/
def Group.srcI (g : Group) (f : FmtA) (l : Nat) : Nat :=
  (g.srcB f l (Ty.bits f.ty == 64) (Ty.signed f.ty)).toNat % 2 ^ Ty.bits f.ty

/-- The b operand as a 32-bit value (R121). -/
def Group.src32 (g : Group) (f : FmtA) (l : Nat) : Nat := (g.srcB f l false false).toNat % 2 ^ 32

/-- `put`: a result of a type extended to 32 bits, or a pair. -/
def Group.putI (g : Group) (t : Ty) (d l x : Nat) : Group :=
  if Ty.bits t = 64 then g.setV64 d l (BitVec.ofNat 64 x) else g.setV d l (BitVec.ofInt 32 (Ty.intOf t x))

/-- The registers of an operand of a type. -/
def regsOf (t : Ty) (r : BitVec 8) : List Reg := vregs r.toNat (if Ty.bits t = 64 then 2 else 1)

/-- A predicate that a field names, 7 naming none. -/
def predReg (r : BitVec 8) : List Reg := if r.toNat < 7 then [.p r.toNat] else []

/-- Uses of d and a; of d, a and b; with a b that is one 32-bit value; with c too. -/
def usesDA (f : FmtA) : Uses := { reads := regsOf f.ty f.a, writes := regsOf f.ty f.d }

def usesDAB (f : FmtA) : Uses :=
  { reads := regsOf f.ty f.a ++ useB f (Ty.bits f.ty == 64), writes := regsOf f.ty f.d }

def usesDAb (f : FmtA) : Uses := { reads := regsOf f.ty f.a ++ useB f false, writes := regsOf f.ty f.d }

def Uses.and (u : Uses) (r w : List Reg) : Uses := { reads := u.reads ++ r, writes := u.writes ++ w }

/-- A result of a type in every participating lane, from the group as it was. -/
def State.eachLane (s : State) (t : Ty) (d : BitVec 8) (x : Group → Nat → Nat) (regs : List Reg) : State :=
  let g := s.cg
  (s.setG (fun h => s.lanes.foldl (fun h l => h.putI t d.toNat l (x g l)) h)).retire regs

/-- The same with a predicate written in the participating lanes too, which are those of the slot as it began (R57). -/
def State.eachLaneAnd (s : State) (t : Ty) (d pd : BitVec 8) (m : Mask) (x : Group → Nat → Nat) (regs : List Reg) : State :=
  let g := s.cg
  let act := s.act
  (s.setG (fun h => s.lanes.foldl (fun h l => h.putI t d.toNat l (x g l)) (h.setP pd.toNat act m))).retire regs

/-- A per-lane instruction of the form put(l, value of A, B and C). -/
def State.mapInt (s : State) (f : FmtA) (v : Nat → Nat → Nat → Nat) : State :=
  s.eachLane f.ty f.d (fun g l => v (g.regI f.ty f.a.toNat l) (g.srcI f l) (g.regI f.ty f.c.toNat l)) (regsOf f.ty f.d)

/-- The same with a b operand of 32 bits. -/
def State.mapInt32 (s : State) (f : FmtA) (v : Nat → Nat → Nat → Nat) : State :=
  s.eachLane f.ty f.d (fun g l => v (g.regI f.ty f.a.toNat l) (g.src32 f l) (g.regI f.ty f.c.toNat l)) (regsOf f.ty f.d)

/-- A count written to one 32-bit register. -/
def State.mapCount (s : State) (f : FmtA) (v : Nat → Nat) : State :=
  s.eachLane .n32 f.d (fun g l => v (g.regI f.ty f.a.toNat l)) [.v f.d.toNat]

def usesCount (f : FmtA) : Uses := { reads := regsOf f.ty f.a, writes := [.v f.d.toNat] }

/-- The lanes among the participating ones in which something holds, as a mask. -/
def State.laneMask (s : State) (p : Nat → Bool) : Mask := maskOf (s.lanes.filter p)

/-- A predicate written in every participating lane. -/
def State.writePred (s : State) (d : BitVec 8) (p : Nat → Bool) : State :=
  let m := s.laneMask p
  let act := s.act
  (s.setG (·.setP d.toNat act m)).retire (predReg d)

/-- The value of a source predicate in a lane: 7 is true (R117), negated by its md bit. -/
def Group.predAt (g : Group) (r : BitVec 8) (neg : Bool) (l : Nat) : Bool := (g.pred r.toNat).getLsbD l != neg

/-! ## Op 0x10: arithmetic (R125, R126) -/

/-- `add` -/
def execAdd (f : FmtA) (s : State) : Res :=
  .next (s.slot (.add f) (usesDAB f) (fun s => s.mapInt f (iAdd f.ty f.sat)))

/-- `sub` -/
def execSub (f : FmtA) (s : State) : Res :=
  .next (s.slot (.sub f) (usesDAB f) (fun s => s.mapInt f (iSub f.ty f.sat)))

/-- The carry-in of `addc` and `subb`: none where c is 7. -/
def Group.carryIn (g : Group) (f : FmtA) (l : Nat) : Nat :=
  if f.c.toNat = 7 then 0 else (g.predAt f.c f.nc l).toNat

/-- A carry chain: put of x modulo 2^w, and the carry-out into pC. -/
def State.carryOp (s : State) (f : FmtA) (x : Group → Nat → Int) : State :=
  let g := s.cg
  let out := s.laneMask (fun l => decide (x g l < 0) || decide ((2 ^ Ty.bits f.ty : Nat) ≤ x g l))
  s.eachLaneAnd f.ty f.d f.c out (fun _ l => Ty.wrap f.ty (x g l)) (regsOf f.ty f.d ++ predReg f.c)

/-- `addc` (R126) -/
def execAddc (f : FmtA) (s : State) : Res :=
  .next (s.slot (.addc f) ((usesDAB f).and (predReg f.c) (predReg f.c)) (fun s =>
    s.carryOp f (fun g l => g.regI f.ty f.a.toNat l + g.srcI f l + g.carryIn f l)))

/-- `subb` (R126) -/
def execSubb (f : FmtA) (s : State) : Res :=
  .next (s.slot (.subb f) ((usesDAB f).and (predReg f.c) (predReg f.c)) (fun s =>
    s.carryOp f (fun g l => (g.regI f.ty f.a.toNat l : Int) - g.srcI f l - g.carryIn f l)))

/-- `min` -/
def execMin (f : FmtA) (s : State) : Res := .next (s.slot (.min f) (usesDAB f) (fun s => s.mapInt f (iMin f.ty)))

/-- `max` -/
def execMax (f : FmtA) (s : State) : Res := .next (s.slot (.max f) (usesDAB f) (fun s => s.mapInt f (iMax f.ty)))

/-- `abs` -/
def execAbs (f : FmtA) (s : State) : Res :=
  .next (s.slot (.abs f) (usesDA f) (fun s => s.mapInt f (iAbs f.ty f.sat)))

/-- `neg` -/
def execNeg (f : FmtA) (s : State) : Res :=
  .next (s.slot (.neg f) (usesDA f) (fun s => s.mapInt f (iNeg f.ty f.sat)))

/-! ## Op 0x11: multiplication and division (R127, R128) -/

/-- `mul` -/
def execMul (f : FmtA) (s : State) : Res :=
  .next (s.slot (.mul f) (usesDAB f) (fun s => s.mapInt f (iMul f.ty f.sat)))

/-- `mulh` -/
def execMulh (f : FmtA) (s : State) : Res := .next (s.slot (.mulh f) (usesDAB f) (fun s => s.mapInt f (iMulh f.ty)))

/-- `mulhu` -/
def execMulhu (f : FmtA) (s : State) : Res := .next (s.slot (.mulhu f) (usesDAB f) (fun s => s.mapInt f (iMulh f.ty)))

/-- `mad` -/
def execMad (f : FmtA) (s : State) : Res :=
  .next (s.slot (.mad f) ((usesDAB f).and (regsOf f.ty f.c) []) (fun s => s.mapInt f (iMad f.ty f.sat)))

/-- `madw`: a and b of 32 bits, c and d pairs. -/
def execMadw (f : FmtA) (s : State) : Res :=
  let w := vregs f.d.toNat 2
  .next (s.slot (.madw f) { reads := .v f.a.toNat :: useB f false ++ vregs f.c.toNat 2, writes := w } (fun s =>
    s.eachLane (wideTy f.ty) f.d
      (fun g l => iMadw f.ty f.sat (g.regI f.ty f.a.toNat l) (g.srcI f l) (g.regI (wideTy f.ty) f.c.toNat l)) w))

/-- `div` -/
def execDiv (f : FmtA) (s : State) : Res :=
  .next (s.slot (.div f) (usesDAB f) (fun s => s.mapInt f (iDiv f.ty f.sat)))

/-- `divu` -/
def execDivu (f : FmtA) (s : State) : Res :=
  .next (s.slot (.divu f) (usesDAB f) (fun s => s.mapInt f (iDiv f.ty false)))

/-- `rem` -/
def execRem (f : FmtA) (s : State) : Res := .next (s.slot (.rem f) (usesDAB f) (fun s => s.mapInt f (iRem f.ty)))

/-- `remu` -/
def execRemu (f : FmtA) (s : State) : Res := .next (s.slot (.remu f) (usesDAB f) (fun s => s.mapInt f (iRem f.ty)))

/-! ## Op 0x12: logic (R129, R130) -/

/-- `and` -/
def execAnd (f : FmtA) (s : State) : Res := .next (s.slot (.and f) (usesDAB f) (fun s => s.mapInt f iAnd))

/-- `or` -/
def execOr (f : FmtA) (s : State) : Res := .next (s.slot (.or f) (usesDAB f) (fun s => s.mapInt f iOr))

/-- `xor` -/
def execXor (f : FmtA) (s : State) : Res := .next (s.slot (.xor f) (usesDAB f) (fun s => s.mapInt f iXor))

/-- `not` -/
def execNot (f : FmtA) (s : State) : Res := .next (s.slot (.not f) (usesDA f) (fun s => s.mapInt f (iNot f.ty)))

/-- `andn` -/
def execAndn (f : FmtA) (s : State) : Res := .next (s.slot (.andn f) (usesDAB f) (fun s => s.mapInt f (iAndn f.ty)))

/-- `lop3` -/
def execLop3 (f : FmtA) (s : State) : Res :=
  .next (s.slot (.lop3 f) ((usesDAB f).and (regsOf f.ty f.c) []) (fun s => s.mapInt f (iLop3 f.ty f.imm.toNat)))

/-! ## Op 0x13: shifts (R131) -/

/-- `shl` -/
def execShl (f : FmtA) (s : State) : Res := .next (s.slot (.shl f) (usesDAb f) (fun s => s.mapInt32 f (iShl f.ty)))

/-- `shr` -/
def execShr (f : FmtA) (s : State) : Res := .next (s.slot (.shr f) (usesDAb f) (fun s => s.mapInt32 f (iShr f.ty)))

/-- `sra` -/
def execSra (f : FmtA) (s : State) : Res := .next (s.slot (.sra f) (usesDAb f) (fun s => s.mapInt32 f (iSra f.ty)))

/-- `rol` -/
def execRol (f : FmtA) (s : State) : Res := .next (s.slot (.rol f) (usesDAb f) (fun s => s.mapInt32 f (iRol f.ty)))

/-- `ror` -/
def execRor (f : FmtA) (s : State) : Res := .next (s.slot (.ror f) (usesDAb f) (fun s => s.mapInt32 f (iRor f.ty)))

/-! ## Op 0x14: bit fields (R132, R133) -/

/-- `bfx` -/
def execBfx (f : FmtA) (s : State) : Res := .next (s.slot (.bfx f) (usesDAb f) (fun s => s.mapInt32 f (iBfx f.ty)))

/-- `bfi` -/
def execBfi (f : FmtA) (s : State) : Res :=
  .next (s.slot (.bfi f) ((usesDAb f).and (regsOf f.ty f.c) []) (fun s => s.mapInt32 f (iBfi f.ty)))

/-- `popc` -/
def execPopc (f : FmtA) (s : State) : Res := .next (s.slot (.popc f) (usesCount f) (fun s => s.mapCount f (iPopc f.ty)))

/-- `clz` -/
def execClz (f : FmtA) (s : State) : Res := .next (s.slot (.clz f) (usesCount f) (fun s => s.mapCount f (iClz f.ty)))

/-- `ctz` -/
def execCtz (f : FmtA) (s : State) : Res := .next (s.slot (.ctz f) (usesCount f) (fun s => s.mapCount f (iCtz f.ty)))

/-- `brev` -/
def execBrev (f : FmtA) (s : State) : Res := .next (s.slot (.brev f) (usesDA f) (fun s => s.mapInt f (iBrev f.ty)))

/-- `bperm` -/
def execBperm (f : FmtA) (s : State) : Res :=
  .next (s.slot (.bperm f) ((usesDAB f).and (regsOf f.ty f.c) []) (fun s => s.mapInt f iBperm))

/-! ## Ops 0x15 and 0x16: compare and move (R134, R135) -/

/-- `cmp` -/
def execCmp (c : Cond) (f : FmtA) (s : State) : Res :=
  .next (s.slot (.cmp c f)
    { reads := regsOf f.ty f.a ++ useB f (Ty.bits f.ty == 64) ++ predReg f.c, writes := predReg f.d } (fun s =>
      let g := s.cg
      s.writePred f.d (fun l =>
        condInt c (Ty.intOf f.ty (g.regI f.ty f.a.toNat l)) (Ty.intOf f.ty (g.srcI f l)) && g.predAt f.c f.nc l)))

/-- `mov` -/
def execMov (f : FmtA) (s : State) : Res :=
  .next (s.slot (.mov f) { reads := useB f (Ty.bits f.ty == 64), writes := regsOf f.ty f.d } (fun s =>
    s.mapInt f (fun _ b _ => b)))

/-- `movi` -/
def execMovi (f : FmtA) (s : State) : Res :=
  .next (s.slot (.movi f) { writes := regsOf f.ty f.d } (fun s => s.mapInt f (fun _ b _ => b)))

/-- `sel` -/
def execSel (f : FmtA) (s : State) : Res :=
  .next (s.slot (.sel f) ((usesDAB f).and (predReg f.c) []) (fun s =>
    s.eachLane f.ty f.d (fun g l => if g.predAt f.c f.nc l then g.regI f.ty f.a.toNat l else g.srcI f l)
      (regsOf f.ty f.d)))

/-- `sext` and `zext`: a narrow value, extended to one register, or to a pair for a 32-bit type. -/
def State.extend (s : State) (f : FmtA) (regs : List Reg) : State :=
  s.eachLane (if Ty.bits f.ty = 32 then wideTy f.ty else f.ty) f.d
    (fun g l => Ty.wrap (wideTy f.ty) (Ty.intOf f.ty (g.regI f.ty f.a.toNat l))) regs

/-- The destination of `sext` and `zext`. -/
def extRegs (f : FmtA) : List Reg := vregs f.d.toNat (if Ty.bits f.ty = 32 then 2 else 1)

/-- `sext` -/
def execSext (f : FmtA) (s : State) : Res :=
  .next (s.slot (.sext f) { reads := [.v f.a.toNat], writes := extRegs f } (fun s => s.extend f (extRegs f)))

/-- `zext` -/
def execZext (f : FmtA) (s : State) : Res :=
  .next (s.slot (.zext f) { reads := [.v f.a.toNat], writes := extRegs f } (fun s => s.extend f (extRegs f)))

/-- `lea` -/
def execLea (f : FmtA) (s : State) : Res :=
  .next (s.slot (.lea f) (usesDAb f) (fun s => s.mapInt32 f (iLea f.ty f.c.toNat)))

/-! ## Op 0x17: predicates (R136) -/

def usesPP (f : FmtA) : Uses := { reads := predReg f.a ++ predReg f.b, writes := predReg f.d }

/-- A predicate from two source predicates. -/
def State.predOp (s : State) (f : FmtA) (op : Bool → Bool → Bool) : State :=
  let g := s.cg
  s.writePred f.d (fun l => op (g.predAt f.a f.na l) (g.predAt f.b f.nb l))

/-- `pand` -/
def execPand (f : FmtA) (s : State) : Res := .next (s.slot (.pand f) (usesPP f) (fun s => s.predOp f (· && ·)))

/-- `por` -/
def execPor (f : FmtA) (s : State) : Res := .next (s.slot (.por f) (usesPP f) (fun s => s.predOp f (· || ·)))

/-- `pxor` -/
def execPxor (f : FmtA) (s : State) : Res := .next (s.slot (.pxor f) (usesPP f) (fun s => s.predOp f (· != ·)))

/-- `pnot` -/
def execPnot (f : FmtA) (s : State) : Res :=
  .next (s.slot (.pnot f) { reads := predReg f.a, writes := predReg f.d } (fun s => s.predOp f (fun a _ => !a)))

/-- p0 to p6 as registers. -/
def allPreds : List Reg := (List.range 7).map .p

/-- `pmfs` -/
def execPmfs (f : FmtA) (s : State) : Res :=
  .next (s.slot (.pmfs f) { reads := allPreds, writes := [.v f.d.toNat] } (fun s =>
    s.eachLane .n32 f.d (fun g l => ofBits 7 (fun k => (g.pred k).getLsbD l)) [.v f.d.toNat]))

/-- The predicates that the mask of `pmts` names. -/
def maskPreds (f : FmtA) : List Nat := (List.range 7).filter (fun k => f.imm.getLsbD k)

/-- `pmts` -/
def execPmts (f : FmtA) (s : State) : Res :=
  .next (s.slot (.pmts f) { reads := [.v f.a.toNat], writes := (maskPreds f).map .p } (fun s =>
    let g := s.cg
    let act := s.act
    (s.setG (fun h => (maskPreds f).foldl
      (fun h k => h.setP k act (s.laneMask (fun l => (g.vreg f.a.toNat l).getLsbD k))) h)).retire ((maskPreds f).map .p)))

/-! ## Ops 0x20 to 0x25: cross-lane work (R137 to R142) -/

/-- The source lane of `shfl` (R138). -/
def shflLane (m : ShflMode) (l k : Nat) : Int :=
  match m with
  | .idx => k
  | .up => (l : Int) - k
  | .down => l + k
  | .xor => (Nat.xor l k : Nat)

/-- The lane that `shfl` reads for a lane, if it is valid. -/
def State.shflSrc (s : State) (m : ShflMode) (f : FmtA) (l : Nat) : Option Nat :=
  let j := shflLane m l (s.cg.srcI f l % 2 ^ 32)
  if 0 ≤ j ∧ j < s.ct.width ∧ s.lanes.contains j.toNat then some j.toNat else none

/-- `shfl` -/
def execShfl (m : ShflMode) (f : FmtA) (s : State) : Res :=
  .next (s.slot (.shfl m f) ((usesDAB f).and [] (predReg f.c)) (fun s =>
    let ok := s.laneMask (fun l => (s.shflSrc m f l).isSome)
    s.eachLaneAnd f.ty f.d f.c ok (fun g l => g.regI f.ty f.a.toNat ((s.shflSrc m f l).getD l))
      (regsOf f.ty f.d ++ predReg f.c)))

/-- The participating lanes in which the predicate of a vote holds. -/
def State.voters (s : State) (f : FmtA) : Mask :=
  let g := s.cg
  s.laneMask (fun l => g.predAt f.a f.na l)

def usesVote (f : FmtA) : Uses := { reads := predReg f.a, writes := predReg f.d }

/-- `vany` -/
def execVany (f : FmtA) (s : State) : Res :=
  .next (s.slot (.vany f) (usesVote f) (fun s => let t := s.voters f; s.writePred f.d (fun _ => t != 0)))

/-- `vall` -/
def execVall (f : FmtA) (s : State) : Res :=
  .next (s.slot (.vall f) (usesVote f) (fun s => let t := s.voters f; s.writePred f.d (fun _ => t == s.act)))

/-- A uniform register written once for the fragment. -/
def State.writeU (s : State) (d : BitVec 8) (x : DWord) : State := (s.setG (·.setU d.toNat x)).retire [.s d.toNat]

/-- `vbal` -/
def execVbal (f : FmtA) (s : State) : Res :=
  .next (s.slot (.vbal f) { reads := predReg f.a, writes := [.s f.d.toNat] } (fun s => s.writeU f.d (s.voters f)))

/-- A value of a type extended to 64 bits. -/
def ext64 (t : Ty) (x : Nat) : DWord := BitVec.ofInt 64 (Ty.intOf t x)

/-- An operation over values, made to fit (R140). -/
def reduceI (t : Ty) (sat : Bool) (op : RedOp) (xs : List Nat) : Nat :=
  match op with
  | .add => Ty.fit t sat (xs.foldl (fun a x => a + Ty.intOf t x) 0)
  | _ => xs.foldl (intOp t (RedOp.mem op)) (identityOf t (RedOp.mem op))

/-- `vred` -/
def execVred (op : RedOp) (f : FmtA) (s : State) : Res :=
  .next (s.slot (.vred op f) { reads := regsOf f.ty f.a, writes := [.s f.d.toNat] } (fun s =>
    let g := s.cg
    s.writeU f.d (ext64 f.ty (reduceI f.ty f.sat op (s.lanes.map (fun l => g.regI f.ty f.a.toNat l))))))

/-- `vscan` -/
def execVscan (excl : Bool) (op : RedOp) (f : FmtA) (s : State) : Res :=
  .next (s.slot (.vscan excl op f) (usesDA f) (fun s =>
    let ls := s.lanes
    s.eachLane f.ty f.d
      (fun g l => reduceI f.ty f.sat op
        ((ls.filter (fun j => if excl then decide (j < l) else decide (j ≤ l))).map (fun j => g.regI f.ty f.a.toNat j)))
      (regsOf f.ty f.d)))

/-- `vcomp` -/
def execVcomp (f : FmtA) (s : State) : Res :=
  .next (s.slot (.vcomp f) ((usesDA f).and (predReg f.c) [.s f.b.toNat]) (fun s =>
    let g := s.cg
    let chosen := s.lanes.filter (fun l => g.predAt f.c f.nc l)
    let put (h : Group) (p : Nat × Nat) : Group := h.putI f.ty f.d.toNat p.1 (g.regI f.ty f.a.toNat p.2)
    (s.setG (fun h => ((s.lanes.zip chosen).foldl put h).setU f.b.toNat (BitVec.ofNat 64 chosen.length))).retire
      (regsOf f.ty f.d ++ [.s f.b.toNat])))

/-- The lane of `mfl` and `mtl`: it is in `om` and below the group's width, or cause 0x00E (R142). -/
def State.laneIndex (s : State) (f : FmtA) (k : Nat → State) : State :=
  let j := s.cg.srcB f 0 false false
  if j.toNat < s.ct.width ∧ s.cf.om.getLsbD j.toNat then k j.toNat else s.raise 0x00E none j

/-- `mfl` -/
def execMfl (f : FmtA) (s : State) : Res :=
  .next (s.slot (.mfl f) { reads := regsOf f.ty f.a ++ useB f false, writes := [.s f.d.toNat] } (fun s =>
    s.whenActs (fun s => s.laneIndex f (fun j => s.writeU f.d (BitVec.ofNat 64 (s.cg.regI f.ty f.a.toNat j))))))

/-- `mtl` -/
def execMtl (f : FmtA) (s : State) : Res :=
  .next (s.slot (.mtl f) { reads := .s f.a.toNat :: useB f false, writes := regsOf f.ty f.d } (fun s =>
    s.whenActs (fun s => s.laneIndex f (fun j =>
      (s.setG (fun g => g.putI f.ty f.d.toNat j ((g.ureg f.a.toNat).toNat % 2 ^ Ty.bits f.ty))).retire
        (regsOf f.ty f.d)))))

/-! ## Ops 0x30 to 0x36: uniform instructions (R143, R144) -/

def usesUA (f : FmtA) : Uses := { reads := [.s f.a.toNat], writes := [.s f.d.toNat] }

def usesUAB (f : FmtA) : Uses := { reads := .s f.a.toNat :: useB f false, writes := [.s f.d.toNat] }

/-- A uniform register read as a pattern of a type. -/
def Group.uregI (g : Group) (t : Ty) (r : BitVec 8) : Nat := (g.ureg r.toNat).toNat % 2 ^ Ty.bits t

/-- The value of a per-lane instruction applied to uniform registers, for an instruction that acts. -/
def State.mapU (s : State) (f : FmtA) (v : Nat → Nat → Nat → Nat) : State :=
  s.whenActs (fun s =>
    let g := s.cg
    s.writeU f.d (ext64 f.ty (v (g.uregI f.ty f.a) (g.srcI f 0) (g.uregI f.ty f.c))))

/-- The same with a b operand of 32 bits. -/
def State.mapU32 (s : State) (f : FmtA) (v : Nat → Nat → Nat → Nat) : State :=
  s.whenActs (fun s =>
    let g := s.cg
    s.writeU f.d (ext64 f.ty (v (g.uregI f.ty f.a) (g.src32 f 0) (g.uregI f.ty f.c))))

/-- `uadd` -/
def execUadd (f : FmtA) (s : State) : Res := .next (s.slot (.uadd f) (usesUAB f) (fun s => s.mapU f (iAdd f.ty f.sat)))

/-- `usub` -/
def execUsub (f : FmtA) (s : State) : Res := .next (s.slot (.usub f) (usesUAB f) (fun s => s.mapU f (iSub f.ty f.sat)))

/-- `umin` -/
def execUmin (f : FmtA) (s : State) : Res := .next (s.slot (.umin f) (usesUAB f) (fun s => s.mapU f (iMin f.ty)))

/-- `umax` -/
def execUmax (f : FmtA) (s : State) : Res := .next (s.slot (.umax f) (usesUAB f) (fun s => s.mapU f (iMax f.ty)))

/-- `umul` -/
def execUmul (f : FmtA) (s : State) : Res := .next (s.slot (.umul f) (usesUAB f) (fun s => s.mapU f (iMul f.ty f.sat)))

/-- `umad` -/
def execUmad (f : FmtA) (s : State) : Res :=
  .next (s.slot (.umad f) ((usesUAB f).and [.s f.c.toNat] []) (fun s => s.mapU f (iMad f.ty f.sat)))

/-- `uand` -/
def execUand (f : FmtA) (s : State) : Res := .next (s.slot (.uand f) (usesUAB f) (fun s => s.mapU f iAnd))

/-- `uor` -/
def execUor (f : FmtA) (s : State) : Res := .next (s.slot (.uor f) (usesUAB f) (fun s => s.mapU f iOr))

/-- `uxor` -/
def execUxor (f : FmtA) (s : State) : Res := .next (s.slot (.uxor f) (usesUAB f) (fun s => s.mapU f iXor))

/-- `ushl` -/
def execUshl (f : FmtA) (s : State) : Res := .next (s.slot (.ushl f) (usesUAB f) (fun s => s.mapU32 f (iShl f.ty)))

/-- `ushr` -/
def execUshr (f : FmtA) (s : State) : Res := .next (s.slot (.ushr f) (usesUAB f) (fun s => s.mapU32 f (iShr f.ty)))

/-- `usra` -/
def execUsra (f : FmtA) (s : State) : Res := .next (s.slot (.usra f) (usesUAB f) (fun s => s.mapU32 f (iSra f.ty)))

/-- `ubfx` -/
def execUbfx (f : FmtA) (s : State) : Res := .next (s.slot (.ubfx f) (usesUAB f) (fun s => s.mapU32 f (iBfx f.ty)))

/-- `ubfi` -/
def execUbfi (f : FmtA) (s : State) : Res :=
  .next (s.slot (.ubfi f) ((usesUAB f).and [.s f.c.toNat] []) (fun s => s.mapU32 f (iBfi f.ty)))

/-- `upopc` -/
def execUpopc (f : FmtA) (s : State) : Res :=
  .next (s.slot (.upopc f) (usesUA f) (fun s => s.mapU f (fun a _ _ => iPopc f.ty a)))

/-- `ucmp`: the predicate is written in every participating lane. -/
def execUcmp (c : Cond) (f : FmtA) (s : State) : Res :=
  .next (s.slot (.ucmp c f) { reads := .s f.a.toNat :: useB f false ++ predReg f.c, writes := predReg f.d } (fun s =>
    s.whenActs (fun s =>
      let g := s.cg
      let x := condInt c (Ty.intOf f.ty (g.uregI f.ty f.a)) (Ty.intOf f.ty (g.srcI f 0))
      s.writePred f.d (fun l => x && g.predAt f.c f.nc l))))

/-- `umov` -/
def execUmov (f : FmtA) (s : State) : Res :=
  .next (s.slot (.umov f) { reads := useB f false, writes := [.s f.d.toNat] } (fun s => s.mapU f (fun _ b _ => b)))

/-- `umovi` -/
def execUmovi (f : FmtA) (s : State) : Res :=
  .next (s.slot (.umovi f) { writes := [.s f.d.toNat] } (fun s => s.mapU f (fun _ b _ => b)))

/-- `ulea` -/
def execUlea (f : FmtA) (s : State) : Res :=
  .next (s.slot (.ulea f) (usesUAB f) (fun s => s.mapU32 f (iLea f.ty f.c.toNat)))

end Sys2Proof.Machine
end

