-- ==== Sys2Proof/Machine/MemInstr.lean ====
section
/-!
DEFINITION. Sys2Proof/Machine/MemInstr.lean: loads, stores, prefetch and buffer records (R269 to R272), the return from a page
fault (R279), non-coherent windows (R285, R286) and the harvest of dirty records (R288).
-/

namespace Sys2Proof.Machine

/-! ## Shared parts of loads and stores -/

/-- Bytes per access and registers of a per-lane instruction (R265, R270). -/
def mBytes (f : FmtM) : Nat := if Ty.bits f.ty < 32 then Ty.bits f.ty / 8 else 4 * (f.cnt.toNat + 1)

def mCount (f : FmtM) : Nat := if Ty.bits f.ty < 32 then 1 else f.cnt.toNat + 1

/-- Bytes per access of a uniform instruction. -/
def uBytes (f : FmtM) : Nat := Ty.bits f.ty / 8 * (f.cnt.toNat + 1)

/-- What a per-lane access asks. -/
def laneAsk (f : FmtM) (k : Kind) : Ask := ⟨Nat.min (Ty.bits f.ty / 8) 8, mBytes f, k, false⟩

def uniAsk (f : FmtM) (k : Kind) : Ask := ⟨Ty.bits f.ty / 8, uBytes f, k, true⟩

/-- The bytes of one lane as numbers; bytes that a dropped lane has none of are zero. -/
def laneNat (n : Nat) (xs : List (Nat × Nat × Byte)) (lane : Nat) : Nat :=
  natOfBytes ((laneBytes n xs lane).map (fun b => b.getD 0))

/-- Line requests of which some are remote: every one becomes a request whose reply the slot waits for; local lines are read
now. -/
def State.sendReads (s : State) (ls : List LineReq) : State :=
  let send (acc : List Nat × State) (r : LineReq) : List Nat × State :=
    match r.place with
    | .rem peer m =>
      let x := acc.2.sendReq false none peer r.va m .read r.bytes none
      (acc.1 ++ [x.1], x.2)
    | _ =>
      let y := acc.2.readReq r
      let x := y.2.sendReq false none s.selfPkg r.va 0 .read r.bytes (some (.data (y.1.getD [])))
      (acc.1 ++ [x.1], x.2)
  let r := ls.foldl send ([], s)
  r.2.setF (fun f => { f with sent := r.1 })

/-- A load: its lines are read, with replies of peers where some are remote. -/
def State.loadVia (s : State) (uniform : Bool) (res : Except MStop Resolved) (finish : List (Nat × Nat × Byte) → State → State) : State :=
  s.withReplies uniform
    (fun s =>
      match res with
      | .error e => s.memStop e
      | .ok r =>
        if r.lines.any (fun x => x.place.remote) then s.sendReads r.lines
        else let x := s.readReqs r.lines; finish x.1 x.2)
    finish

/-- A store of line requests, remote ones handed to the port (R362). -/
def State.storeLines (s : State) (ls : List LineReq) (data : Nat → Nat → Byte) : State :=
  ls.foldl
    (fun s r =>
      match r.place with
      | .rem peer m => (s.sendReq true none peer r.va m (.write (reqStores r data)) [] none).2
      | _ => s.storeReq r data)
    s

/-- A store through the address path. -/
def State.storeVia (s : State) (res : Except MStop Resolved) (data : Nat → Nat → Byte) : State :=
  match res with
  | .error e => s.memStop e
  | .ok r => (s.storeLines r.lines data).retire []

/-- Byte j of a number. -/
def byteAt (x j : Nat) : Byte := BitVec.ofNat 8 (x / 256 ^ j)

/-! ## Loads and stores (R269, R270) -/

/-- The registers that a load of consecutive registers writes, in a group. -/
def Group.putWords (g : Group) (d l : Nat) (x : Nat) : Nat → Group
  | 0 => g
  | n + 1 => Group.putWords (g.setV d l (BitVec.ofNat 32 x)) (d + 1) l (x / 2 ^ 32) n

/-- `ld` -/
def execLd (f : FmtM) (s : State) : Res :=
  let regs := vregs f.d.toNat (mCount f)
  .next (s.slot (.ld f) { reads := useX f, writes := regs } (fun s =>
    s.loadVia false (s.resolve f (laneAsk f .read) .plain true (s.laneIxs f)) (fun xs s =>
      let put (g : Group) (l : Nat) : Group :=
        let x := laneNat (mBytes f) xs l
        if Ty.bits f.ty < 32 then g.putI f.ty f.d.toNat l x else g.putWords f.d.toNat l x (mCount f)
      (s.setG (fun g => s.lanes.foldl put g)).retire regs)))

/-- The data of `st` and `vstc`: byte j of a lane's registers. -/
def Group.storeByte (g : Group) (f : FmtM) (l j : Nat) : Byte := byteAt (g.vreg (f.d.toNat + j / 4) l).toNat (j % 4)

/-- `st` -/
def execSt (f : FmtM) (s : State) : Res :=
  .next (s.slot (.st f) { reads := useX f ++ vregs f.d.toNat (mCount f) } (fun s =>
    let g := s.cg
    s.storeVia (s.resolve f (laneAsk f .write) .plain true (s.laneIxs f)) (g.storeByte f)))

/-- `ldu` and `stu` do not go through an interleave record (R270). -/
def State.notInterleaved (s : State) (slot : Nat) (k : State → State) : State :=
  if (s.ct.record slot).mode == .interleave then s.raise 0x04D else k s

/-- `ldu` -/
def execLdu (f : FmtM) (s : State) : Res :=
  let regs := uregs f.d.toNat (f.cnt.toNat + 1)
  let w := Ty.bits f.ty / 8
  .next (s.slot (.ldu f) { reads := useX f, writes := regs } (fun s =>
    s.whenActs (fun s =>
      s.notInterleaved f.bf.toNat (fun s =>
        s.loadVia true (s.resolve f (uniAsk f .read) .plain true (s.oneIx f)) (fun xs s =>
          let x := laneNat (uBytes f) xs 0
          let put (g : Group) (i : Nat) : Group :=
            g.setU (f.d.toNat + i) (BitVec.ofNat 64 (x / 256 ^ (w * i) % 256 ^ w))
          (s.setG (fun g => (List.range (f.cnt.toNat + 1)).foldl put g)).retire regs)))))

/-- `stu` -/
def execStu (f : FmtM) (s : State) : Res :=
  let w := Ty.bits f.ty / 8
  .next (s.slot (.stu f) { reads := useX f ++ uregs f.d.toNat (f.cnt.toNat + 1) } (fun s =>
    s.whenActs (fun s =>
      s.notInterleaved f.bf.toNat (fun s =>
        let g := s.cg
        s.storeVia (s.resolve f (uniAsk f .write) .plain true (s.oneIx f))
          (fun _ j => byteAt (g.ureg (f.d.toNat + j / w)).toNat (j % w))))))

/-- `pfh` (R271): accesses of one byte are never misaligned, every other failure is dropped, and it completes at issue. -/
def execPfh (f : FmtM) (s : State) : Res :=
  .next (s.slot (.pfh f) { reads := useX f } (fun s => s.retireNow))

/-! ## Buffer records (R272) -/

/-- A record checked by R264 and written to a slot. -/
def State.setRecord (s : State) (k : Nat) (x : BitVec 256) : State :=
  if recordBad x then s.raise 0x042 else (s.setT (fun t => { t with bf := Map.set 0 t.bf k x })).retire []

/-- `ldbf`: out of bounds faults whatever the record's oob. -/
def execLdbf (f : FmtM) (s : State) : Res :=
  .next (s.slot (.ldbf f) { reads := useX f } (fun s =>
    s.whenActs (fun s =>
      let r := (s.ct.record f.bf.toNat).asStrict
      s.loadVia true (s.resolveRec r f.bf.toNat f.off ⟨32, 32, .read, true⟩ .plain true (s.oneIx f)) (fun xs s =>
        s.setRecord f.d.toNat (BitVec.ofNat 256 (laneNat 32 xs 0))))))

/-- `mkbf` -/
def execMkbf (f : FmtE) (s : State) : Res :=
  .next (s.slot (.mkbf f) { reads := uregs f.a.toNat 4 } (fun s =>
    s.whenActs (fun s =>
      let g := s.cg
      let a := f.a.toNat
      s.setRecord (f.imm.extractLsb' 0 5).toNat (g.ureg (a + 3) ++ g.ureg (a + 2) ++ g.ureg (a + 1) ++ g.ureg a))))

/-- `bfq` -/
def execBfq (f : FmtE) (s : State) : Res :=
  .next (s.slot (.bfq f) { writes := [.s f.d.toNat] } (fun s =>
    s.whenActs (fun s =>
      let x : BitVec 256 := Map.get 0 s.ct.bf (f.imm.extractLsb' 0 5).toNat
      s.writeU f.d (x.extractLsb' (64 * f.sub.toNat) 64))))

/-! ## Non-coherent windows (R285, R286) -/

/-- The virtual lines of one-byte accesses. -/
def State.windowBytes (s : State) (f : FmtM) : Except MStop (List (Nat × List (Nat × Nat × Nat))) :=
  let t := s.ct
  let r := t.record f.bf.toNat
  let g := s.cur.ref.group
  match checkLanes t r g f.off f.bf.toNat ⟨1, 1, .read, false⟩ (s.laneIxs f) with
  | .error e => .error e
  | .ok (live, _) => .ok (coalesce (allBytes t r g f.off 1 live))

/-- The lines of one-byte accesses, without those whose page is not present (R285). -/
def State.windowLines (s : State) (f : FmtM) : Except MStop (List LineReq) :=
  let t := s.ct
  let a : Ask := ⟨1, 1, .read, false⟩
  match s.windowBytes f with
  | .error e => .error e
  | .ok ls =>
    let absent (va : Nat) : Bool :=
      match s.translate t.ctx (!s.cg.sys) .read va with
      | .error (.trap c _ _ _ _) => c == 0x048
      | _ => false
    match translateLines s t.ctx (!s.cg.sys) f.bf.toNat a (ls.filter (fun p => !absent p.1)) with
    | .error e => .error e
    | .ok reqs =>
      match stepSix a (reqs.map (fun x => (x, match x.place with | .nc m => s.reachNc t.core m | _ => .ok))) with
      | some e => .error e
      | none => .ok reqs

/-- The walks of the lines of one-byte accesses have been made (R276), those of pages that are not present among them. -/
def State.windowLooked (s : State) (f : FmtM) : State :=
  match s.windowBytes f with
  | .error _ => s
  | .ok ls =>
    ls.foldl (fun s l =>
      match s.lookup s.ct.ctx l.1 with
      | .leaf _ _ => s.cache s.ct.ctx l.1
      | _ => s.looked s.ct.ctx l.1) s

/-- `wbl` and `invl`: dirty bytes go home, and `invl` discards the copies. -/
def State.cleanLines (s : State) (f : FmtM) (discard : Bool) : State :=
  match s.windowLines f with
  | .error e => s.memStop e
  | .ok reqs =>
    let core := s.ct.core
    let clean (s : State) (r : LineReq) : State :=
      match r.place with
      | .nc m => let s := s.writeBackNc core m; if discard then s.dropNc core m else s
      | _ => s
    (reqs.foldl clean (s.windowLooked f)).retire []

/-- `wbl` -/
def execWbl (f : FmtM) (s : State) : Res :=
  .next (s.slot (.wbl f) { reads := useX f } (fun s => s.cleanLines f false))

/-- `invl` -/
def execInvl (f : FmtM) (s : State) : Res :=
  .next (s.slot (.invl f) { reads := useX f } (fun s => s.cleanLines f true))

/-- The fields of a window register pair: enable, first address, limit. -/
def winBase (b : DWord) : Nat := 4096 * field b 56 12

/-- Why `rngw` refuses a pair (R286). -/
def Ctx.windowBad (c : Ctx) (n : Nat) (b l : DWord) : Bool :=
  let en := b.getLsbD 0
  field b 63 57 != 0 || field b 11 1 != 0 || field l 63 57 != 0 || field l 11 0 != 0
  || (en && decide (winBase l ≤ winBase b))
  || (en && (List.range 16).any (fun i =>
        let b' := c.sreg (0x410 + i)
        let l' := c.sreg (0x420 + i)
        i != n && b'.getLsbD 0 && decide (winBase b < winBase l') && decide (winBase b' < winBase l)))

/-- The copies of a context's lines in a virtual range, with their cores in ascending order. -/
def State.copiesIn (s : State) (ctx lo hi : Nat) : List (Nat × Nat × NcLine) :=
  (s.nc.map (fun p =>
    p.2.filterMap (fun q =>
      if q.2.ctx = ctx ∧ lo ≤ q.2.va ∧ q.2.va < hi then some (p.1, q.1, q.2) else none))).flatten

/-- Bytes dirty in more than one of some copies (R286). -/
def overlapCount (l : List (Nat × Nat × NcLine)) : Nat :=
  let lines := sortNats (l.map (fun p => p.2.1))
  lines.foldl
    (fun n m =>
      let here := l.filter (fun p => p.2.1 == m)
      n + ((List.range 64).filter (fun i =>
        decide (1 < (here.filter (fun p => p.2.2.mask.getLsbD i)).length))).length) 0

/-- Step 2 of R286: dirty bytes applied at the home in ascending core number, copies discarded, overlaps counted. -/
def State.closeWindow (s : State) (ctx lo hi : Nat) : State :=
  let l := s.copiesIn ctx lo hi
  let s := l.foldl (fun s p => (s.writeBackNc p.1 p.2.1).dropNc p.1 p.2.1) s
  s.updCtx ctx (fun c => c.setSreg 0x430 (c.sreg 0x430 + BitVec.ofNat 64 (overlapCount l)))

/-- Step 3 of R286: every coherent cached copy of the window's lines is recalled. All copies are, and with them those: a cache may give
up a line at any time, which no program sees (R311, DESIGN CHOICE, log 40). -/
def State.openWindow (s : State) : State := { s with lineOwner := [] }

/-- The write-back of a copy in a range that fails (R325). -/
def State.closeStop (s : State) (ctx lo hi : Nat) : Option MStop :=
  (s.copiesIn ctx lo hi).findSome? (fun p => s.ncStop p.1 p.2.1 p.2.2.va)

/-- `rngw` (R286) -/
def execRngw (f : FmtS) (s : State) : Res :=
  .next (s.slot (.rngw f) { reads := uregs f.a.toNat 2 } (fun s =>
    s.whenActs (fun s =>
      let n := (f.imm.extractLsb' 0 4).toNat
      let b := s.cg.ureg f.a.toNat
      let l := s.cg.ureg (f.a.toNat + 1)
      let ctx := s.ct.ctx
      let c := s.cc
      if c.windowBad n b l then s.raise 0x04D
      else
        let ob := c.sreg (0x410 + n)
        let lo := winBase ob
        let hi := if ob.getLsbD 0 then winBase (c.sreg (0x420 + n)) else lo
        match s.closeStop ctx lo hi with
        | some e => s.memStop e
        | none =>
          let s := if ob.getLsbD 0 then s.closeWindow ctx lo hi else s
          let s := s.updCtx ctx (fun c => (c.setSreg (0x410 + n) b).setSreg (0x420 + n) l)
          let s := if b.getLsbD 0 then s.openWindow else s
          s.retire [])))

/-! ## The return from a page fault (R279) -/

/-- Whether the fault of a handler still stands: none while the walk waits. -/
def State.unresolved (s : State) : Option Bool :=
  let g := s.cg
  let x := g.tfReg 0x473
  if field (g.tfReg 0x470) 8 0 = 0x048 then
    match s.walk s.ct.ctx x.toNat with
    | .wait => none
    | .fail c _ _ => some (c == 0x048)
    | .leaf _ _ => some false
  else some (decide ((s.ct.record (field (g.tfReg 0x475) 4 0)).hwm < x.toNat))

/-- The walk that `frply` makes for a 0x048 loads the entries it reads (R276). -/
def State.frplyWalked (s : State) : State :=
  let g := s.cg
  if field (g.tfReg 0x470) 8 0 = 0x048 then s.walked s.ct.ctx (g.tfReg 0x473).toNat else s

/-- `frply`: a hardware cause 0x048 or 0x04A has entered the handler, else 0x047; the fault still stands, 0x049; otherwise the
group is restored as by `tret` and issues the instruction at `taddr` again. -/
def execFrply (s : State) : Res :=
  .next (s.slot .frply {} (fun s =>
    let g := s.cg
    let code := field (g.tfReg 0x470) 8 0
    if !g.ent || (g.tfReg 0x470).getLsbD 11 || (code != 0x048 && code != 0x04A) then s.raise 0x047
    else
      match s.unresolved with
      | none => s
      | some true => s.frplyWalked.raise 0x049
      | some false =>
        let s := s.frplyWalked
        let back := g.tfReg 0x471
        ((s.track []).returnFromTrap.setF (fun f => { f with pc := back })).stopAtSafePoint s.stopAfter))

/-! ## Dirty records (R287, R288) -/

/-- The lines of a granule lose their write ownership, and lines in C are merged. -/
def State.recallGranule (s : State) (granule : Nat) : State :=
  (List.range 64).foldl (fun s i => s.recall (4096 * granule + 64 * i)) s

/-- Some line in C of a recorded granule lies in a frame that is to come back before its merge (R323). -/
def State.harvestWaits (s : State) (g0 n : Nat) : Bool :=
  s.cLines.any (fun p =>
    let g := p.1 / 64
    decide (g0 ≤ g) && decide (g < g0 + n) && Map.get false s.dirty g && s.reach (64 * p.1) true == .wait)

/-- Sixty-four granules from one are harvested: their records as bits, cleared, with ownership revoked where one was set. -/
def State.harvest (s : State) (g0 : Nat) : Nat × State :=
  (List.range 64).foldl
    (fun acc j =>
      let s := acc.2
      if Map.get false s.dirty (g0 + j) then
        let s := s.recallGranule (g0 + j)
        (acc.1 + 2 ^ j, { s with dirty := Map.erase s.dirty (g0 + j) })
      else acc)
    (0, s)

/-- The line request of one n64 word of the bitmap. -/
def wordReq (va : Nat) (p : Place) : LineReq := ⟨va / 64 * 64, p, (List.range 8).map (fun j => (0, j, va % 64 + j))⟩

/-- The translations of the bitmap's words, before anything is harvested. -/
def State.bitmapReqs (s : State) (va n : Nat) : Except MStop (List LineReq) :=
  let t := s.ct
  let a : Ask := ⟨8, 8, .write, true⟩
  if 2 ^ 57 < va + 8 * n then .error (.trap 0x04E none (BitVec.ofNat 64 (Nat.max va (2 ^ 57))) 0 0)
  else
    let bytes := (List.range n).map (fun i => (va + 8 * i, [(0, i, (va + 8 * i) % 64)]))
    match translateLines s t.ctx (!s.cg.sys) 0 a (bytes.map (fun p => (alignDown 64 p.1, p.2))) with
    | .error e => .error e
    | .ok reqs =>
      let reqs := (List.range n).map (fun i => wordReq (va + 8 * i) ((reqs.getD i ⟨0, .loc 0, []⟩).place))
      match s.placeStop .plain reqs with
      | some e => .error e
      | none => checkReach s t.core true a reqs

/-- Harvest after harvest, each followed by the store of its word. -/
def State.harvestAll (s : State) (g0 : Nat) : List LineReq → Nat × State
  | [] => (0, s)
  | r :: rs =>
    let h := s.harvest g0
    let s := h.2.storeLines [r] (fun _ j => byteAt h.1 j)
    let rest := State.harvestAll s (g0 + 64) rs
    (popNat h.1 64 + rest.1, rest.2)

/-- `dharv` (R288): its stores are translated before the first harvest. -/
def execDharv (f : FmtE) (s : State) : Res :=
  .next (s.slot (.dharv f) { reads := uregs f.a.toNat 2 ++ [.s f.b.toNat], writes := [.s f.d.toNat] } (fun s =>
    s.whenActs (fun s =>
      let g := s.cg
      let a := (g.ureg f.a.toNat).toNat
      let n := (g.ureg (f.a.toNat + 1)).toNat
      let va := (g.ureg f.b.toNat).toNat
      if a % 4096 ≠ 0 ∨ n % 64 ≠ 0 ∨ n < 64 ∨ 2 ^ 22 < n ∨ va % 8 ≠ 0 ∨ s.frameEnd < a + 4096 * n then s.raise 0x04D
      else
        match s.bitmapReqs va (n / 64) with
        | .error e => s.memStop e
        | .ok reqs =>
          if s.harvestWaits (a / 4096) n then s
          else
          let h := s.harvestAll (a / 4096) reqs
          h.2.writeU f.d (BitVec.ofNat 64 h.1))))

end Sys2Proof.Machine
end

