-- ==== Sys2Proof/Machine/Copies.lean ====
section
/-!
DEFINITION. Sys2Proof/Machine/Copies.lean: shape slots (R229), copies from issue to completion (R224, R231 to R240), batches
(R241 to R243).
-/

namespace Sys2Proof.Machine

/-! ## Shape slots (R229) -/

/-- `tsload`: the descriptor is checked before the slot changes. -/
def execTsload (f : FmtE) (s : State) : Res :=
  .next (s.slot (.tsload f) { reads := [.s f.a.toNat], writes := [.ts f.ts.toNat] } (fun s =>
    s.whenActs (fun s =>
      let off := s.cg.ureg f.a.toNat
      let n := (f.imm.extractLsb' 0 5).toNat
      if s.ct.slots ≤ f.ts.toNat then s.raise 0x140
      else if off.toNat % 64 ≠ 0 then s.raise 0x101 none off
      else
        let r := (s.ct.record n).asBytes
        s.loadVia true (s.resolveRec r n 0 ⟨1, 64, .read, true⟩ .plain true [⟨0, off.toNat⟩]) (fun xs s =>
          let x := BitVec.ofNat 512 (laneNat 64 xs 0)
          if descBad x then s.raise 0x142
          else (s.setT (fun t => { t with ts := Map.put t.ts f.ts.toNat x })).retire [.ts f.ts.toNat]))))

/-- `tsevict` -/
def execTsevict (f : FmtE) (s : State) : Res :=
  .next (s.slot (.tsevict f) { writes := [.ts f.ts.toNat] } (fun s =>
    s.whenActs (fun s =>
      if s.ct.slots ≤ f.ts.toNat then s.raise 0x140
      else (s.setT (fun t => { t with ts := Map.erase t.ts f.ts.toNat })).retire [])))

/-! ## Copy-queue entries (R223, R224) -/

/-- Entries of a team in use: its copies and collectives, and those given to parked instructions. -/
def State.entriesUsed (s : State) (team : Nat) : Nat :=
  (s.copies.filter (fun c => c.2.team == team)).length + (s.colls.filter (fun c => c.2.team == team)).length
    + (s.teamOf team).granted.length

def State.entriesFree (s : State) (team : Nat) : Nat := (s.teamOf team).copyq - s.entriesUsed team

/-- The executing instruction's entry is dropped, where it was given one. -/
def State.dropGrant (s : State) : State :=
  s.setT (fun t => { t with granted := t.granted.filter (· != s.cur.ref) })

/-- The executing instruction takes an entry: the one it was given, or a free one that nobody waits for; else it parks. -/
def State.takeEntry (s : State) (k : State → State) : State :=
  let t := s.ct
  if t.granted.contains s.cur.ref then k s.dropGrant
  else if 0 < s.entriesFree s.cur.ref.team && t.entryWait.isEmpty then k s
  else
    (s.setT (fun t => { t with entryWait := t.entryWait ++ [(s.cur.ref, none)] })).park (.again .entry)

/-- A check of an instruction that waits for an entry fails: an entry that it was given goes back. -/
def State.refuse (s : State) (e : MStop) : State :=
  match e with
  | .wait => s
  | e => s.dropGrant.memStop e

/-! ## What a copy moves -/

/-- A copy with nothing in it. -/
def nullCopy : Copy where
  kind := .load
  team := 0
  group := 0
  core := 0
  user := false
  addr := 0
  batch := 0
  desc := 0
  coords := []
  sp := 0
  clasp := none
  recX := 0
  offX := 0
  recY := 0
  offY := 0
  len := 0
  todo := []
  src := []
  own := []
  sent := []

def Copy.shape (c : Copy) : Desc := Desc.of c.desc

/-- Elements of the box that lie in scratchpad line i of its range. -/
def Copy.lineElems (c : Copy) (i : Nat) : List Nat :=
  let d := c.shape
  let per := 1024 / d.ty.bits
  ((List.range per).map (· + i * per)).filter (fun n => decide (n < d.boxCount))

/-- Bytes of the box in scratchpad line i of its range. -/
def Copy.lineBytes (c : Copy) (i : Nat) : Nat := min 128 (c.shape.boxBytes - 128 * i)

/-- The lines of the box's range. -/
def Copy.boxLines (c : Copy) : Nat := (c.shape.boxBytes + 127) / 128

/-- The memory bit address of the box's n-th element, none out of bounds. -/
def Copy.elemAt (c : Copy) (n : Nat) : Option Nat := c.shape.elemBit c.coords (boxIndex c.shape.box n)

/-- The scratchpad bit address of the box's n-th element. -/
def Copy.spAt (c : Copy) (n : Nat) : Nat := c.sp * 8 + c.shape.spBit n

/-- One datum that a copy moves: where it goes, where it comes from, both as bit addresses (the source none where the fill takes
its place), and its width. -/
structure Datum where
  dst : Nat
  src : Option Nat
  width : Nat
deriving DecidableEq, Repr

/-- The byte of memory that an offset through a raw record names (R265). -/
def recordByte (x : BitVec 256) (off : Nat) : Nat :=
  let r := BRec.of x
  r.base + swizzle r.swz off

/-- Segments of 64 bytes in a row of `cpystripe` (R237). -/
def Copy.segments (c : Copy) : Nat := c.shape.box.getD 0 1 * c.shape.ty.bits / 512

/-- The destination unit of segment g of row r (R237). -/
def stripeUnit (p segs r g : Nat) : Nat := r % p + p * (g + segs * (r / p))

/-- The destination byte offset of the box's n-th element in `cpystripe`. -/
def Copy.stripeBit (c : Copy) (p n : Nat) : Nat :=
  let d := c.shape
  let b := d.ty.bits
  let row := n / d.box.getD 0 1
  let o := n % d.box.getD 0 1 * b
  stripeUnit p c.segments row (o / 512) * 512 + o % 512

/-- Every datum of a copy. -/
def Copy.data (c : Copy) : List Datum :=
  let d := c.shape
  match c.kind with
  | .load | .window _ | .multicast _ => (List.range d.boxCount).map (fun n => ⟨c.spAt n, c.elemAt n, d.ty.bits⟩)
  | .store | .reduce _ =>
    (List.range d.boxCount).filterMap (fun n => (c.elemAt n).map (fun a => ⟨a, some (c.spAt n), d.ty.bits⟩))
  | .linear =>
    (List.range c.len).map (fun j => ⟨8 * recordByte c.recX (c.offX + j), some (8 * recordByte c.recY (c.offY + j)), 8⟩)
  | .stripe p =>
    (List.range d.boxCount).map (fun n =>
      let o := c.stripeBit p n
      ⟨8 * recordByte c.recX (c.offX + o / 8) + o % 8, c.elemAt n, d.ty.bits⟩)

/-- A copy whose destination is scratchpad. -/
def CopyKind.lands : CopyKind → Bool
  | .load | .window _ | .multicast _ => true
  | _ => false

/-- A copy whose source is scratchpad. -/
def CopyKind.fromSp : CopyKind → Bool
  | .store | .reduce _ => true
  | _ => false

/-- The destination line of a datum: a scratchpad line, or the address of a memory line. -/
def Copy.unitOf (c : Copy) (x : Datum) : Nat := if c.kind.lands then x.dst / 1024 else alignDown 64 (x.dst / 8)

/-- The source line of a datum. -/
def Copy.sourceOf (c : Copy) (a : Nat) : Nat := if c.kind.fromSp then a / 1024 else alignDown 64 (a / 8)

/-- The destination lines of a copy. -/
def Copy.units (c : Copy) : List Nat :=
  if c.kind.lands then (List.range c.boxLines).map (· + c.sp / 128) else sortNats (c.data.map c.unitOf)

/-- The data of one destination line. -/
def Copy.unitData (c : Copy) (u : Nat) : List Datum :=
  if c.kind.lands then
    (c.lineElems (u - c.sp / 128)).map (fun n => ⟨c.spAt n, c.elemAt n, c.shape.ty.bits⟩)
  else c.data.filter (fun x => c.unitOf x == u)

/-- The value of a datum among the source lines that have been read. -/
def Copy.valueOf (c : Copy) (x : Datum) : Nat :=
  match x.src with
  | none => c.shape.fillValue
  | some a =>
    let line := if c.kind.fromSp then 1024 else 512
    natOfBytes (Map.get [] c.src (c.sourceOf a)) / 2 ^ (a % line) % 2 ^ x.width

/-- A value of a width put at a bit address. -/
def Map.setBitsAt (m : Map Byte) (a w x : Nat) : Map Byte :=
  if w < 8 then
    let old := (Map.get 0 m (a / 8)).toNat
    let lo := a % 8
    Map.set 0 m (a / 8) (BitVec.ofNat 8 (old - old / 2 ^ lo % 2 ^ w * 2 ^ lo + x % 2 ^ w * 2 ^ lo))
  else Map.setBytes m (a / 8) (bytesOfNat (w / 8) x)

/-! ## Issue (R231 to R237) -/

/-- The teams whose scratchpads a copy lands in: ranks of the cluster for `cpymc`. R233 says nothing of paired teams: there the copy lands in
that half of each named rank which the issuer's half is (DESIGN CHOICE, log 34). -/
def State.copyTargets (s : State) (c : Copy) : List Nat :=
  match c.kind with
  | .multicast mask =>
    let t := s.teamOf c.team
    (s.teams.filter (fun p => p.2.sameCluster t && p.2.half == t.half && mask.testBit p.2.rank)).map (·.1)
  | _ => [c.team]

/-- The lines in local memory that a copy takes at issue: those that translate and that no fence is handing over. -/
def State.copyOwn (s : State) (c : Copy) : Map Nat :=
  c.todo.foldl
    (fun m va =>
      match s.translate (s.teamOf c.team).ctx c.user .write va with
      | .ok (.loc line) | .ok (.nc line) => if s.fenced line [] then m else Map.put m va line
      | _ => m) []

/-- The grant of write ownership that an engine takes of a line at issue (R239, R291): another agent's is recalled, the version advances and
the granule is recorded (R287, R298). A line in C is merged first, unless the copy is a reduction itself (R292, R293). A line that the home
does not serve now is granted when it is written. -/
def State.grantCopy (s : State) (c : Copy) (line : Nat) : State :=
  if s.reach line true (s.copies.map (·.1)) != .ok then s
  else
    let s := match c.kind with
      | .reduce _ => { s with lineOwner := Map.erase s.lineOwner (line / 64) }
      | _ => s.recall line
    (s.advance line).record line

/-- A copy issues: it takes its number, its destination lines become absent or its own, and it joins its group's batch. -/
def State.startCopy (s : State) (c : Copy) : State :=
  let id := s.nextCopy
  let c := { c with todo := c.units }
  let c := if c.kind.lands then c else { c with own := s.copyOwn c }
  let s := c.own.foldl (fun s p => s.grantCopy c p.2) s
  let s := { s with
    nextCopy := id + 1
    copies := Map.put s.copies id c
    locks := s.locks ++ c.own.map (fun p => (p.2, id)) }
  if c.kind.lands then
    (s.copyTargets c).foldl
      (fun s t =>
        if (s.teamOf t).status == .frozen then s
        else s.updTeam t (fun x => { x with absent := c.todo.foldl (fun m l => Map.set false m l true) x.absent })) s
  else s

/-- A copy instruction that passed its checks: an entry, then the copy, in the group's current batch. -/
def State.issueCopy (s : State) (c : Copy) : State :=
  s.takeEntry (fun s =>
    let g := s.cg
    let c := { c with
      team := s.cur.ref.team, group := s.cur.ref.group, core := s.ct.core, user := !g.sys, addr := s.cf.pc, batch := g.batch }
    (((s.startCopy c).setG (fun g => { g with inBatch := g.inBatch + 1 })).retire []))

/-- Checks 1 and 2 of R232, then those of the instruction with its descriptor. -/
def State.withSlot (s : State) (f : FmtE) (k : BitVec 512 → State) : State :=
  if s.ct.copyq = 0 then s.raise 0x144
  else if s.ct.slots ≤ f.ts.toNat then s.refuse (.trap 0x140 none 0 0 0)
  else
    match Map.find s.ct.ts f.ts.toNat with
    | none => s.refuse (.trap 0x141 none 0 0 0)
    | some x => k x

/-- The checks of scratchpad and clasp addresses (R231): 0x101, then 0x100. -/
def spRangeStop (sizes : List Nat) (x : DWord) (bytes : Nat) : Option MStop :=
  let sp := field x 31 0
  let clasp := field x 62 32
  let has := !x.getLsbD 63
  let out (size : Nat) : Bool := decide (size < alignUp 128 (sp + bytes)) || (has && decide (size < clasp + 16))
  if sp % 128 ≠ 0 then some (.trap 0x101 none (BitVec.ofNat 64 sp) 0 0)
  else if has && clasp % 8 != 0 then some (.trap 0x101 none (BitVec.ofNat 64 clasp) 0 0)
  else if sizes.any (fun z => decide (z < alignUp 128 (sp + bytes))) then some (.trap 0x100 none (BitVec.ofNat 64 sp) 0 0)
  else if sizes.any out then some (.trap 0x100 none (BitVec.ofNat 64 clasp) 0 0)
  else none

/-- The registers a copy reads: coordinates and the second operand. -/
def copyUses (f : FmtE) : Uses := { reads := uregs f.a.toNat 3 ++ [.s f.b.toNat, .ts f.ts.toNat] }

/-- A tile copy (R233): its shape rule beside the coordinates, its kind, and the scratchpads it must fit. -/
def State.tileCopy (s : State) (f : FmtE) (kind : CopyKind) (bad : Desc → List Int → Bool) (sizes : State → List Nat) :
    State :=
  s.whenActs (fun s =>
    s.withSlot f (fun x =>
      let g := s.cg
      let a := f.a.toNat
      let d := Desc.of x
      let coords := coordsOf (g.ureg a) (g.ureg (a + 1)) (g.ureg (a + 2))
      let b := g.ureg f.b.toNat
      if field (g.ureg (a + 2)) 63 32 ≠ 0 || bad d coords then s.refuse (.trap 0x143 none 0 0 0)
      else
        match spRangeStop (sizes s) b d.boxBytes with
        | some e => s.refuse e
        | none =>
          s.issueCopy { nullCopy with
            kind := kind, desc := x, coords := coords, sp := field b 31 0
            clasp := if b.getLsbD 63 then none else some (field b 62 32) }))

/-- A 4-bit type at an odd column. -/
def oddNibble (d : Desc) (coords : List Int) : Bool := d.ty.bits == 4 && coords.getD 0 0 % 2 != 0

def ownSize (s : State) : List Nat := [s.ct.spSize]

/-- `cpyld` -/
def execCpyld (f : FmtE) (s : State) : Res :=
  .next (s.slot (.cpyld f) (copyUses f) (fun s => s.tileCopy f .load oddNibble ownSize))

/-- `cpyst` -/
def execCpyst (f : FmtE) (s : State) : Res :=
  .next (s.slot (.cpyst f) (copyUses f) (fun s => s.tileCopy f .store oddNibble ownSize))

/-- A type that does not suit an operation of `cpyred` (R234). -/
def redTypeBad (op : RedOp) (t : Ty) : Bool :=
  match op with
  | .add | .min | .max => !([Ty.n32, .i32, .n64, .i64, .f32, .f16, .bf16].contains t)
  | .and | .or | .xor => !([Ty.n8, .n16, .n32, .n64, .i8, .i16, .i32, .i64].contains t)

/-- `cpyred` -/
def execCpyred (op : RedOp) (f : FmtE) (s : State) : Res :=
  .next (s.slot (.cpyred op f) (copyUses f) (fun s => s.tileCopy f (.reduce op) (fun d _ => redTypeBad op d.ty) ownSize))

/-- `cpymc`: the mask names ranks of the cluster, and each named team holds the range. -/
def execCpymc (f : FmtE) (s : State) : Res :=
  let mask := f.imm.toNat % 65536
  let kind : CopyKind := .multicast mask
  .next (s.slot (.cpymc f) (copyUses f) (fun s =>
    let ranks := (s.teams.filter (fun p => p.2.sameCluster s.ct)).map (·.2.rank)
    s.tileCopy f kind
      (fun _ _ => mask == 0 || (List.range 16).any (fun r => mask.testBit r && !ranks.contains r))
      (fun s => (s.copyTargets { nullCopy with kind := kind, team := s.cur.ref.team }).map (fun t => (s.teamOf t).spSize))))

/-- Two byte ranges overlap. -/
def overlaps (a b n : Nat) : Bool := decide (a < b + n) && decide (b < a + n)

/-- `cpyg` (R235, R236). The overlap is judged on base plus offset, without the swizzles of the records, and a length of 0 whose offset lies
beyond an extent takes its 0x040 before it completes (DESIGN CHOICE, log 34). -/
def execCpyg (f : FmtE) (s : State) : Res :=
  .next (s.slot (.cpyg f) { reads := [.s f.a.toNat, .s f.b.toNat, .s f.d.toNat] } (fun s =>
    s.whenActs (fun s =>
      let g := s.cg
      let n := g.ureg f.d.toNat
      let offX := (g.ureg f.a.toNat).toNat
      let offY := (g.ureg f.b.toNat).toNat
      let x : BitVec 256 := Map.get 0 s.ct.bf (f.imm.extractLsb' 0 5).toNat
      let y : BitVec 256 := Map.get 0 s.ct.bf (f.imm.extractLsb' 5 5).toNat
      let len := field n 31 0
      let rx := BRec.of x
      let ry := BRec.of y
      if s.ct.copyq = 0 then s.raise 0x144
      else if field n 63 32 ≠ 0 || rx.mode != .raw || ry.mode != .raw || offX % 4 != 0 || offY % 4 != 0 || len % 4 != 0
          || overlaps (rx.base + offX) (ry.base + offY) len then s.refuse (.trap 0x145 none 0 0 0)
      else if rx.extent < offX + len ∨ ry.extent < offY + len then
        s.refuse (.trap 0x040 none (BitVec.ofNat 64 (if rx.extent < offX + len then offX else offY)) 0 0)
      else if len = 0 then s.dropGrant.retire []
      else s.issueCopy { nullCopy with kind := .linear, recX := x, offX := offX, recY := y, offY := offY, len := len })))

/-- `cpystripe` (R237). The destination record may have any mode: its bytes are named by byte offset from its base, and its swizzle moves
them (DESIGN CHOICE, log 34). -/
def execCpystripe (f : FmtE) (s : State) : Res :=
  .next (s.slot (.cpystripe f) (copyUses f) (fun s =>
    s.whenActs (fun s =>
      s.withSlot f (fun x =>
        let g := s.cg
        let a := f.a.toNat
        let d := Desc.of x
        let off := (g.ureg f.b.toNat).toNat
        let p := (f.imm.extractLsb' 8 8).toNat + 1
        let r : BitVec 256 := Map.get 0 s.ct.bf (f.imm.extractLsb' 0 5).toNat
        let c : Copy := { nullCopy with
          kind := .stripe p, desc := x, coords := coordsOf (g.ureg a) (g.ureg (a + 1)) (g.ureg (a + 2)), recX := r, offX := off }
        let rows := d.box.getD 1 1
        let last := ((List.range rows).map (fun i => stripeUnit p c.segments i (c.segments - 1))).foldl Nat.max 0
        if field (g.ureg (a + 2)) 63 32 ≠ 0 || decide (2 < d.rank) || !([4, 8, 16].contains d.ty.bits)
            || d.box.getD 0 1 * d.ty.bits % 512 != 0 then s.refuse (.trap 0x143 none 0 0 0)
        else if off % 64 ≠ 0 then s.refuse (.trap 0x145 none 0 0 0)
        else if (BRec.of r).extent < off + 64 * (last + 1) then s.refuse (.trap 0x040 none (BitVec.ofNat 64 off) 0 0)
        else s.issueCopy c))))

/-! ## Transfers (R238 to R240) -/

/-- What a copy can do now at a line: go on with a state, wait with one, or meet a fault at a virtual address. -/
inductive CopyStep where
  | on (s : State)
  | waits (s : State)
  | fault (cause : BitVec 9) (addr : Nat)

/-- A failure of an access as the copy meets it: the address is the virtual one (R240). -/
def copyStop (s : State) (va : Nat) : MStop → CopyStep
  | .wait => .waits s
  | .trap c _ _ _ _ => .fault c va

def State.copyOf (s : State) (id : Nat) : Copy := Map.get nullCopy s.copies id

def State.updCopy (s : State) (id : Nat) (f : Copy → Copy) : State := { s with copies := Map.alter s.copies id f }

/-- A landing of copied bytes reaches a clasp of a team (R218, R233), unless the team is frozen (R220). -/
def State.landClasp (s : State) (c : Copy) (team bytes : Nat) : State :=
  match c.clasp with
  | none => s
  | some a =>
    if (s.teamOf team).status == .frozen then s
    else s.updTeam team (fun t => { t with landings := t.landings ++ [⟨a, bytes, .group c.team c.group c.addr⟩] })

/-- The checks of an engine's use of a peer's memory (R240, R360). -/
def State.copyPeerStop (s : State) (c : Copy) (peer va : Nat) : Option (BitVec 9) :=
  match s.viewStopOf (s.groupAt c.team c.group) with
  | some (.trap k _ _ _ _) => some k
  | _ => if s.peerBad peer then some 0x1C4 else if 2 ^ 57 ≤ va then some 0x04E else none

/-- A source line in scratchpad is read whole; its bytes of the box leave the clasp (R233). -/
def State.readSpLine (s : State) (id line : Nat) : CopyStep :=
  let c := s.copyOf id
  let t := s.teamOf c.team
  if t.lineAbsent line then .waits s
  else if t.badSp.contains line then .fault 0x10C (line * 128)
  else
    let s := s.updCopy id (fun c => { c with src := Map.put c.src line (Map.bytes t.sp (line * 128) 128) })
    .on (s.landClasp c c.team (c.lineBytes (line - c.sp / 128)))

/-- The machine lines that a copy has still to read or to write. -/
def State.copyNeeds (s : State) (id : Nat) : List Nat :=
  let c := s.copyOf id
  let ctx := (s.teamOf c.team).ctx
  let sources := if c.kind.fromSp then [] else sortNats (c.data.filterMap (fun x => x.src.map c.sourceOf))
  c.own.map (·.2) ++ (sources.filter (fun l => !Map.has c.src l)).filterMap (fun va =>
    match s.translate ctx c.user .read va with
    | .ok (.loc m) | .ok (.nc m) => some m
    | _ => none)

/-- A copy cannot end before another has written: it needs a line that the other owns, or one of a copy that waits for the other. -/
def State.copyWaitsFor (s : State) : Nat → Nat → Nat → Bool
  | 0, _, _ => false
  | n + 1, b, a =>
    (s.copyNeeds b).any (fun l =>
      s.locks.any (fun p => p.1 == l && p.2 != b && (p.2 == a || State.copyWaitsFor s n p.2 a)))

/-- The copies whose ownership does not hold a copy's read of a line: its own, and those that wait for it, since they would wait for each other
for ever (R239 gives no order there; DESIGN CHOICE, log 34). -/
def State.readsPast (s : State) (id line : Nat) : List Nat :=
  id :: ((s.locks.filter (fun p => p.1 == line)).map (·.2)).filter (fun b => s.copyWaitsFor s.copies.length b id)

/-- The copies whose ownership does not hold a copy's write of a line: its own, and, where it took the line at its issue, those that issued
after it, whose grants follow its write. A line that it did not take then waits for every copy that did (R239). -/
def State.writesPast (s : State) (id line : Nat) : List Nat :=
  (s.copies.map (·.1)).filter (fun b => b == id || (s.locks.contains (line, id) && decide (id < b)))

/-- A source line in memory is read as one access, or a request for it goes to its peer. -/
def State.readMemLine (s : State) (id va : Nat) : CopyStep :=
  let c := s.copyOf id
  let ctx := (s.teamOf c.team).ctx
  match c.sent.find? (fun p => p.1 == va) with
  | some (_, r) =>
    match Map.find s.reqs r with
    | none => .waits s
    | some q =>
      match q.reply with
      | none => .waits s
      | some (.data bs) =>
        .on ({ s with reqs := Map.erase s.reqs r }.updCopy id (fun c =>
          { c with src := Map.put c.src va bs, sent := c.sent.filter (fun p => p.1 != va) }))
      | some x => .fault ((RemoteReply.cause x).getD 0) va
  | none =>
    if 2 ^ 57 ≤ va then .fault 0x04E va
    else
      match s.translate ctx c.user .read va with
      | .error e => copyStop s va e
      | .ok (.rem peer m) =>
        match s.copyPeerStop c peer va with
        | some k => .fault k va
        | none =>
          let x := s.sendReqFor ⟨c.team, c.group, 0⟩ c.addr false (some id) peer va m .read [] none
          .waits (x.2.updCopy id (fun c => { c with sent := (va, x.1) :: c.sent }))
      | .ok (.loc m) | .ok (.nc m) =>
        match s.reachStop va m false (s.readsPast id m) with
        | some e => copyStop s va e
        | none =>
          let x := (s.cache ctx va).readLine m
          .on (x.2.updCopy id (fun c => { c with src := Map.put c.src va x.1 }))

/-- Source lines read where they have not been. -/
def State.readSources (s : State) (id : Nat) : List Nat → CopyStep
  | [] => .on s
  | l :: ls =>
    if Map.has (s.copyOf id).src l then s.readSources id ls
    else
      match (if (s.copyOf id).kind.fromSp then s.readSpLine id l else s.readMemLine id l) with
      | .on s => s.readSources id ls
      | x => x

/-- The source lines of one destination line. -/
def Copy.sourceLines (c : Copy) (u : Nat) : List Nat := sortNats ((c.unitData u).filterMap (fun x => x.src.map c.sourceOf))

/-- One destination line is done: it is no longer the copy's own. -/
def State.unitDone (s : State) (id u : Nat) : State :=
  let own := Map.find (s.copyOf id).own u
  let s := { s with locks := s.locks.filter (fun p => !(p.2 == id && some p.1 == own)) }
  s.updCopy id (fun c => { c with todo := c.todo.filter (· != u), own := Map.erase c.own u })

/-- A scratchpad line lands in a team: only box bytes change, and the line becomes present (R233); all 128 bytes end a failure
of the line (R198). A frozen team keeps its old contents (R220). -/
def Team.landLine (t : Team) (c : Copy) (u : Nat) : Team :=
  let t := { t with absent := Map.set false t.absent u false }
  if t.status == .frozen then t
  else
    { t with
      sp := (c.unitData u).foldl (fun m x => Map.setBitsAt m x.dst x.width (c.valueOf x)) t.sp
      badSp := if c.lineBytes (u - c.sp / 128) = 128 then t.badSp.filter (· != u) else t.badSp }

/-- The line lands in every target, with its bytes for the clasp there. -/
def State.landUnit (s : State) (id u : Nat) : State :=
  let c := s.copyOf id
  let s := (s.copyTargets c).foldl
    (fun s t => (s.updTeam t (·.landLine c u)).landClasp c t (c.lineBytes (u - c.sp / 128))) s
  s.unitDone id u

/-- The bytes that a memory line holds after the copy's data are put into it: offset and byte, for every byte touched. -/
def Copy.merged (c : Copy) (u : Nat) (old : List Byte) : List (Nat × Byte) :=
  let xs := c.unitData u
  let m0 : Map Byte := Map.setBytes [] 0 old
  let m := xs.foldl (fun m x => Map.setBitsAt m (x.dst - 8 * u) x.width (c.valueOf x)) m0
  (sortNats ((xs.map (fun x => (List.range ((x.width + 7) / 8)).map (fun i => (x.dst - 8 * u) / 8 + i))).flatten)).map
    (fun o => (o, Map.get 0 m o))

/-- The data of a line as elements by byte offset. -/
def Copy.elems (c : Copy) (u : Nat) : List (Nat × Nat) := (c.unitData u).map (fun x => ((x.dst - 8 * u) / 8, c.valueOf x))

/-- A memory line is written at its home as one access, or the write goes to the peer. The frame of a peer carries no stripe attribute at
its translation here (R237, DESIGN CHOICE, log 34); a reduction needs the bytes of the line, also where it updates all of them (R325). -/
def State.writeUnit (s : State) (id u : Nat) : CopyStep :=
  let c := s.copyOf id
  let ctx := (s.teamOf c.team).ctx
  let stripe := match c.kind with | .stripe _ => true | _ => false
  let reduces := match c.kind with | .reduce _ => true | _ => false
  if 2 ^ 57 ≤ u then .fault 0x04E u
  else
    match s.translate ctx c.user (match c.kind with | .reduce _ => .atomic | _ => .write) u with
    | .error e => copyStop s u e
    | .ok (.rem peer m) =>
      match (if stripe then some 0x146 else s.copyPeerStop c peer u) with
      | some k => .fault k u
      | none =>
        let kind : RemoteKind :=
          match c.kind with
          | .reduce op => .update op c.shape.ty ((c.elems u).map (fun e => (e.1, BitVec.ofNat 64 e.2)))
          | _ =>
            .place c.shape.ty.bits ((c.unitData u).map (fun x => (x.dst - 8 * u, BitVec.ofNat 64 (c.valueOf x))))
        let kind : RemoteKind :=
          match c.kind, kind with
          | .linear, _ => .write (c.merged u (List.replicate 64 0))
          | _, k => k
        .on ((s.sendReqFor ⟨c.team, c.group, 0⟩ c.addr true (some id) peer u m kind [] none).2.unitDone id u)
    | .ok (.loc m) | .ok (.nc m) =>
      let bits := (c.unitData u).foldl (fun n x => n + x.width) 0
      if stripe && !Map.get false s.stripe (m / 4096) then .fault 0x146 u
      else
        match s.reachStop u m (bits == 512 && !reduces) (s.writesPast id m) with
        | some e => copyStop s u e
        | none =>
          let s := s.cache ctx u
          match c.kind with
          | .reduce op => .on ((s.reduceElems (c.core / 64) m op.mem c.shape.ty (c.elems u)).unitDone id u)
          | _ =>
            let old := s.recall m |>.readLine m
            .on ((old.2.homeWrite m 0 (c.merged u old.1)).unitDone id u)

/-- One line of a copy. -/
def State.copyUnit (s : State) (id u : Nat) : CopyStep :=
  let c := s.copyOf id
  match s.readSources id (c.sourceLines u) with
  | .on s => if c.kind.lands then .on (s.landUnit id u) else s.writeUnit id u
  | x => x

/-- COPY_LINE_TRANSFER: an engine reads what one destination line needs and writes or lands it (R238). -/
def execCopyLineTransfer (copy unit : Nat) (s : State) : Res :=
  if (s.copyOf copy).todo.contains unit then
    match s.copyUnit copy unit with
    | .on s => .next s
    | .waits s => .next s
    | .fault _ _ => .next s
  else .next s

/-! ## Completion and faults -/

/-- A window's copy is over: state 3 (R205). -/
def State.windowDone (s : State) (c : Copy) : State :=
  match c.kind with
  | .window w => s.updTeam c.team (fun t => { t with win := Map.alter t.win w (fun x => { x with state := 3 }) })
  | _ => s

/-- A copy leaves: its entry, its lines and its requests go with it. -/
def State.endCopy (s : State) (id : Nat) : State :=
  { s with
    copies := Map.erase s.copies id
    locks := s.locks.filter (fun p => p.2 != id)
    reqs := s.reqs.filter (fun r => r.2.copy != some id) }

/-- No reply to a copy's writes is missing. -/
def State.copyAcked (s : State) (id : Nat) : Bool := !s.reqs.any (fun r => r.2.copy == some id && r.2.reply.isNone)

/-- The refusal of a copy's write by a peer. -/
def State.copyRefused (s : State) (id : Nat) : Option (BitVec 9 × Nat) :=
  s.reqs.findSome? (fun r =>
    if r.2.copy = some id then (r.2.reply.bind RemoteReply.cause).map (fun c => (c, r.2.va)) else none)

/-- Every effect of a copy has been made; a copy out of scratchpad has read the lines that no destination needed. -/
def State.finishCopy (s : State) (id : Nat) : State :=
  let c := s.copyOf id
  if !c.todo.isEmpty || !s.copyAcked id || (s.copyRefused id).isSome then s
  else if c.kind.fromSp then
    match s.readSources id ((List.range c.boxLines).map (· + c.sp / 128)) with
    | .on s => s.endCopy id
    | _ => s
  else s.endCopy id

/-- COPY_COMPLETE (R241) -/
def execCopyComplete (copy : Nat) (s : State) : Res :=
  match (s.copyOf copy).kind with
  | .window _ => .next s
  | _ => .next (if Map.has s.copies copy then s.finishCopy copy else s)

/-- WINDOW_COPY_LANDED: the last line of a window's copy has landed (R205). -/
def execWindowCopyLanded (team w : Nat) (s : State) : Res :=
  match s.copies.find? (fun c => c.2.team == team && c.2.kind == .window w) with
  | some (id, c) => .next (if c.todo.isEmpty then (s.endCopy id).windowDone c else s)
  | none => .next s

/-- A fault ends a copy (R240): lines not yet landed become present with their old contents, and the group takes the cause
imprecisely. -/
def State.faultCopy (s : State) (id : Nat) (cause : BitVec 9) (addr : Nat) : State :=
  let c := s.copyOf id
  let s :=
    if c.kind.lands then
      (s.copyTargets c).foldl
        (fun s t => s.updTeam t (fun x => { x with absent := c.todo.foldl (fun m l => Map.set false m l false) x.absent })) s
    else s
  let info2 := match c.kind with | .window w => w | _ => c.batch
  let s := if translationCause cause then s.looked (s.teamOf c.team).ctx addr else s
  ((s.endCopy id).windowDone c).holdCause c.team c.group
    ⟨.copy, cause, c.addr, none, BitVec.ofNat 64 addr, none, BitVec.ofNat 64 info2, 0x8000000000000000, some 1⟩

/-- A copy meets a cause at an address: at a line it still has to move, at a source line it still has to read, or in a peer's
refusal of a write. -/
def State.copyMeets (s : State) (id cause addr : Nat) : Bool :=
  let c := s.copyOf id
  let at_ (u : Nat) : Bool := match s.copyUnit id u with | .fault k a => k.toNat == cause && a == addr | _ => false
  let rest : Bool :=
    match (if c.kind.fromSp && c.todo.isEmpty then s.readSources id ((List.range c.boxLines).map (· + c.sp / 128)) else .on s) with
    | .fault k a => k.toNat == cause && a == addr
    | _ => false
  c.todo.any at_ || rest || s.copyRefused id == some (BitVec.ofNat 9 cause, addr)

/-- COPY_FAULT: a copy ends at a fault that it meets (R240). -/
def execCopyFault (copy cause : Nat) (addr : Nat) (s : State) : Res :=
  .next (if Map.has s.copies copy && s.copyMeets copy cause addr then s.faultCopy copy (BitVec.ofNat 9 cause) addr else s)

/-- COPY_ENTRY_GRANT: a free entry goes to whoever of the team began to wait first: a window's copy starts, and a parked
instruction issues again (R224). -/
def execCopyEntryGrant (team : Nat) (s : State) : Res :=
  let t := s.teamOf team
  if s.entriesFree team = 0 then .next s
  else
    match t.entryWait with
    | [] => .next s
    | (ref, none) :: rest =>
      .next ((s.updTeam team (fun t => { t with entryWait := rest, granted := t.granted ++ [ref] })).again ref)
    | (ref, some w) :: rest =>
      let x := Map.get Team.startWindow.nullWindow t.win w
      let s := s.updTeam team (fun t => { t with entryWait := rest })
      if x.state = 2 then
        .next (s.startCopy { nullCopy with
          kind := .window w, team := team, group := ref.group, core := t.core, user := !x.sys, addr := x.addr, desc := x.desc
          coords := x.coords, sp := x.base })
      else .next s

/-! ## Batches (R241 to R243) -/

/-- Copies and sealed batches of a group that have not finished. -/
def State.openBatches (s : State) (team group current : Nat) : List Nat :=
  sortNats ((s.copies.filter (fun c =>
    c.2.team == team && c.2.group == group && c.2.batch != current &&
      match c.2.kind with | .window _ => false | _ => true)).map (·.2.batch))

/-- The sealed unfinished batches of the executing group. -/
def State.sealedOpen (s : State) : Nat := (s.openBatches s.cur.ref.team s.cur.ref.group s.cg.batch).length

/-- Copies of the executing group's current batch that have not completed. -/
def State.inCurrent (s : State) : Bool :=
  s.copies.any (fun c =>
    c.2.team == s.cur.ref.team && c.2.group == s.cur.ref.group && c.2.batch == s.cg.batch &&
      match c.2.kind with | .window _ => false | _ => true)

/-- `cseal`: a batch that would be the 17th sealed and unfinished parks the fragment; an empty one finishes at its seal. -/
def execCseal (f : FmtE) (s : State) : Res :=
  .next (s.slot (.cseal f) { writes := [.s f.d.toNat] } (fun s =>
    s.whenActs (fun s =>
      let g := s.cg
      if s.inCurrent && decide (16 ≤ s.sealedOpen) then s.park (.again (.batch none)) [.s f.d.toNat]
      else
        (s.setG (fun x => { (x.setU f.d.toNat (BitVec.ofNat 64 g.batch)) with
          batch := (g.batch + 1) % 2 ^ 32, inBatch := 0 })).retire [.s f.d.toNat])))

/-- `cwaitb` -/
def execCwaitb (f : FmtE) (s : State) : Res :=
  .next (s.slot (.cwaitb f) {} (fun s =>
    s.whenActs (fun s =>
      let n := (f.imm.extractLsb' 0 5).toNat
      if s.sealedOpen ≤ n then s.retire [] else s.park (.again (.batch (some n))))))

/-- `cstat` -/
def execCstat (f : FmtE) (s : State) : Res :=
  .next (s.slot (.cstat f) { writes := [.s f.d.toNat] } (fun s =>
    s.whenActs (fun s =>
      let g := s.cg
      let x := min 511 g.inBatch * 2 ^ 48 + s.sealedOpen * 2 ^ 40 + s.entriesFree s.cur.ref.team * 2 ^ 32 + g.batch
      (s.setG (·.setU f.d.toNat (BitVec.ofNat 64 x))).retire [.s f.d.toNat])))

end Sys2Proof.Machine
end

