-- ==== Sys2Proof/Machine/Approx.lean ====
section
/-!
DEFINITION. Sys2Proof/Machine/Approx.lean: quotients and roots rounded once (R154), and the functions of op 0x46 (R155, R156):
their exact cases, their exact results in fixed point, and the free result that a bound admits (DESIGN CHOICE, log 7).
-/

namespace Sys2Proof

open Machine

/-! ## Quotients and roots -/

/-- A value `q x 2^e` with a tail: the tail is kept as one more bit, below every bit that rounding looks at. -/
def withTail (q : Nat) (tail : Bool) (e : Int) : Nat × Int := (2 * q + tail.toNat, e - 1)

/-- The quotient of finite nonzero magnitudes, exact but for a tail below 2^-39 of it. -/
def quotient (m : Nat) (e : Int) (n : Nat) (f : Int) : Nat × Int :=
  let x := m * 2 ^ 64
  withTail (x / n) (x % n != 0) (e - f - 64)

/-- A / B (R154): the value, with the tail of its quotient. -/
def FVal.div : FVal → FVal → FVal
  | .nan _, _ => .nan false
  | _, .nan _ => .nan false
  | .inf _, .inf _ => .nan false
  | .inf a, .fin b _ _ => .inf (a != b)
  | .fin a _ _, .inf b => .fin (a != b) 0 0
  | .fin a m e, .fin b n f =>
    if n = 0 then (if m = 0 then .nan false else .inf (a != b))
    else let q := quotient m e n f; .fin (a != b) q.1 q.2

/-- The integer square root, bit by bit from bit `k - 1` down. -/
def isqrtFrom (n r : Nat) : Nat → Nat
  | 0 => r
  | k + 1 => isqrtFrom n (if (r + 2 ^ k) * (r + 2 ^ k) ≤ n then r + 2 ^ k else r) k

/-- The integer square root of a number below 2^640. -/
def isqrt (n : Nat) : Nat := isqrtFrom n 0 320

/-- The square root (R154), with a tail below 2^-40 of it. -/
def FVal.sqrt : FVal → FVal
  | .nan _ => .nan false
  | .inf neg => if neg then .nan false else .inf false
  | .fin neg m e =>
    if m = 0 then .fin neg 0 0
    else if neg then .nan false
    else
      let m' := if e % 2 = 0 then m else 2 * m
      let e' := if e % 2 = 0 then e else e - 1
      let x := m' * 2 ^ 128
      let r := isqrt x
      let q := withTail r (r * r != x) (e' / 2 - 64)
      .fin false q.1 q.2

/-! ## Fixed point with `p` fraction bits -/

/-- The sum of the Taylor series whose next term is the last times `x / (k (k + d) ...)`: exp with `step` 1, sine and cosine
with `step` 2 and a changing sign. -/
def taylor (p : Nat) (x : Int) (step : Nat) (alt : Bool) (k : Nat) (term sum : Int) : Nat → Int
  | 0 => sum
  | fuel + 1 =>
    let d : Int := if step = 1 then k else k * (k + 1)
    let t := term * x / (2 ^ p : Nat) / d
    let t := if alt then -t else t
    taylor p x step alt (k + step) t (sum + t) fuel

/-- e^x for 0 ≤ x < 1. -/
def expFix (p : Nat) (x : Int) : Int := taylor p x 1 false 1 (2 ^ p : Nat) (2 ^ p : Nat) 90

/-- sin x and cos x for 0 ≤ x < 2. -/
def sinFix (p : Nat) (x : Int) : Int := taylor p (x * x / (2 ^ p : Nat)) 2 true 2 x x 60

def cosFix (p : Nat) (x : Int) : Int := taylor p (x * x / (2 ^ p : Nat)) 2 true 1 (2 ^ p : Nat) (2 ^ p : Nat) 60

/-- The odd series z + z^3/3 + z^5/5 ..., or with alternating signs. -/
def oddSeries (p : Nat) (z2 : Int) (alt : Bool) (k : Nat) (power sum : Int) : Nat → Int
  | 0 => sum
  | fuel + 1 =>
    let q := power * z2 / (2 ^ p : Nat)
    let q := if alt then -q else q
    oddSeries p z2 alt (k + 2) q (sum + q / (k + 2 : Nat)) fuel

/-- ln of a fixed-point number in [1, 2]. -/
def lnFix (p : Nat) (m : Int) : Int :=
  let one : Int := (2 ^ p : Nat)
  let z := (m - one) * one / (m + one)
  2 * oddSeries p (z * z / one) false 1 z z 110

def ln2Fix (p : Nat) : Int := lnFix p (2 * (2 ^ p : Nat))

/-- arctan (1 / n). -/
def atanInv (p n : Nat) : Int :=
  let z : Int := (2 ^ p : Nat) / n
  oddSeries p (z * z / (2 ^ p : Nat)) true 1 z z 130

/-- pi (Machin's formula). -/
def piFix (p : Nat) : Int := 16 * atanInv p 5 - 4 * atanInv p 239

/-- A finite value in fixed point. -/
def toFix (p : Nat) (neg : Bool) (m : Nat) (e : Int) : Int :=
  let x : Nat := if 0 ≤ e + p then m * 2 ^ (e + p).toNat else m / 2 ^ (-(e + p)).toNat
  if neg then -(x : Int) else x

/-- A fixed-point number as a value. -/
def ofFix (p : Nat) (x : Int) : FVal := .fin (decide (x < 0)) x.natAbs (-(p : Int))

/-! ## The exact results, to within 2^-200 of them -/

/-- 2^A. -/
def exp2Exact (neg : Bool) (m : Nat) (e : Int) : FVal :=
  let x := toFix 256 neg m e
  let n := x / (2 ^ 256 : Nat)
  let f := x - n * (2 ^ 256 : Nat)
  .fin false (expFix 256 (f * ln2Fix 256 / (2 ^ 256 : Nat))).toNat (n - 256)

/-- log2 A of a positive value. -/
def log2Exact (m : Nat) (e : Int) : FVal :=
  let top := Nat.log2 m
  let mant : Int := m * 2 ^ (256 - top)
  ofFix 256 ((top + e) * (2 ^ 256 : Nat) + lnFix 256 mant * (2 ^ 256 : Nat) / ln2Fix 256)

/-- The quadrant of A and what is left of it after whole quadrants are taken away (exact argument reduction). -/
def quadrant (neg : Bool) (m : Nat) (e : Int) : Int × Int :=
  let h := piFix 512 / 2
  let x := toFix 512 neg m e
  (x / h, x % h)

/-- sin A, with `shift` 0, and cos A, with `shift` 1. -/
def sinExact (shift : Int) (neg : Bool) (m : Nat) (e : Int) : FVal :=
  let q := quadrant neg m e
  let k := (q.1 + shift) % 4
  let v := if k % 2 = 0 then sinFix 512 q.2 else cosFix 512 q.2
  ofFix 512 (if k < 2 then v else -v)

/-- tanh A for a magnitude below 9. -/
def tanhExact (neg : Bool) (m : Nat) (e : Int) : FVal :=
  let x := 2 * toFix 256 false m e
  let l := ln2Fix 256
  let n := x / l
  let t := expFix 256 (x - n * l) * (2 ^ n.toNat : Nat)
  let one : Int := (2 ^ 256 : Nat)
  let v := (t - one) * one / (t + one)
  ofFix 256 (if neg then -v else v)

/-- 1 / sqrt A of a positive value. -/
def rsqrtExact (m : Nat) (e : Int) : FVal :=
  let m' := if e % 2 = 0 then m else 2 * m
  let e' := if e % 2 = 0 then e else e - 1
  .fin false (isqrt (2 ^ 512 / m')) (-(e' / 2) - 256)

/-! ## Bounds (R155) -/

/-- A bound: some ulps of f32 at the exact result, or a power of two. -/
inductive Tol where
  | ulp (n : Nat)
  | abs (e : Int)

/-- A bound as a number of steps of a power of two. -/
def Tol.steps (t : Tol) (v : FVal) : Nat × Int :=
  match t with
  | .abs e => (1, e)
  | .ulp n =>
    match v with
    | .fin _ m e =>
      let top : Int := if m = 0 then -126 else Nat.log2 m + e
      (n, (if top < -126 then -126 else top) - 23)
    | _ => (n, 0)

/-- Whether a finite value lies within a bound of an exact one. -/
def within (t : Tol) (v y : FVal) : Bool :=
  match v, y with
  | .fin _ _ e, .fin _ _ f =>
    let b := t.steps v
    let q := if e ≤ f then e else f
    let q := if b.2 ≤ q then b.2 else q
    decide ((v.scaled q - y.scaled q).natAbs ≤ b.1 * 2 ^ (b.2 - q).toNat)
  | _, _ => false

/-- The result where only a bound is given: a free value of the function and its input bits where that meets the bound, and
else the exact result rounded. -/
def approxResult (fn : Nat) (t : Tol) (x : Nat) (v : FVal) : Nat :=
  let y := (Config.approx fn (BitVec.ofNat 32 x)).toNat
  if within t v (FFmt.f32.decode y) then y else FFmt.f32.encode (FFmt.f32.roundV .rne v)

/-! ## The functions: exact cases first (R156) -/

def canonF32 : Nat := FFmt.f32.canonNan

def f32Of (v : FVal) : Nat := FFmt.f32.encode v

/-- A finite nonzero magnitude is a power of two: its exponent. -/
def pow2Exp (m : Nat) (e : Int) : Option Int := if m = 2 ^ Nat.log2 m then some (Nat.log2 m + e) else none

/-- 1 / A -/
def fRcp (x : Nat) : Nat :=
  match FFmt.f32.decode x with
  | .nan _ => canonF32
  | .inf neg => f32Of (.fin neg 0 0)
  | .fin neg m e =>
    if m = 0 ∨ (Nat.log2 m : Int) + e < -128 then f32Of (.inf neg)
    else
      match pow2Exp m e with
      | some n =>
        if -n ≤ 127 then f32Of (FFmt.f32.roundV .rne (.fin neg 1 (-n)))
        else approxResult 0 (.ulp 1) x (.fin neg 1 (-n))
      | none => let q := quotient (2 ^ 200) (-200) m e; approxResult 0 (.ulp 1) x (.fin neg q.1 q.2)

/-- 1 / sqrt A -/
def fRsq (x : Nat) : Nat :=
  match FFmt.f32.decode x with
  | .nan _ => canonF32
  | .inf neg => if neg then canonF32 else f32Of (.fin false 0 0)
  | .fin neg m e =>
    if m = 0 then f32Of (.inf neg)
    else if neg then canonF32
    else
      let v := rsqrtExact m e
      match pow2Exp m e with
      | some n => if n % 2 = 0 then f32Of (.fin false 1 (-(n / 2))) else approxResult 1 (.ulp 2) x v
      | none => approxResult 1 (.ulp 2) x v

/-- Whether `(-1)^neg m 2^e` is an integer, and it. -/
def asInt (neg : Bool) (m : Nat) (e : Int) : Option Int :=
  let sign (n : Nat) : Int := if neg then -(n : Int) else n
  if 0 ≤ e then some (sign (m * 2 ^ e.toNat))
  else if m % 2 ^ (-e).toNat = 0 then some (sign (m / 2 ^ (-e).toNat)) else none

/-- 2^A -/
def fEx2 (x : Nat) : Nat :=
  match FFmt.f32.decode x with
  | .nan _ => canonF32
  | .inf neg => if neg then 0 else f32Of (.inf false)
  | .fin neg m e =>
    let a : FVal := .fin neg m e
    if !a.lt (.fin false 128 0) then f32Of (.inf false)
    else if a.lt (.fin true 150 0) then 0
    else
      match asInt neg m e with
      | some n => if -149 ≤ n then f32Of (.fin false 1 n) else approxResult 2 (.ulp 2) x (.fin false 1 n)
      | none => approxResult 2 (.ulp 2) x (exp2Exact neg m e)

/-- log2 A -/
def fLg2 (x : Nat) : Nat :=
  match FFmt.f32.decode x with
  | .nan _ => canonF32
  | .inf neg => if neg then canonF32 else f32Of (.inf false)
  | .fin neg m e =>
    if m = 0 then f32Of (.inf true)
    else if neg then canonF32
    else
      match pow2Exp m e with
      | some n => f32Of (.fin (decide (n < 0)) n.natAbs 0)
      | none =>
        let a : FVal := .fin false m e
        let near := !a.lt (.fin false 1 (-1)) && !(FVal.fin false 2 0).lt a
        approxResult 3 (if near then .abs (-22) else .ulp 2) x (log2Exact m e)

/-- sin A -/
def fSin (x : Nat) : Nat :=
  match FFmt.f32.decode x with
  | .nan _ => canonF32
  | .inf _ => canonF32
  | .fin neg m e => if m = 0 then f32Of (.fin neg 0 0) else approxResult 4 (.abs (-21)) x (sinExact 0 neg m e)

/-- cos A -/
def fCos (x : Nat) : Nat :=
  match FFmt.f32.decode x with
  | .nan _ => canonF32
  | .inf _ => canonF32
  | .fin neg m e => if m = 0 then f32Of (.fin false 1 0) else approxResult 5 (.abs (-21)) x (sinExact 1 neg m e)

/-- tanh A -/
def fTanh (x : Nat) : Nat :=
  match FFmt.f32.decode x with
  | .nan _ => canonF32
  | .inf neg => f32Of (.fin neg 1 0)
  | .fin neg m e =>
    if m = 0 then f32Of (.fin neg 0 0)
    else if !(FVal.fin false m e).lt (.fin false 9 0) then f32Of (.fin neg 1 0)
    else approxResult 6 (.abs (-21)) x (tanhExact neg m e)

end Sys2Proof
end

