-- ==== Sys2Proof/Machine/Lines.lean ====
section
/-!
DEFINITION. Sys2Proof/Machine/Lines.lean: fences (R296, R297), versions, validation sets and conditional stores (R302 to R307),
atomics and reductions (R308, R309), and what homes and caches do of themselves (R290 to R295, R310 to R312).
-/

namespace Sys2Proof.Machine

/-! ## Fences (R296, R297) -/

/-- No request of the group to a peer is outstanding (rule 7). -/
def State.remoteDone (s : State) (team group : Nat) : Bool :=
  !s.reqs.any (fun r => r.2.ref.team == team && r.2.ref.group == group && r.2.copy.isNone && r.2.reply.isNone && !r.2.fetch)

/-- The condition of a fence: rule 7 unless it is `fence.nc` alone, and the host's acknowledgements for rule 9. -/
def State.fenceDone (s : State) (team group : Nat) (nc sys : Bool) : Bool :=
  ((nc && !sys) || s.remoteDone team group) && (!sys || s.hostOut == 0)

/-- A fence: it completes at once, or parks until its condition holds. A write-back of rule 8 that fails is its precise cause (R325), and
one to a frame that is to come back waits (R323). -/
def State.fence (s : State) (nc sys : Bool) : State :=
  let r := s.cur.ref
  if !s.fenceDone r.team r.group nc sys then s.park (.again (.fence nc sys))
  else if nc then
    match s.flushStop s.ct.core with
    | some e => s.memStop e
    | none => (s.flushNc s.ct.core).retire []
  else s.retire []

/-- `fence.dom` -/
def execFenceDom (s : State) : Res := .next (s.slot .fenceDom {} (fun s => s.fence false false))

/-- `fence.nc` -/
def execFenceNc (s : State) : Res := .next (s.slot .fenceNc {} (fun s => s.fence true false))

/-- `fence.sys` -/
def execFenceSys (s : State) : Res := .next (s.slot .fenceSys {} (fun s => s.fence true true))

/-! ## Atomics and reductions (R308, R309) -/

/-- The words of an operand of `atm` and `red`. -/
def atmWords (f : FmtM) : Nat := elemBytes f.ty / 4

/-- An operand held in consecutive registers of a lane. -/
def Group.operand (g : Group) (f : FmtM) (skip l : Nat) : Nat :=
  let r := f.d.toNat + skip
  if atmWords f = 2 then (g.vpair r l).toNat else (g.vreg r l).toNat

def atmAsk (f : FmtM) : Ask := ⟨elemBytes f.ty, elemBytes f.ty, .atomic, false⟩

/-- The line request that takes byte j of a lane's access, and its offset in the line. -/
def byteOf (ls : List LineReq) (lane j : Nat) : Option (LineReq × Nat) :=
  ls.findSome? (fun r =>
    match r.bytes.find? (fun b => b.1 == lane && b.2.1 == j) with
    | some b => some (r, b.2.2)
    | none => none)

/-- The line request and the offset in it of a lane's access. -/
def lineOf (ls : List LineReq) (lane : Nat) : Option (LineReq × Nat) := byteOf ls lane 0

/-- The machine line and the offset of each byte of a lane's local access (R265). -/
def spotsOf (ls : List LineReq) (lane n : Nat) : List (Nat × Nat) :=
  (List.range n).filterMap (fun j =>
    match byteOf ls lane j with
    | some (q, off) => match q.place with | .loc m | .nc m => some (m, off) | .rem _ _ => none
    | none => none)

/-- Bytes in one line, from an offset on. -/
def spotsFrom (line off n : Nat) : List (Nat × Nat) := (List.range n).map (fun i => (line, off + i))

/-- The distinct lines of spots. -/
def spotLines (l : List (Nat × Nat)) : List Nat := sortNats (l.map (·.1))

/-- Spots read at their homes as one number. -/
def State.readSpots (s : State) (l : List (Nat × Nat)) : Nat × State :=
  let s := (spotLines l).foldl (fun s m => (s.readLine m).2) s
  (natOfBytes (l.map (fun p => Map.get 0 s.mem (p.1 + p.2))), s)

/-- A number written to spots at their homes. -/
def State.writeSpots (s : State) (l : List (Nat × Nat)) (x : Nat) : State :=
  (spotLines l).foldl
    (fun s m => s.homeWrite m 0 (l.zipIdx.filterMap (fun p => if p.1.1 = m then some (p.1.2, byteAt x p.2) else none))) s

/-- One atomic at its home: the old value, and the new one where the operation writes. -/
def State.atomicAt (s : State) (op : AtmOp) (t : Ty) (l : List (Nat × Nat)) (o swap : Nat) : Nat × State :=
  let x := s.readSpots l
  let y := atmNew t op x.1 o swap
  (x.1, if y.2 then x.2.writeSpots l y.1 else x.2)

/-- The atomics of the participating lanes in ascending order: old values now, as bytes of their lanes, or as requests where
some line is remote. -/
def State.atomics (s : State) (op : AtmOp) (f : FmtM) (r : Resolved) :
    List (Nat × Nat × Byte) × List Nat × State :=
  let n := elemBytes f.ty
  let g := s.cg
  let far := r.lines.any (fun x => x.place.remote)
  let turn (acc : List (Nat × Nat × Byte) × List Nat × State) (i : LaneIx) :=
    match lineOf r.lines i.lane with
    | none => acc
    | some (q, off) =>
      let o := g.operand f 0 i.lane
      let w := g.operand f (atmWords f) i.lane
      let take := (List.range n).map (fun j => (i.lane, j, j))
      match q.place with
      | .rem peer m =>
        let x := acc.2.2.sendReq false none peer q.va m
          (.atomic op f.ty off (BitVec.ofNat 64 o) (BitVec.ofNat 64 w)) take none
        (acc.1, acc.2.1 ++ [x.1], x.2)
      | _ =>
        let x := (acc.2.2.cache s.ct.ctx q.va).atomicAt op f.ty (spotsOf r.lines i.lane n) o w
        if far then
          let y := x.2.sendReq false none s.selfPkg q.va 0 .read take (some (.data (bytesOfNat n x.1)))
          (acc.1, acc.2.1 ++ [y.1], y.2)
        else (acc.1 ++ (List.range n).map (fun j => (i.lane, j, byteAt x.1 j)), acc.2.1, x.2)
  r.live.foldl turn ([], [], s)

/-- The registers of `atm`: operands read, old value written. -/
def atmUses (op : AtmOp) (f : FmtM) : Uses :=
  let n := atmWords f
  { reads := useX f ++ vregs f.d.toNat (if op == .cas then 2 * n else n), writes := vregs f.d.toNat n }

/-- `atm` -/
def execAtm (op : AtmOp) (f : FmtM) (s : State) : Res :=
  let u := atmUses op f
  let finish (xs : List (Nat × Nat × Byte)) (s : State) : State :=
    (s.setG (fun g => s.lanes.foldl (fun g l => g.putWords f.d.toNat l (laneNat (elemBytes f.ty) xs l) (atmWords f)) g)).retire
      u.writes
  .next (s.slot (.atm op f) u (fun s =>
    s.withReplies false
      (fun s =>
        match s.resolve f (atmAsk f) .atomic true (s.laneIxs f) with
        | .error e => s.memStop e
        | .ok r =>
          let x := s.atomics op f r
          if x.2.1.isEmpty then finish x.1 x.2.2 else x.2.2.setF (fun fr => { fr with sent := x.2.1 }))
      finish))

/-- A reduction at its home (R292). An element that lies in two lines, as a doubleword of an interleave record does, is in no
partial copy: it is combined where it lies. -/
def State.reduceSpots (s : State) (die : Nat) (op : MemRedOp) (t : Ty) (l : List (Nat × Nat)) (o : Nat) : State :=
  match spotLines l with
  | [m] => s.reduceAt die m (l.headD (0, 0)).2 op t o
  | _ => let x := s.readSpots l; x.2.writeSpots l (elemOp t op x.1 o)

/-- The reductions of the participating lanes in ascending order. -/
def State.reductions (s : State) (op : MemRedOp) (f : FmtM) (r : Resolved) : State :=
  let g := s.cg
  let die := s.ct.core / 64
  r.live.foldl
    (fun s i =>
      match lineOf r.lines i.lane with
      | none => s
      | some (q, off) =>
        let o := g.operand f 0 i.lane
        match q.place with
        | .rem peer m => (s.sendReq true none peer q.va m (.reduce op f.ty off (BitVec.ofNat 64 o)) [] none).2
        | _ => (s.cache s.ct.ctx q.va).reduceSpots die op f.ty (spotsOf r.lines i.lane (elemBytes f.ty)) o)
    s

/-- `red` -/
def execRed (op : MemRedOp) (f : FmtM) (s : State) : Res :=
  .next (s.slot (.red op f) { reads := useX f ++ vregs f.d.toNat (atmWords f) } (fun s =>
    match s.resolve f (atmAsk f) .atomic true (s.laneIxs f) with
    | .error e => s.memStop e
    | .ok r => (s.reductions op f r).retire []))

/-! ## Versions (R302, R303) -/

/-- The uniform form of `ldv` and `verq`. -/
def uniForm (f : FmtM) : Bool := f.hint.getLsbD 0

/-- Lines read in ascending order under R299: for each lane that touches one, its bytes and its version. -/
def State.readVersions (s : State) (ls : List LineReq) :
    List (Nat × Nat × Byte) × List (Nat × Version) × State :=
  ls.foldl
    (fun acc r =>
      match r.place with
      | .loc m =>
        let s := (acc.2.2.cache s.ct.ctx r.va).recall m
        let x := s.readLine m
        (acc.1 ++ r.bytes.map (fun b => (b.1, b.2.1, x.1.getD b.2.2 0)),
          acc.2.1 ++ r.bytes.map (fun b => (b.1, s.version m)), x.2)
      | _ => acc)
    ([], [], s)

/-- A lane's version among those read, zero for a dropped lane. -/
def laneVersion (vs : List (Nat × Version)) (l : Nat) : Nat :=
  match vs.find? (fun p => p.1 == l) with
  | some p => p.2.toNat
  | none => 0

/-- A version operation: per lane over registers, or once over uniform registers; `n` data bytes. -/
def State.versionRead (s : State) (f : FmtM) (n : Nat) : State :=
  let w := n / 4
  let u := uniForm f
  let a : Ask := ⟨Nat.max n 1, Nat.max n 1, .read, u⟩
  let run (s : State) : State :=
    match s.resolve f a .version true (if u then s.oneIx f else s.laneIxs f) with
    | .error e => s.memStop e
    | .ok r =>
      let x := s.readVersions r.lines
      let s := x.2.2
      if u then
        let v := BitVec.ofNat 64 (laneVersion x.2.1 0)
        if n = 0 then s.writeU f.d v
        else
          (s.setG (fun g => (g.setU f.d.toNat (BitVec.ofNat 64 (laneNat n x.1 0))).setU (f.d.toNat + 1) v)).retire
            (uregs f.d.toNat 2)
      else
        let put (g : Group) (l : Nat) : Group :=
          (g.putWords f.d.toNat l (laneNat n x.1 l) w).putWords (f.d.toNat + w) l (laneVersion x.2.1 l) 2
        (s.setG (fun g => s.lanes.foldl put g)).retire (vregs f.d.toNat (w + 2))
  if u then s.whenActs run else run s

/-- The registers of a version read. -/
def versionUses (f : FmtM) (n : Nat) : Uses :=
  { reads := useX f
    writes := if uniForm f then uregs f.d.toNat (if n = 0 then 1 else 2) else vregs f.d.toNat (n / 4 + 2) }

/-- `ldv` -/
def execLdv (f : FmtM) (s : State) : Res :=
  let n := Ty.bits f.ty / 8
  .next (s.slot (.ldv f) (versionUses f n) (fun s => s.versionRead f n))

/-- `verq` -/
def execVerq (f : FmtM) (s : State) : Res := .next (s.slot (.verq f) (versionUses f 0) (fun s => s.versionRead f 0))

/-- One lane of `casv` at its home: the version found and the old data. -/
def State.casvAt (s : State) (l : List (Nat × Nat)) (new expected : Nat) : Nat × Nat × State :=
  let s := (spotLines l).foldl (fun s m => s.recall m) s
  let found := (s.version (l.headD (0, 0)).1).toNat
  let x := s.readSpots l
  (x.1, found, if found = expected then x.2.writeSpots l new else x.2)

/-- `casv` -/
def execCasv (f : FmtM) (s : State) : Res :=
  let n := Ty.bits f.ty / 8
  let w := n / 4
  let regs := vregs f.d.toNat (w + 2)
  .next (s.slot (.casv f) { reads := useX f ++ regs, writes := regs } (fun s =>
    match s.resolve f ⟨n, n, .atomic, false⟩ .version true (s.laneIxs f) with
    | .error e => s.memStop e
    | .ok r =>
      let g := s.cg
      let put (s : State) (l old found : Nat) : State :=
        s.setG (fun g => (g.putWords f.d.toNat l old w).putWords (f.d.toNat + w) l found 2)
      let turn (s : State) (l : Nat) : State :=
        match lineOf r.lines l with
        | some (q, _) =>
          match q.place with
          | .loc _ =>
            let new := if w = 2 then (g.vpair f.d.toNat l).toNat else (g.vreg f.d.toNat l).toNat
            let x := (s.cache s.ct.ctx q.va).casvAt (spotsOf r.lines l n) new (g.vpair (f.d.toNat + w) l).toNat
            put x.2.2 l x.1 x.2.1
          | _ => put s l 0 0
        | none => put s l 0 0
      (s.lanes.foldl turn s).retire regs))

/-! ## Validation sets and conditional stores (R304 to R307) -/

/-- `vclr` -/
def execVclr (s : State) : Res :=
  .next (s.slot .vclr {} (fun s => (s.setG (fun g => { g with vset := [], sbuf := [], vfail := false })).retire []))

/-- One line added to a set: the set, and whether it failed (R305). -/
def addEntry (acc : List VEntry × Bool) (e : VEntry) : List VEntry × Bool :=
  let bad := acc.2 || decide (2 ^ 48 ≤ e.version.toNat)
  match acc.1.find? (fun x => x.vline == e.vline) with
  | some x => (acc.1, bad || x.version != e.version)
  | none => (acc.1 ++ [e], bad)

/-- `vadd`: offsets with their versions, through a record. Its check of a line is a version operation: ownership is recalled and a line in
C is merged (R299). -/
def State.addLines (s : State) (slot : Nat) (uniform : Bool) (ls : List (LaneIx × DWord)) : State :=
  s.notInterleaved slot (fun s =>
    match s.resolveRec (s.ct.record slot) slot 0 ⟨1, 1, .read, uniform⟩ .version true (ls.map (·.1)) with
    | .error e => s.memStop e
    | .ok r =>
      let entry (p : LaneIx × DWord) : Option VEntry :=
        match lineOf r.lines p.1.lane with
        | some (q, _) => match q.place with | .loc m => some ⟨q.va, m, p.2⟩ | _ => none
        | none => none
      let g := s.cg
      let x := (ls.filterMap entry).foldl addEntry (g.vset, g.vfail)
      if 8 < x.1.length then s.raise 0x061
      else
        let check (s : State) (q : LineReq) : State :=
          match q.place with
          | .loc m => ((s.cache s.ct.ctx q.va).recall m).touchFrame m
          | _ => s
        let s := r.lines.foldl check s
        (s.setG (fun g => { g with vset := x.1, vfail := x.2 })).retire [])

/-- `vadd` with uniform registers -/
def execVaddU (f : FmtE) (s : State) : Res :=
  .next (s.slot (.vaddU f) { reads := [.s f.a.toNat, .s f.b.toNat] } (fun s =>
    s.whenActs (fun s =>
      let g := s.cg
      s.addLines (f.imm.extractLsb' 0 5).toNat true [(⟨0, (g.ureg f.a.toNat).toNat⟩, g.ureg f.b.toNat)])))

/-- `vadd` with vector registers -/
def execVadd (f : FmtE) (s : State) : Res :=
  .next (s.slot (.vadd f) { reads := .v f.a.toNat :: vregs f.b.toNat 2 } (fun s =>
    let g := s.cg
    s.addLines (f.imm.extractLsb' 0 5).toNat false
      (s.lanes.map (fun l => (⟨l, (g.vreg f.a.toNat l).toNat⟩, g.vpair f.b.toNat l)))))

/-- Bytes merged into a buffer's line, made if it is not there. -/
def mergeLine (b : List SLine) (va m : Nat) (bytes : List (Nat × Byte)) : List SLine :=
  let put (l : SLine) : SLine := { l with bytes := bytes.foldl (fun x p => x.set p.1 (some p.2)) l.bytes }
  if b.any (fun l => l.vline == va) then b.map (fun l => if l.vline == va then put l else l)
  else b ++ [put ⟨va, m, List.replicate 64 none⟩]

/-- `vstc` -/
def execVstc (f : FmtM) (s : State) : Res :=
  .next (s.slot (.vstc f) { reads := useX f ++ vregs f.d.toNat (mCount f) } (fun s =>
    match s.resolve f (laneAsk f .write) .buffered false (s.laneIxs f) with
    | .error e => s.memStop e
    | .ok r =>
      let g := s.cg
      let merge (b : List SLine) (q : LineReq) : List SLine :=
        match q.place with
        | .loc m | .nc m => mergeLine b q.va m (reqStores q (g.storeByte f))
        | .rem _ _ => b
      let b := r.lines.foldl merge g.sbuf
      let s := r.lines.foldl (fun s q => s.cache s.ct.ctx q.va) s
      if 8 < b.length then s.raise 0x062 else (s.setG (fun g => { g with sbuf := b })).retire []))

/-- A line of a commit: virtual and recorded machine line, the machine line it maps to now, its bytes if it is buffered. -/
structure CommitLine where
  va : Nat
  recorded : Nat
  now : Option Nat
  bytes : Option (List (Option Byte))
deriving DecidableEq, Repr

/-- The translations of a commit: the first failure, or the lines (R307). A line of the set that lies in a non-coherent window or in a peer
package by now takes 0x060, as the validation is a version operation (R299, R309). -/
def State.commitLines (s : State) : Except MStop (List CommitLine) :=
  let ctx := s.ct.ctx
  let user := !s.cg.sys
  let g := s.cg
  let all : List (Kind × Nat × Nat × Option (List (Option Byte))) :=
    g.vset.map (fun e => (.read, e.vline, e.mline, none)) ++ g.sbuf.map (fun l => (.write, l.vline, l.mline, some l.bytes))
  let rs := all.map (fun x => (x, s.translate ctx user x.1 x.2.1))
  match (rs.findSome? (fun p => stopOf p.2) : Option MStop) with
  | some e => .error e
  | none =>
    if rs.any (fun p => p.1.2.2.2.isNone && match p.2 with | .ok q => q.inNc || q.remote | .error _ => false) then
      .error (.trap 0x060 none 0 0 0)
    else
      .ok (rs.map (fun p =>
        ⟨p.1.2.1, p.1.2.2.1, (match p.2 with | .ok (.loc m) | .ok (.nc m) => some m | _ => none), p.1.2.2.2⟩))

/-- What the controller of a locked line says (R307). -/
def State.commitReach (s : State) (l : CommitLine) : Option MStop :=
  match l.now with
  | none => none
  | some m =>
    let whole := match l.bytes with | some b => b.all Option.isSome | none => true
    match s.reach m whole with
    | .ok => none
    | .wait => some .wait
    | e =>
      let c := e.cause.getD 0
      some (.trap c none (BitVec.ofNat 64 (if c = 0x050 then m else l.va)) 0 0)

/-- Lines in ascending machine address. -/
def sortCommit (l : List CommitLine) : List CommitLine :=
  (sortNats (l.map (fun x => x.now.getD 0))).flatMap (fun m => l.filter (fun x => x.now.getD 0 == m))

/-- `vcommit` -/
def execVcommit (f : FmtE) (s : State) : Res :=
  .next (s.slot (.vcommit f) { writes := [.p f.d.toNat] } (fun s =>
    match s.commitLines with
    | .error e => s.memStop e
    | .ok ls =>
      match ((sortCommit ls).findSome? s.commitReach : Option MStop) with
      | some e => s.memStop e
      | none =>
        let g := s.cg
        let em := s.cf.em
        let s := ls.foldl (fun s l => s.cache s.ct.ctx l.va) s
        let s := ls.foldl (fun s l => match l.now with | some m => (s.recall m).touchFrame m | none => s) s
        let ok := !g.vfail && ls.all (fun l => l.now == some l.recorded)
          && g.vset.all (fun e => e.version == (s.version e.mline).setWidth 64)
        let write (s : State) (l : CommitLine) : State :=
          match l.bytes with
          | some b =>
            s.homeWrite l.recorded 0
              ((List.range 64).filterMap (fun i => (b.getD i none).map (fun x => (i, x))))
          | none => s
        let s := if ok then (sortCommit ls).foldl write s else s
        (s.setG (fun g => { (g.setP f.d.toNat em (if ok then em else 0)) with vset := [], sbuf := [], vfail := false })).retire
          [.p f.d.toNat]))

/-! ## Homes and caches -/

/-- HOME_LINE_ACCESS: a fill, a grant of ownership, a write-back or a write of an agent at a line's home, or the line's check
fails (R290, R291, R298, R325). -/
def execHomeLineAccess (line : Nat) (act : HomeAct) (s : State) : Res :=
  let l := alignDown 64 line
  match act with
  | .fail => .next (if s.badLines.contains l then s else s.failLine l)
  | .corrected => .next s.countCorrected
  | .fill agent => .next (if s.reach l false == .ok then (s.readLine l (some agent)).2 else s)
  | .grant agent => .next (if s.reach l false == .ok then s.ownedWrite agent l 0 [] else s)
  | .writeBack agent =>
    .next (if Map.get none s.lineOwner (l / 64) = some agent then
      { s with lineOwner := Map.erase s.lineOwner (l / 64) } else s)
  | .write agent off bytes =>
    let bs := (bytes.take (64 - off % 64)).zipIdx.map (fun p => (p.2, p.1))
    .next (if s.reach l (off % 64 == 0 && bs.length == 64) == .ok then s.ownedWrite agent l (off % 64) bs else s)

/-- RED_ARRIVAL: a reduction arrives at a die's partial copy (R292). -/
def execRedArrival (die line : Nat) (op : MemRedOp) (ty : Ty) (off : Nat) (operand : DWord) (s : State) : Res :=
  let l := alignDown 64 line
  let n := elemBytes ty
  .next (if s.reach l false == .ok && decide (die < 4) && off % n == 0 && decide (off + n ≤ 64)
      && [Ty.n32, .i32, .n64, .i64, .f32, .bf16].contains ty then
    s.reduceAt die l off op ty operand.toNat else s)

/-- SIGNATURE_SQUASH: loads are performed at their own place here, so that no speculative load is there to squash (R294, R295). -/
def execSignatureSquash (_core _line : Nat) (s : State) : Res := .next s

/-- L1_EVICTION: an owned line goes home without a change of version, and a non-coherent one with its dirty bytes, which a copy keeps
where the controller does not take them (R284, R311, R323, R325). -/
def execL1Eviction (core line : Nat) (s : State) : Res :=
  let l := alignDown 64 line
  let s := if Map.get none s.lineOwner (l / 64) = some core then { s with lineOwner := Map.erase s.lineOwner (l / 64) } else s
  .next (match s.ncCopy core l with
    | some _ => if s.reachNc core l == .ok then (s.writeBackNc core l).dropNc core l else s
    | none => s)

/-- REQUEST_REPLAY: a request sent again meets its kept reply, and the home applies nothing (R310). -/
def execRequestReplay (_requester _seq : Nat) (s : State) : Res := .next s

/-- CACHE_POWER_GATE: every dirty line goes home first, and the cache is gated once none is left (R312). -/
def execCachePowerGate (core : Nat) (s : State) : Res :=
  .next (match s.flushStop core with
    | some _ => s
    | none =>
      let s := s.yieldL1 core
      { s with gated := if s.gated.contains core then s.gated else core :: s.gated })

/-- CACHE_WAKE: a gated cache wakes with every line invalid (R312). -/
def execCacheWake (core : Nat) (s : State) : Res :=
  .next (if s.gated.contains core then { s.emptyL1 core with gated := s.gated.filter (· != core) } else s)

/-- HOST_STORE_ACKNOWLEDGEMENT: the host adapter acknowledges a store to host memory (R296). -/
def execHostStoreAcknowledgement (s : State) : Res := .next { s with hostOut := s.hostOut - 1 }

end Sys2Proof.Machine
end

