-- ==== Sys2Proof/Machine/Float.lean ====
section
/-!
DEFINITION. Sys2Proof/Machine/Float.lean: floating point, conversion and packed dot products in lanes (R146 to R166).
-/

namespace Sys2Proof.Machine

/-! ## Operands (R146, R147) -/

/-- The sign bits of the elements of `w` bits in one register. -/
def signBits (w : Nat) : Nat := (List.range (32 / w)).foldl (fun x j => x + 2 ^ (w * j + w - 1)) 0

/-- A word whose elements of `w` bits change sign, if asked. -/
def negated (neg : Bool) (w x : Nat) : Nat := if neg then x ^^^ signBits w else x

/-- Operands as 32-bit words of elements of `w` bits, negated as md says. -/
def Group.wordA (g : Group) (f : FmtA) (w l : Nat) : Nat := negated f.na w (g.vreg f.a.toNat l).toNat

def Group.wordB (g : Group) (f : FmtA) (w l : Nat) : Nat := negated f.nb w (g.src32 f l)

def Group.wordC (g : Group) (f : FmtA) (w l : Nat) : Nat := negated f.nc w (g.vreg f.c.toNat l).toNat

/-- Element j of width w of a word. -/
def elemOf (w j x : Nat) : Nat := x / 2 ^ (w * j) % 2 ^ w

/-- R149: a result that rounds to an infinity from finite operands is the largest finite magnitude, where sat asks. -/
def satFloat (f : FFmt) (sat : Bool) (ops : List FVal) (v : FVal) : FVal :=
  let finite := ops.all (fun x => match x with | .fin _ _ _ => true | _ => false)
  match v with
  | .inf neg => if sat && finite then .fin neg f.maxM f.maxE else v
  | _ => v

/-! ## Operations on patterns of a format -/

def fltAdd (f : FFmt) (sat : Bool) (rm : Rm) (a b : Nat) : Nat :=
  let x := f.decode a
  let y := f.decode b
  f.encode (satFloat f sat [x, y] (f.add rm x y))

def fltSub (f : FFmt) (sat : Bool) (rm : Rm) (a b : Nat) : Nat :=
  let x := f.decode a
  let y := (f.decode b).negate
  f.encode (satFloat f sat [x, y] (f.add rm x y))

def fltMul (f : FFmt) (sat : Bool) (rm : Rm) (a b : Nat) : Nat :=
  let x := f.decode a
  let y := f.decode b
  f.encode (satFloat f sat [x, y] (f.mul rm x y))

/-- round(+-(a x b) +- c), rounded once (R151). -/
def fltFma (f : FFmt) (sat : Bool) (rm : Rm) (negP negC : Bool) (a b c : Nat) : Nat :=
  let x := f.decode a
  let y := f.decode b
  let z := f.decode c
  let x' := if negP then x.negate else x
  let z' := if negC then z.negate else z
  f.encode (satFloat f sat [x, y, z] (f.fma rm x' y z'))

def fltMin (f : FFmt) (a b : Nat) : Nat := f.encode ((f.decode a).min (f.decode b))

def fltMax (f : FFmt) (a b : Nat) : Nat := f.encode ((f.decode a).max (f.decode b))

/-- R154: a zero divisor is no rounding, so sat leaves its infinity. -/
def fltDiv (sat : Bool) (rm : Rm) (a b : Nat) : Nat :=
  let f := FFmt.f32
  let x := f.decode a
  let y := f.decode b
  let q := x.div y
  f.encode (if y.isZero then q else satFloat f sat [x, y] (f.roundV rm q))

def fltSqrt (rm : Rm) (a : Nat) : Nat := FFmt.f32.encode (FFmt.f32.roundV rm (FFmt.f32.decode a).sqrt)

/-- A condition on floating values (R153). -/
def condFlt (c : FCond) (a b : FVal) : Bool :=
  let u := a.isNan || b.isNan
  match c with
  | .eq => a.eqv b
  | .ne => !a.eqv b
  | .lt => !u && a.lt b
  | .le => !u && !b.lt a
  | .gt => !u && b.lt a
  | .ge => !u && !a.lt b
  | .un => u

/-- `frnd` (R157): rounded to an integral value of the same sign. -/
def fltRnd (rm : Rm) (a : Nat) : Nat :=
  match FFmt.f32.decode a with
  | .fin neg m e => FFmt.f32.encode (.fin neg (roundInt rm neg m e).natAbs 0)
  | v => FFmt.f32.encode v

/-- `ffrac` (R157): A - floor(A), toward zero. -/
def fltFrac (a : Nat) : Nat :=
  match FFmt.f32.decode a with
  | .fin neg m e =>
    if 0 ≤ e then 0
    else
      let d := 2 ^ (-e).toNat
      let r := m % d
      let r := if neg ∧ r ≠ 0 then d - r else r
      FFmt.f32.encode (FFmt.f32.roundV .rtz (.fin false r e))
  | _ => canonF32

/-- The class mask (R158) of a pattern whose sign is read negated if asked. -/
def fltClass (f : FFmt) (neg : Bool) (a : Nat) : Nat :=
  let fr := a % 2 ^ f.fbits
  let e := a / 2 ^ f.fbits % 2 ^ f.ebits
  let s := a.testBit (f.fbits + f.ebits) != neg
  if e = 2 ^ f.ebits - 1 then
    if fr = 0 then (if s then 1 else 128) else if fr.testBit (f.fbits - 1) then 512 else 256
  else if e = 0 then
    if fr = 0 then (if s then 8 else 16) else (if s then 4 else 32)
  else if s then 2 else 64

/-- A finite value times a power of two. -/
def scaleBy (n : Int) : FVal → FVal
  | .fin neg m e => .fin neg m (e + n)
  | v => v

/-- `fscale` (R157). -/
def fltScale (sat : Bool) (rm : Rm) (a b : Nat) : Nat :=
  let n := Ty.intOf .i32 b
  let n := if n < -512 then -512 else if 512 < n then 512 else n
  let x := FFmt.f32.decode a
  FFmt.f32.encode (satFloat .f32 sat [x] (FFmt.f32.roundV rm (scaleBy n x)))

/-- `mxs` (R166): a value times two E8M0 scales. -/
def fltMxs (sat : Bool) (rm : Rm) (x : FVal) (b : Nat) : Nat :=
  let ea := b % 256
  let eb := b / 256 % 256
  if ea = 255 ∨ eb = 255 then canonF32
  else FFmt.f32.encode (satFloat .f32 sat [x] (FFmt.f32.roundV rm (scaleBy ((ea + eb : Nat) - 254) x)))

/-! ## Lanes -/

def usesA1 (f : FmtA) : Uses := { reads := [.v f.a.toNat], writes := [.v f.d.toNat] }

def usesAB1 (f : FmtA) : Uses := { reads := .v f.a.toNat :: useB f false, writes := [.v f.d.toNat] }

def usesABC1 (f : FmtA) : Uses := (usesAB1 f).and [.v f.c.toNat] []

/-- One 32-bit result in every participating lane, from the words of A, B and C with elements of `w` bits. -/
def State.mapWord (s : State) (f : FmtA) (w : Nat) (v : Nat → Nat → Nat → Nat) : State :=
  s.eachLane .n32 f.d (fun g l => v (g.wordA f w l) (g.wordB f w l) (g.wordC f w l)) [.v f.d.toNat]

/-! ## Ops 0x40 to 0x45: scalar arithmetic (R151 to R154) -/

/-- `fadd` -/
def execFadd (f : FmtA) (s : State) : Res :=
  .next (s.slot (.fadd f) (usesAB1 f) (fun s => s.mapWord f 32 (fun a b _ => fltAdd .f32 f.sat f.rm a b)))

/-- `fsub` -/
def execFsub (f : FmtA) (s : State) : Res :=
  .next (s.slot (.fsub f) (usesAB1 f) (fun s => s.mapWord f 32 (fun a b _ => fltSub .f32 f.sat f.rm a b)))

/-- `fmul` -/
def execFmul (f : FmtA) (s : State) : Res :=
  .next (s.slot (.fmul f) (usesAB1 f) (fun s => s.mapWord f 32 (fun a b _ => fltMul .f32 f.sat f.rm a b)))

/-- `ffma` -/
def execFfma (f : FmtA) (s : State) : Res :=
  .next (s.slot (.ffma f) (usesABC1 f) (fun s => s.mapWord f 32 (fltFma .f32 f.sat f.rm false false)))

/-- `ffms` -/
def execFfms (f : FmtA) (s : State) : Res :=
  .next (s.slot (.ffms f) (usesABC1 f) (fun s => s.mapWord f 32 (fltFma .f32 f.sat f.rm false true)))

/-- `fnma` -/
def execFnma (f : FmtA) (s : State) : Res :=
  .next (s.slot (.fnma f) (usesABC1 f) (fun s => s.mapWord f 32 (fltFma .f32 f.sat f.rm true false)))

/-- `fmin` -/
def execFmin (f : FmtA) (s : State) : Res :=
  .next (s.slot (.fmin f) (usesAB1 f) (fun s => s.mapWord f 32 (fun a b _ => fltMin .f32 a b)))

/-- `fmax` -/
def execFmax (f : FmtA) (s : State) : Res :=
  .next (s.slot (.fmax f) (usesAB1 f) (fun s => s.mapWord f 32 (fun a b _ => fltMax .f32 a b)))

/-- A scalar half taken from a uniform register or imm32 has its high bits zero (R147). -/
def Group.halfBad (g : Group) (f : FmtA) : Bool :=
  Ty.bits f.ty == 16 && f.bsel != 0 && g.src32 f 0 / 65536 != 0

/-- `fcmp` (R153) -/
def execFcmp (c : FCond) (f : FmtA) (s : State) : Res :=
  .next (s.slot (.fcmp c f) { reads := .v f.a.toNat :: useB f false ++ predReg f.c, writes := predReg f.d } (fun s =>
    let g := s.cg
    let w := Ty.bits f.ty
    let val (x : Nat) : FVal := (Ty.ffmt f.ty).decode (x % 2 ^ w)
    if g.halfBad f then s.raise 0x002
    else s.writePred f.d (fun l => condFlt c (val (g.wordA f w l)) (val (g.wordB f w l)) && g.predAt f.c f.nc l)))

/-- `fdiv` -/
def execFdiv (f : FmtA) (s : State) : Res :=
  .next (s.slot (.fdiv f) (usesAB1 f) (fun s => s.mapWord f 32 (fun a b _ => fltDiv f.sat f.rm a b)))

/-- `fsqrt` -/
def execFsqrt (f : FmtA) (s : State) : Res :=
  .next (s.slot (.fsqrt f) (usesA1 f) (fun s => s.mapWord f 32 (fun a _ _ => fltSqrt f.rm a)))

/-! ## Op 0x46: approximate functions (R155, R156) -/

/-- `frcp` -/
def execFrcp (f : FmtA) (s : State) : Res :=
  .next (s.slot (.frcp f) (usesA1 f) (fun s => s.mapWord f 32 (fun a _ _ => fRcp a)))

/-- `frsq` -/
def execFrsq (f : FmtA) (s : State) : Res :=
  .next (s.slot (.frsq f) (usesA1 f) (fun s => s.mapWord f 32 (fun a _ _ => fRsq a)))

/-- `fex2` -/
def execFex2 (f : FmtA) (s : State) : Res :=
  .next (s.slot (.fex2 f) (usesA1 f) (fun s => s.mapWord f 32 (fun a _ _ => fEx2 a)))

/-- `flg2` -/
def execFlg2 (f : FmtA) (s : State) : Res :=
  .next (s.slot (.flg2 f) (usesA1 f) (fun s => s.mapWord f 32 (fun a _ _ => fLg2 a)))

/-- `fsin` -/
def execFsin (f : FmtA) (s : State) : Res :=
  .next (s.slot (.fsin f) (usesA1 f) (fun s => s.mapWord f 32 (fun a _ _ => fSin a)))

/-- `fcos` -/
def execFcos (f : FmtA) (s : State) : Res :=
  .next (s.slot (.fcos f) (usesA1 f) (fun s => s.mapWord f 32 (fun a _ _ => fCos a)))

/-- `ftanh` -/
def execFtanh (f : FmtA) (s : State) : Res :=
  .next (s.slot (.ftanh f) (usesA1 f) (fun s => s.mapWord f 32 (fun a _ _ => fTanh a)))

/-! ## Op 0x47 (R157, R158) -/

/-- `frnd` -/
def execFrnd (f : FmtA) (s : State) : Res :=
  .next (s.slot (.frnd f) (usesA1 f) (fun s => s.mapWord f 32 (fun a _ _ => fltRnd f.rm a)))

/-- `ffrac` -/
def execFfrac (f : FmtA) (s : State) : Res :=
  .next (s.slot (.ffrac f) (usesA1 f) (fun s => s.mapWord f 32 (fun a _ _ => fltFrac a)))

/-- `fclass`: the negation changes how the sign is read, not the kind of NaN. -/
def execFclass (f : FmtA) (s : State) : Res :=
  .next (s.slot (.fclass f) (usesA1 f) (fun s =>
    s.eachLane .n32 f.d
      (fun g l => fltClass (Ty.ffmt f.ty) f.na ((g.vreg f.a.toNat l).toNat % 2 ^ Ty.bits f.ty)) [.v f.d.toNat]))

/-- `fscale` -/
def execFscale (f : FmtA) (s : State) : Res :=
  .next (s.slot (.fscale f) (usesAB1 f) (fun s => s.mapWord f 32 (fun a b _ => fltScale f.sat f.rm a b)))

/-! ## Op 0x48: packed halves (R159) -/

/-- Both elements of a packed pair. -/
def State.mapPair (s : State) (f : FmtA) (v : FFmt → Nat → Nat → Nat → Nat) : State :=
  let m := Ty.ffmt f.ty
  s.mapWord f 16 (fun a b c =>
    v m (elemOf 16 0 a) (elemOf 16 0 b) (elemOf 16 0 c)
      + 65536 * v m (elemOf 16 1 a) (elemOf 16 1 b) (elemOf 16 1 c))

/-- `hadd2` -/
def execHadd2 (f : FmtA) (s : State) : Res :=
  .next (s.slot (.hadd2 f) (usesAB1 f) (fun s => s.mapPair f (fun m a b _ => fltAdd m f.sat f.rm a b)))

/-- `hmul2` -/
def execHmul2 (f : FmtA) (s : State) : Res :=
  .next (s.slot (.hmul2 f) (usesAB1 f) (fun s => s.mapPair f (fun m a b _ => fltMul m f.sat f.rm a b)))

/-- `hfma2` -/
def execHfma2 (f : FmtA) (s : State) : Res :=
  .next (s.slot (.hfma2 f) (usesABC1 f) (fun s => s.mapPair f (fun m => fltFma m f.sat f.rm false false)))

/-- `hmin2` -/
def execHmin2 (f : FmtA) (s : State) : Res :=
  .next (s.slot (.hmin2 f) (usesAB1 f) (fun s => s.mapPair f (fun m a b _ => fltMin m a b)))

/-- `hmax2` -/
def execHmax2 (f : FmtA) (s : State) : Res :=
  .next (s.slot (.hmax2 f) (usesAB1 f) (fun s => s.mapPair f (fun m a b _ => fltMax m a b)))

/-! ## Ops 0x50 to 0x52: conversion (R160 to R163) -/

/-- The faults among converted elements, as lane and class. -/
def faultsOf (xs : List (Nat × ConvOut)) : List (Nat × ConvClass) :=
  xs.filterMap (fun p => match p.2 with | .fault c => some (p.1, c) | .val _ => none)

/-- The first faulting class in the order of R32. -/
def firstClass (xs : List (Nat × ConvClass)) : Option ConvClass :=
  [ConvClass.nan, .inf, .ovf, .unf].find? (fun c => xs.any (fun p => p.2 == c))

/-- A conversion of every element of every participating lane: the cause of R32 with nothing written, or the results. -/
def State.converted (s : State) (n : Nat) (elems : List (Nat × ConvOut)) (k : State → State) : State :=
  match firstClass (faultsOf elems) with
  | none => k s
  | some c =>
    let lanes := ((faultsOf elems).filter (fun p => p.2 == c)).map (·.1)
    s.raise (ConvClass.cause c) (some (maskOf lanes)) (BitVec.ofNat 64 n)

/-- The value of a conversion that did not fault. -/
def convGet : ConvOut → Nat
  | .val x => x
  | .fault _ => 0

/-- A conversion policy register of the team (R30). -/
def State.policyReg (s : State) (n : Nat) : DWord := Map.get 0 s.ct.cvpol n

/-- `cvt` (R160, R161) -/
def execCvt (f : FmtA) (s : State) : Res :=
  let n := (f.imm.extractLsb' 4 3).toNat
  .next (s.slot (.cvt f) { reads := regsOf f.cvtSrc f.a, writes := regsOf f.ty f.d } (fun s =>
    let conv (l : Nat) : ConvOut :=
      convert f.ty f.rm (s.policyReg n) (Ty.value f.cvtSrc (s.cg.regI f.cvtSrc f.a.toNat l))
    s.converted n (s.lanes.map (fun l => (l, conv l))) (fun s =>
      s.eachLane f.ty f.d (fun _ l => convGet (conv l)) (regsOf f.ty f.d))))

/-- `cvtpk` (R162) -/
def execCvtpk (f : FmtA) (s : State) : Res :=
  let n := (f.imm.extractLsb' 0 3).toNat
  let cnt := Ty.packN f.ty
  .next (s.slot (.cvtpk f) { reads := vregs f.a.toNat cnt, writes := [.v f.d.toNat] } (fun s =>
    let conv (l j : Nat) : ConvOut :=
      convert f.ty f.rm (s.policyReg n) (FFmt.f32.decode (s.cg.vreg (f.a.toNat + j) l).toNat)
    let elems := (s.lanes.map (fun l => (List.range cnt).map (fun j => (l, conv l j)))).flatten
    s.converted n elems (fun s =>
      s.eachLane .n32 f.d
        (fun _ l => (List.range cnt).foldl (fun x j => x + convGet (conv l j) * 2 ^ (Ty.bits f.ty * j)) 0) [.v f.d.toNat])))

/-- `cvtun` (R163) -/
def execCvtun (f : FmtA) (s : State) : Res :=
  let n := (f.imm.extractLsb' 0 3).toNat
  let cnt := Ty.packN f.ty
  .next (s.slot (.cvtun f) { reads := [.v f.a.toNat], writes := vregs f.d.toNat cnt } (fun s =>
    let g := s.cg
    let conv (l j : Nat) : ConvOut :=
      convert .f32 f.rm (s.policyReg n) (Ty.value f.ty (elemOf (Ty.bits f.ty) j (g.vreg f.a.toNat l).toNat))
    let elems := (s.lanes.map (fun l => (List.range cnt).map (fun j => (l, conv l j)))).flatten
    s.converted n elems (fun s =>
      let put (h : Group) (l : Nat) : Group :=
        (List.range cnt).foldl (fun h j => h.setV (f.d.toNat + j) l (BitVec.ofNat 32 (convGet (conv l j)))) h
      (s.setG (fun h => s.lanes.foldl put h)).retire (vregs f.d.toNat cnt))))

/-! ## Op 0x53: packed dot products (R34 to R37, R164) -/

/-- The exact sum of products of floating elements and an accumulator, rounded once with RNE (R34, R35). -/
def dotFloat (t : Ty) (a b c : Nat) : Nat :=
  let w := Ty.bits t
  let prods := (List.range (32 / w)).map (fun j => (Ty.value t (elemOf w j a)).mul (Ty.value t (elemOf w j b)))
  FFmt.f32.encode (FFmt.f32.roundV .rne (exactSum false (prods ++ [FFmt.f32.decode c])))

/-- The sum of integer products and an accumulator of a type (R36). -/
def dotInt (t acc : Ty) (sat : Bool) (a b c : Nat) : Nat :=
  let w := Ty.bits t
  Ty.fit acc sat ((List.range (32 / w)).foldl (fun x j => x + Ty.intOf t (elemOf w j a) * Ty.intOf t (elemOf w j b))
    (Ty.intOf acc c))

/-- The signed code of a half-step pattern (R21). -/
def halfCode (t : Ty) (x : Nat) : Int :=
  let w := Ty.bits t
  if 2 ^ (w - 1) ≤ x % 2 ^ w then (x % 2 ^ w : Nat) - (2 ^ w : Nat) else (x % 2 ^ w : Nat)

/-- The sum of half-step products in quarter units and an accumulator (R37). -/
def dotHalf (t : Ty) (sat : Bool) (a b c : Nat) : Nat :=
  let w := Ty.bits t
  Ty.fit .i32 sat ((List.range (32 / w)).foldl
    (fun x j => x + (2 * halfCode t (elemOf w j a) + 1) * (2 * halfCode t (elemOf w j b) + 1)) (Ty.intOf .i32 c))

/-- A floating dot product: na and nb change the sign of every element, nc that of the accumulator. -/
def State.mapDot (s : State) (f : FmtA) (t : Ty) : State :=
  s.eachLane .n32 f.d
    (fun g l => dotFloat t (g.wordA f (Ty.bits t) l) (g.wordB f (Ty.bits t) l) (g.wordC f 32 l)) [.v f.d.toNat]

/-- `dp2.bf16.f32` -/
def execDp2Bf16 (f : FmtA) (s : State) : Res :=
  .next (s.slot (.dp2Bf16 f) (usesABC1 f) (fun s => s.mapDot f .bf16))

/-- `dp2.f16.f32` -/
def execDp2F16 (f : FmtA) (s : State) : Res := .next (s.slot (.dp2F16 f) (usesABC1 f) (fun s => s.mapDot f .f16))

/-- `dp4.e4m3.f32` -/
def execDp4E4m3 (f : FmtA) (s : State) : Res :=
  .next (s.slot (.dp4E4m3 f) (usesABC1 f) (fun s => s.mapDot f .e4m3))

/-- `dp4.e5m2.f32` -/
def execDp4E5m2 (f : FmtA) (s : State) : Res :=
  .next (s.slot (.dp4E5m2 f) (usesABC1 f) (fun s => s.mapDot f .e5m2))

/-- `dp4.hs8.i32` -/
def execDp4Hs8 (f : FmtA) (s : State) : Res :=
  .next (s.slot (.dp4Hs8 f) (usesABC1 f) (fun s => s.mapWord f 32 (dotHalf .hs8 f.sat)))

/-- `dp8.hs4.i32` -/
def execDp8Hs4 (f : FmtA) (s : State) : Res :=
  .next (s.slot (.dp8Hs4 f) (usesABC1 f) (fun s => s.mapWord f 32 (dotHalf .hs4 f.sat)))

/-- `dp8.e2m1.f32` -/
def execDp8E2m1 (f : FmtA) (s : State) : Res :=
  .next (s.slot (.dp8E2m1 f) (usesABC1 f) (fun s => s.mapDot f .e2m1))

/-- `dp4.i8.i32` -/
def execDp4I8 (f : FmtA) (s : State) : Res :=
  .next (s.slot (.dp4I8 f) (usesABC1 f) (fun s => s.mapWord f 32 (dotInt .i8 .i32 f.sat)))

/-- `dp4.n8.n32` -/
def execDp4N8 (f : FmtA) (s : State) : Res :=
  .next (s.slot (.dp4N8 f) (usesABC1 f) (fun s => s.mapWord f 32 (dotInt .n8 .n32 f.sat)))

/-! ## Op 0x54: scales (R166) -/

/-- `mxs`. On an i32 source `na` negates the exact integer, so that a zero stays +0: R147 speaks of a sign bit, which an integer has not,
and R166 says no more than that na applies to A (DESIGN CHOICE, log 52). -/
def execMxs (f : FmtA) (s : State) : Res :=
  .next (s.slot (.mxs f) (usesAB1 f) (fun s =>
    s.eachLane .n32 f.d
      (fun g l =>
        let a := (g.vreg f.a.toNat l).toNat
        let n := if f.na then -(Ty.intOf .i32 a) else Ty.intOf .i32 a
        let x : FVal :=
          if f.ty == .f32 then FFmt.f32.decode (negated f.na 32 a) else .fin (decide (n < 0)) n.natAbs 0
        fltMxs f.sat f.rm x (g.src32 f l)) [.v f.d.toNat]))

end Sys2Proof.Machine
end

