-- ==== Sys2Proof/Machine/Producer.lean ====
section
/-!
DEFINITION. Sys2Proof/Machine/Producer.lean: the producer slot (R246 to R260): its controlling instructions, its streams and
tables, and its micro-operations.
-/

namespace Sys2Proof.Machine

/-! ## Streams (R252, R256) -/

/-- What reading a word of a stream gives: the word, a wait, or a fault at an address. -/
inductive WordOut where
  | got (x : Word) (s : State)
  | waits (s : State)
  | fault (cause : BitVec 9) (addr : Int)

/-- The key of a request for a peer's word: its address, and who asks (0 the micro-operation, 1 and 2 the table loads). -/
def askKey (who va : Nat) : Nat := 4 * va + who

/-- Pieces of a memory word read at home or from a peer, in ascending order. -/
def State.prodPieces (s : State) (core who : Nat) : List (Nat × Nat × Nat) → List Byte → WordOut
  | [], bs => .got (BitVec.ofNat 32 (natOfBytes bs)) s
  | (line, off, n) :: rest, bs =>
    let p := s.prod core
    let ctx := (s.teamOf p.team).ctx
    match s.translate ctx p.user .read line with
    | .error .wait => .waits s
    | .error (.trap c _ i0 _ _) => .fault c i0.toNat
    | .ok (.loc m) | .ok (.nc m) =>
      match s.reachStop line m false with
      | some .wait => .waits s
      | some (.trap c _ i0 _ _) => .fault c i0.toNat
      | none =>
        let r := (s.cache ctx line).readLine m
        r.2.prodPieces core who rest (bs ++ (r.1.drop off).take n)
    | .ok (.rem peer m) =>
      match Map.find p.asked (askKey who (line + off)) with
      | none =>
        match s.viewStopOf (s.groupAt p.team p.group) with
        | some (.trap c _ _ _ _) => .fault c line
        | _ =>
          if s.peerBad peer then .fault 0x1C4 line
          else
            let x := s.sendReqFor ⟨p.team, p.group, 0⟩ p.start false none peer line m .read [] none
            .waits (x.2.updProd core (fun p => { p with asked := Map.put p.asked (askKey who (line + off)) x.1 }))
      | some id =>
        match (Map.find s.reqs id).bind (·.reply) with
        | none => .waits s
        | some (.data d) => s.prodPieces core who rest (bs ++ (d.drop off).take n)
        | some x => .fault ((RemoteReply.cause x).getD 0) line

/-- Word i of a stream: a scratchpad word, or a word of a raw record with its swizzle, bounded by the extent. -/
def State.streamWord (s : State) (core who : Nat) (st : Stream) (i : Nat) : WordOut :=
  let t := s.teamOf (s.prod core).team
  let o := st.off + 4 * i
  match st.record with
  | none =>
    if t.spSize < o + 4 then .fault 0x100 o
    else if t.lineAbsent (o / 128) then .waits s
    else if t.badSp.contains (o / 128) then .fault 0x10C (o / 128 * 128)
    else .got (BitVec.ofNat 32 (t.spRead o 4)) s
  | some x =>
    let r := BRec.of x
    let a := r.base + swizzle r.swz o
    if r.extent < o + 4 then .fault 0x040 (r.base + o : Nat)
    else if 2 ^ 57 < a + 4 then .fault 0x04E a
    else s.prodPieces core who (linePieces a 4) []

/-- What reading several words gives. -/
inductive WordsOut where
  | got (x : List Word) (s : State)
  | waits (s : State)
  | fault (cause : BitVec 9) (addr : Int)

/-- Consecutive words of a stream, each as one access. -/
def State.streamWords (s : State) (core who : Nat) (st : Stream) (i : Nat) : Nat → WordsOut
  | 0 => .got [] s
  | n + 1 =>
    match s.streamWord core who st i with
    | .waits s => .waits s
    | .fault c a => .fault c a
    | .got x s =>
      match s.streamWords core who st (i + 1) n with
      | .got xs s => .got (x :: xs) s
      | r => r

def Producer.stream (p : Producer) (st : Bool) : Stream := if st then p.st1 else p.st0

def Producer.setStream (p : Producer) (st : Bool) (x : Stream) : Producer := if st then { p with st1 := x } else { p with st0 := x }

def Producer.bank (p : Producer) (tb : Bool) : TableBank := if tb then p.tb1 else p.tb0

def Producer.setBank (p : Producer) (tb : Bool) (x : TableBank) : Producer := if tb then { p with tb1 := x } else { p with tb0 := x }

def Producer.reg (p : Producer) (r : Nat) : Word := Map.get 0 p.x r

/-- x0 discards what is written to it (R247). -/
def Producer.setReg (p : Producer) (r : Nat) (x : Word) : Producer := if r = 0 then p else { p with x := Map.set 0 p.x r x }

/-! ## Running, stalling and stopping (R248, R253) -/

/-- The program runs or is stalled. -/
def Producer.busy (p : Producer) : Bool := p.state == 2 || p.state == 3

/-- Requests of one asker are over. -/
def State.endAsked (s : State) (core who : Nat) : State :=
  let ids := ((s.prod core).asked.filter (fun a => a.1 % 4 == who)).map (·.2)
  (s.forget ids).updProd core (fun p => { p with asked := p.asked.filter (fun a => a.1 % 4 != who) })

/-- A micro-operation is done: its requests are over, and the program goes on at a word. -/
def State.prodGoTo (s : State) (core pc : Nat) (f : Producer → Producer) : State :=
  (s.endAsked core 0).updProd core (fun p => { f p with state := 2, why := 0, counted := false, pc := pc })

/-- A micro-operation is done and the next word follows. -/
def State.prodGo (s : State) (core : Nat) (f : Producer → Producer) : State := s.prodGoTo core ((s.prod core).pc + 1) f

/-- A micro-operation stalls for a reason (R254). -/
def State.prodStall (s : State) (core why : Nat) : State := s.updProd core (fun p => { p with state := 3, why := why })

/-- A micro-operation of a core's producer, if its program runs. -/
def State.micro (s : State) (f : Nat → Producer → State) : Res :=
  let core := s.cur.core
  let p := s.prod core
  .next (if Map.has s.producers core && p.busy then f core p else s)

/-- A fault of the micro-operation at the program's word. -/
def State.microFault (s : State) (core : Nat) (cause : BitVec 9) (addr : Int) : State :=
  s.producerFault core cause addr (s.prod core).pc

/-- A PUSH that the queue has served takes effect: its landing, then the next word (R256). -/
def State.pushDone (s : State) (core : Nat) : State :=
  let p := s.prod core
  let land := match decodeStream (Map.get 0 p.store p.pc) with | some (.push _ l _) => l | _ => false
  let s := { s with pushServed := s.pushServed.filter (· != core) }
  let s := s.prodGo core (fun p => { p with queued := false })
  match p.clasp, land with
  | some a, true => s.updTeam p.team (fun t => { t with landings := t.landings ++ [⟨a, 4, .producer core p.pc⟩] })
  | _, _ => s

/-- The words of a table load that can arrive now do, in order (R258); the bank is landed after the last one. A load from a
scratchpad line that is absent waits. -/
def State.loadTable (s : State) (core : Nat) (tb : Bool) : WordsOut :=
  let p := s.prod core
  let b := p.bank tb
  match b.load with
  | none => .got [] s
  | some l =>
    if l.abandoned then .waits s
    else
      match s.streamWords core (if tb then 2 else 1) (p.stream l.stream) (l.start / 32) b.size with
      | .got xs s =>
        .got xs ((s.endAsked core (if tb then 2 else 1)).updProd core (fun p => p.setBank tb ⟨xs, b.size, true, none⟩))
      | r => r

/-- A table load that waits on an absent scratchpad line. -/
def State.loadAbsent (s : State) (core : Nat) (tb : Bool) : Bool :=
  let p := s.prod core
  let b := p.bank tb
  match b.load with
  | none => false
  | some l =>
    let st := p.stream l.stream
    let t := s.teamOf p.team
    st.record.isNone && (List.range b.size).any (fun i => t.lineAbsent ((st.off + 4 * (l.start / 32 + i)) / 128))

/-- Table loads at a stop (R253): one that waits on an absent line is abandoned, the others land if they can. -/
def State.settleTable (s : State) (core : Nat) (tb : Bool) : State :=
  if s.loadAbsent core tb then
    s.updProd core (fun p =>
      let b := p.bank tb
      p.setBank tb { b with load := b.load.map (fun l => { l with abandoned := true }) })
  else
    match s.loadTable core tb with
    | .got _ s => s
    | .waits s => s
    | .fault c a =>
      let pc := match ((s.prod core).bank tb).load with | some l => l.pc | none => 0
      s.producerFault core c a pc

/-- A table load is still in flight. -/
def Producer.loading (p : Producer) : Bool :=
  let on (b : TableBank) : Bool := match b.load with | some l => !l.abandoned | none => false
  on p.tb0 || on p.tb1

/-- A program stops at a word boundary (R253): a PUSH that was served is done, a stalled one gives up its place. -/
def State.haltProgram (s : State) (core : Nat) : State :=
  let s := if s.pushServed.contains core && (s.prod core).busy then s.pushDone core else s.withdrawPush core
  let s := s.endAsked core 0
  if (s.prod core).busy then s.updProd core (fun p => { p with state := 4, why := 0 }) else s

/-- The slot is freed. -/
def State.freeProducer (s : State) (core : Nat) : State :=
  { s.forget ((s.prod core).asked.map (·.2)) with
    producers := Map.erase s.producers core, pushServed := s.pushServed.filter (· != core) }

/-! ## Controlling instructions (R249 to R254) -/

/-- A word that `pdload` refuses in a program of n words (R251). -/
def microBad (n : Nat) (w : Word) : Bool :=
  match decodeStream w with
  | none => true
  | some (.rd d _ c) => decide (15 < d.toNat + c.toNat)
  | some (.tld _ _ e) => decide (5 < e.toNat)
  | some (.streamLoop _ t) => decide (n ≤ t.toNat)
  | some (.streamCvt _ _ dty sty _ _) => dty == sty || decide (32 < dty.bits) || decide (32 < sty.bits)
  | some _ => false

/-- The words of a program from its bytes. -/
def wordsOf (n x : Nat) : List Word := (List.range n).map (fun i => BitVec.ofNat 32 (x / 2 ^ (32 * i)))

/-- The slot is taken with a program. -/
def State.takeProducer (s : State) (core team : Nat) (ws : List Word) : State :=
  let p := s.prod core
  let p := if Map.has s.producers core && p.team == team then p else { nullProducer with team := team }
  let store := ws.zipIdx.foldl (fun m x => Map.set 0 m x.2 x.1) p.store
  { s with
    producers := Map.put s.producers core { p with store := store, n := ws.length, pc := 0, state := 1, why := 0 }
    pushServed := s.pushServed.filter (· != core) }

/-- `pdload` in its blocking and try forms. -/
def State.loadProgram (s : State) (f : FmtE) (try_ : Bool) : State :=
  s.whenActs (fun s =>
    let core := s.ct.core
    let team := s.cur.ref.team
    let p := s.prod core
    let regs : List Reg := [.s f.d.toNat]
    let other : Bool := Map.has s.producers core && p.team != team
    let n := (f.imm.extractLsb' 8 8).toNat + 1
    let k := (f.imm.extractLsb' 0 5).toNat
    let off := (s.cg.ureg f.a.toNat).toNat
    if other then
      if try_ then (s.setG (·.setU f.d.toNat 1)).retire regs else s.park (.again .producer) regs
    else if Map.has s.producers core && p.busy then s.raise 0x152
    else if off % 4 ≠ 0 then s.raise 0x101 none (BitVec.ofNat 64 off)
    else
      let r := (s.ct.record k).asBytes
      let ixs := (List.range n).map (fun i => (⟨i, off + 4 * i⟩ : LaneIx))
      s.loadVia true (s.resolveRec r k 0 ⟨1, 4, .read, true⟩ .plain true ixs) (fun xs s =>
        let ws := (List.range n).map (fun i => BitVec.ofNat 32 (laneNat 4 xs i))
        match ws.findIdx? (microBad n) with
        | some i => s.raise 0x150 none (BitVec.ofNat 64 i)
        | none => ((s.takeProducer core team ws).setG (·.setU f.d.toNat 0)).retire regs))

/-- `pdload` (R250, R251) -/
def execPdload (f : FmtE) (s : State) : Res :=
  .next (s.slot (.pdload f) { reads := [.s f.a.toNat], writes := [.s f.d.toNat] } (fun s => s.loadProgram f false))

/-- `pdload.try` (R250) -/
def execPdloadTry (f : FmtE) (s : State) : Res :=
  .next (s.slot (.pdloadTry f) { reads := [.s f.a.toNat], writes := [.s f.d.toNat] } (fun s => s.loadProgram f true))

/-- A stream descriptor that breaks its layout, or names a record that is not raw (R252). -/
def streamBad (t : Team) (x : DWord) : Bool :=
  field x 57 32 != 0 || field x 1 0 != 0 ||
    (if x.getLsbD 63 then field x 62 58 != 0 else (t.record (field x 62 58)).mode != .raw)

/-- The stream that a descriptor binds. -/
def Stream.of (t : Team) (x : DWord) : Stream :=
  ⟨if x.getLsbD 63 then none else some (Map.get 0 t.bf (field x 62 58)), field x 31 0, 0⟩

/-- The program has a PUSH with its landing bit. -/
def Producer.lands (p : Producer) : Bool :=
  (List.range p.n).any (fun i => match decodeStream (Map.get 0 p.store i) with | some (.push _ l _) => l | _ => false)

/-- An abandoned load starts again. -/
def TableBank.restart (b : TableBank) : TableBank := { b with load := b.load.map (fun l => { l with abandoned := false }) }

/-- `pdstart`, fresh or continuing. -/
def State.startProgram (s : State) (f : FmtE) (cont : Bool) : State :=
  s.whenActs (fun s =>
    let core := s.ct.core
    let t := s.ct
    let p := s.prod core
    let a := s.cg.ureg f.a.toNat
    let b := s.cg.ureg f.b.toNat
    let given : Option Nat := if f.imm.getLsbD 31 then some (f.imm.extractLsb' 0 19).toNat else none
    let clasp := match given with | some c => some c | none => if cont then p.clasp else none
    let claspBad := match given with | some c => c % 8 != 0 || decide (t.spSize < c + 16) | none => false
    if !Map.has s.producers core || p.team != s.cur.ref.team then s.raise 0x151
    else if p.busy || (cont && p.state != 4) then s.raise 0x152
    else if (if cont then a != 0 || b != 0 else streamBad t a || streamBad t b) || claspBad || (p.lands && clasp.isNone) then
      s.raise 0x153
    else
      let q : Producer :=
        if cont then { p with tb0 := p.tb0.restart, tb1 := p.tb1.restart }
        else
          { p with
            pc := 0, x := [], st0 := Stream.of t a, st1 := Stream.of t b, tb0 := nullProducer.tb0, tb1 := nullProducer.tb1
            counted := false }
      let q := { q with
        clasp := clasp, group := s.cur.ref.group, user := !s.cg.sys, start := s.cf.pc, state := 2, why := 0 }
      let s := if cont then s else ((s.endAsked core 0).endAsked core 1).endAsked core 2
      let s := { s with pushServed := s.pushServed.filter (· != core) }
      (s.updProd core (fun _ => { q with asked := [] })).retire [])

/-- `pdstart` (R252) -/
def execPdstart (f : FmtE) (s : State) : Res :=
  .next (s.slot (.pdstart f) { reads := [.s f.a.toNat, .s f.b.toNat] } (fun s => s.startProgram f false))

/-- `pdstart.cont` (R252) -/
def execPdstartCont (f : FmtE) (s : State) : Res :=
  .next (s.slot (.pdstartCont f) { reads := [.s f.a.toNat, .s f.b.toNat] } (fun s => s.startProgram f true))

/-- `pdstop`: the slot holds the instruction until every table load that can land has landed (R253). -/
def State.stopProgram (s : State) (free : Bool) : State :=
  s.whenActs (fun s =>
    let core := s.ct.core
    if !Map.has s.producers core || (s.prod core).team != s.cur.ref.team then s.raise 0x151
    else
      let busy := (s.prod core).busy
      let s := s.haltProgram core
      let s := if busy || (s.prod core).loading then (s.settleTable core false).settleTable core true else s
      if (s.prod core).loading then s else (if free then s.freeProducer core else s).retire [])

/-- `pdstop` (R253) -/
def execPdstop (s : State) : Res := .next (s.slot .pdstop {} (fun s => s.stopProgram false))

/-- `pdstop.rel` (R253) -/
def execPdstopRel (s : State) : Res := .next (s.slot .pdstopRel {} (fun s => s.stopProgram true))

/-- The word of `pdstat` (R254). -/
def Producer.stat (p : Producer) : Nat :=
  p.cause.toNat * 2 ^ 55 + p.pc % 256 * 2 ^ 40 + p.why * 2 ^ 36 + min p.tblstall (2 ^ 24 - 1) * 2 ^ 8 + p.state

/-- `pdstat` (R254): 5 where another team holds the slot, 0 where it is free. -/
def execPdstat (f : FmtE) (s : State) : Res :=
  .next (s.slot (.pdstat f) { writes := [.s f.d.toNat] } (fun s =>
    s.whenActs (fun s =>
      let core := s.ct.core
      let p := s.prod core
      let x := if !Map.has s.producers core then 0 else if p.team = s.cur.ref.team then p.stat else 5
      (s.setG (·.setU f.d.toNat (BitVec.ofNat 64 x))).retire [.s f.d.toNat])))

/-! ## Micro-operations (R256) -/

/-- The program ends, closing queues; it stalls while one of them takes no step (R211). -/
def State.endProgram (s : State) (core : Nat) (mask : BitVec 16) : State :=
  let team := (s.prod core).team
  let qs := (List.range 16).filter (fun q => mask.getLsbD q)
  if qs.any (fun q => (s.queueStuck team q).isSome) then s.prodStall core 3
  else qs.foldl (fun s q => s.closeQueue team q) (s.updProd core (fun p => { p with state := 6, why := 0 }))

/-- `END` -/
def execEndp (mask : BitVec 16) (s : State) : Res := s.micro (fun core _ => s.endProgram core mask)

/-- `RD` -/
def execRd (d : BitVec 4) (st : Bool) (n : BitVec 3) (s : State) : Res :=
  s.micro (fun core p =>
    let x := p.stream st
    let cnt := n.toNat + 1
    if x.pos % 32 ≠ 0 then s.microFault core 0x154 0
    else
      match s.streamWords core 0 x (x.pos / 32) cnt with
      | .fault c a => s.microFault core c a
      | .waits s => s.prodStall core 1
      | .got ws s =>
        s.prodGo core (fun p =>
          (ws.zipIdx.foldl (fun p w => p.setReg (d.toNat + w.2) w.1) p).setStream st { x with pos := x.pos + 32 * cnt }))

/-- `UNP`: a field of k bits, which may span two words. -/
def execUnp (d : BitVec 4) (st : Bool) (k : BitVec 5) (s : State) : Res :=
  s.micro (fun core p =>
    let x := p.stream st
    let cnt := k.toNat + 1
    let first := x.pos / 32
    let words := (x.pos + cnt - 1) / 32 - first + 1
    match s.streamWords core 0 x first words with
    | .fault c a => s.microFault core c a
    | .waits s => s.prodStall core 1
    | .got ws s =>
      let all := ws.zipIdx.foldl (fun n w => n + w.1.toNat * 2 ^ (32 * w.2)) 0
      s.prodGo core (fun p =>
        (p.setReg d.toNat (BitVec.ofNat 32 (all / 2 ^ (x.pos % 32) % 2 ^ cnt))).setStream st { x with pos := x.pos + cnt }))

/-- `LUT`: a table that has not landed stalls it, once counted. -/
def execLut (d a : BitVec 4) (tb : Bool) (s : State) : Res :=
  s.micro (fun core p =>
    let b := p.bank tb
    if !b.landed then
      (s.updProd core (fun p =>
        if p.counted then p else { p with counted := true, tblstall := min (p.tblstall + 1) (2 ^ 24 - 1) })).prodStall core 2
    else s.prodGo core (fun p => p.setReg d.toNat (b.entries.getD ((p.reg a.toNat).toNat % b.size) 0)))

/-- `TLD`: the bank is not landed from here on until its last word has arrived. -/
def execTld (tb st : Bool) (e : BitVec 3) (s : State) : Res :=
  s.micro (fun core p =>
    let x := p.stream st
    let m := 2 ^ (e.toNat + 3)
    if (p.bank tb).load.isSome then s.prodStall core 5
    else if x.pos % 32 ≠ 0 then s.microFault core 0x154 0
    else
      s.prodGo core (fun p =>
        (p.setBank tb ⟨[], m, false, some ⟨st, x.pos, p.pc, false⟩⟩).setStream st { x with pos := x.pos + 32 * m }))

/-- `CVT`, by the conversion policy that holds when it executes (R33); a narrow source is read from the register's low bits
(R146). -/
def execStreamCvt (d a : BitVec 4) (dty sty : Ty) (pol : BitVec 3) (rm : Rm) (s : State) : Res :=
  s.micro (fun core p =>
    let x := (p.reg a.toNat).toNat % 2 ^ Ty.bits sty
    match convert dty rm (Map.get 0 (s.teamOf p.team).cvpol pol.toNat) (Ty.value sty x) with
    | .fault c => s.microFault core (ConvClass.cause c) 0
    | .val y => s.prodGo core (fun p => p.setReg d.toNat (BitVec.ofInt 32 (Ty.intOf dty y))))

/-- `SCL` -/
def execScl (d a b : BitVec 4) (rm : Rm) (s : State) : Res :=
  s.micro (fun core _ =>
    s.prodGo core (fun p =>
      p.setReg d.toNat (BitVec.ofNat 32 (fltMul FFmt.f32 false rm (p.reg a.toNat).toNat (p.reg b.toNat).toNat))))

/-- `PUSH`: while the allowance is short, pushers wait ahead of it or the ring's line is absent, it holds a place among the
pushers (R211). -/
def execPush (a : BitVec 4) (_land : Bool) (q : BitVec 4) (s : State) : Res :=
  s.micro (fun core p =>
    let n := q.toNat
    let qu := (s.teamOf p.team).queue n
    if s.pushServed.contains core then s.pushDone core
    else if !qu.cfg then s.microFault core 0x102 0
    else if qu.closed then s.microFault core 0x103 0
    else
      let s :=
        if p.queued then s
        else
          let r : QReq := ⟨none, core, [p.reg a.toNat], 1, [], 0, 7, true, p.start⟩
          (s.updTeam p.team (fun t => t.setQ n { t.queue n with pushers := (t.queue n).pushers ++ [r] })).updProd core
            (fun p => { p with queued := true })
      let s := s.serveAll p.team n
      if s.pushServed.contains core then s.pushDone core else s.prodStall core 3)

/-- `WAITC`: a clasp line that is absent waits as the clasp does. -/
def execWaitc (par : Bool) (addr : BitVec 16) (s : State) : Res :=
  s.micro (fun core p =>
    let t := s.teamOf p.team
    let a := addr.toNat * 8
    if t.spSize < a + 16 then s.microFault core 0x100 a
    else if (t.claspAbsent a).isEmpty && (t.claspBad a).isSome then s.microFault core 0x10C (128 * (t.claspBad a).getD 0 : Nat)
    else if !(t.claspAbsent a).isEmpty || (t.clasp a).phase == par then s.prodStall core 4
    else s.prodGo core id)

/-- `LOOP` -/
def execStreamLoop (a : BitVec 4) (target : BitVec 8) (s : State) : Res :=
  s.micro (fun core p =>
    let q := p.setReg a.toNat (p.reg a.toNat - 1)
    s.prodGoTo core (if q.reg a.toNat = 0 then p.pc + 1 else target.toNat) (fun _ => q))

/-- `ADD` of two registers, the second one shifted left. -/
def execStreamAddShift (d a b : BitVec 4) (sh : BitVec 5) (s : State) : Res :=
  s.micro (fun core _ =>
    s.prodGo core (fun p => p.setReg d.toNat (p.reg a.toNat + (p.reg b.toNat <<< sh.toNat))))

/-- `ADD` of a register and a signed immediate. -/
def execStreamAddImm (d a : BitVec 4) (imm : BitVec 15) (s : State) : Res :=
  s.micro (fun core _ => s.prodGo core (fun p => p.setReg d.toNat (p.reg a.toNat + imm.signExtend 32)))

/-! ## Turns and events -/

/-- A core's producer takes its turn (R248): the micro-operation at its word, or `END 0` past the last one (R256). -/
def State.producerTurn (ex : Instr → State → Res) (s : State) (core : Nat) : Res :=
  let p := s.prod core
  if !Map.has s.producers core || !p.busy || (s.teamOf p.team).status != .resident then .next s
  else if p.n ≤ p.pc then .next (s.endProgram core 0)
  else
    match decodeStream (Map.get 0 p.store p.pc) with
    | none => .next s
    | some i => ex i { s with cur := { s.cur with core := core } }

/-- TABLE_LANDED: the words of a table load arrive in order, and the bank is landed (R258). -/
def execTableLanded (core : Nat) (tb : Bool) (s : State) : Res :=
  match s.loadTable core tb with
  | .got _ s => .next s
  | .waits s => .next s
  | .fault _ _ => .next s

/-- PRODUCER_FAULT: a table load meets a fault (R259). -/
def execProducerFault (core cause addr : Nat) (s : State) : Res :=
  let meets (tb : Bool) : Option Nat :=
    match s.loadTable core tb with
    | .fault c a =>
      if c.toNat = cause ∧ a = addr then (((s.prod core).bank tb).load).map (·.pc) else none
    | _ => none
  match meets false, meets true with
  | some pc, _ => .next (s.producerFault core (BitVec.ofNat 9 cause) addr pc)
  | none, some pc => .next (s.producerFault core (BitVec.ofNat 9 cause) addr pc)
  | none, none => .next s

end Sys2Proof.Machine
end

