-- ==== Sys2Proof/Machine/Tiles.lean ====
section
/-!
DEFINITION. Sys2Proof/Machine/Tiles.lean: tile registers and the matrix engine (R168 to R191).
-/

namespace Sys2Proof.Machine

/-! ## Shape registers and layout (R169, R170) -/

/-- A shape register's fields, sizes as sizes. -/
structure Tile where
  en : Bool
  base : Nat
  ty : Ty
  rows : Nat
  cols : Nat
deriving DecidableEq, Repr

def Tile.of (x : DWord) : Tile where
  en := x.getLsbD 0
  base := field x 31 24
  ty := Ty.ofCode (x.extractLsb' 20 4)
  rows := field x 19 12 + 1
  cols := field x 11 4 + 1

def Tile.bits (t : Tile) : Nat := Ty.bits t.ty

/-- The bytes of a tile, and of one of its rows in scratchpad (R170, R178). -/
def Tile.bytes (t : Tile) : Nat := (t.rows * t.cols * t.bits + 7) / 8

def Tile.rowBytes (t : Tile) : Nat := t.cols * t.bits / 8

/-- The units a tile spans (R170). -/
def Tile.units (t : Tile) : List Nat :=
  (List.range ((t.rows * t.cols * t.bits + 32767) / 32768)).map (· + t.base)

/-- Two tiles share a unit (R173). -/
def Tile.overlaps (a b : Tile) : Bool := a.units.any b.units.contains

/-- The same tile: base and shape (R181). -/
def Tile.same (a b : Tile) : Bool := a.base == b.base && a.rows == b.rows && a.cols == b.cols && a.ty == b.ty

/-- An `mtsp` that sets en in a shape register is refused (R171). -/
def shapeBad (x : DWord) (units : Nat) : Bool :=
  let t := Tile.of x
  t.en && (t.bits == 64 || (t.bits == 4 && t.cols % 2 == 1) || decide (units < t.base + t.units.length))

/-- The tile that a shape register of the team describes. -/
def Team.tile (t : Team) (n : BitVec 4) : Tile := Tile.of (Map.get 0 t.mc n.toNat)

/-- Element (i, j) of a tile (R170). -/
def Team.tileElem (t : Team) (x : Tile) (i j : Nat) : Nat :=
  let n := i * x.cols + j
  let a := 4096 * x.base + n * x.bits / 8
  if x.bits = 4 then elemOf 4 (n % 2) (Map.get 0 t.tiles a).toNat else natOfBytes (Map.bytes t.tiles a (x.bits / 8))

/-- The bytes of elements in storage order; 4-bit elements in pairs. -/
def packElems (b : Nat) : List Nat → List Byte
  | [] => []
  | [x] => bytesOfNat ((b + 7) / 8) x
  | x :: y :: l => if b = 4 then BitVec.ofNat 8 (x % 16 + 16 * (y % 16)) :: packElems b l
    else bytesOfNat (b / 8) x ++ packElems b (y :: l)

/-- Bytes written from the start of a tile: a unit written whole is corrected (R191). -/
def Team.tileBytes (t : Team) (x : Tile) (l : List Byte) : Team :=
  { t with
    tiles := Map.setBytes t.tiles (4096 * x.base) l
    badUnits := t.badUnits.filter (fun u => decide (u < x.base) || decide (x.base + l.length / 4096 ≤ u)) }

/-- Every element of a tile written. -/
def Team.tileFill (t : Team) (x : Tile) (v : Nat → Nat → Nat) : Team :=
  t.tileBytes x (packElems x.bits ((List.range (x.rows * x.cols)).map (fun n => v (n / x.cols) (n % x.cols))))

/-! ## Issue (R173, R174, R191) -/

/-- A tile instruction waits at its slot: one of the team that is parked uses its units. -/
def State.tileParked (s : State) (use : TileUse) : Bool :=
  s.ct.groups.any (fun g => g.2.frags.any (fun f =>
    (g.1 != s.cur.ref.group || f.1 != s.cur.ref.entry) &&
      match f.2.run with
      | some r => use.conflicts r.2
      | none => false))

/-- A hold by the scoreboard is counted once (R174). -/
def State.countHold (s : State) : State :=
  if s.cf.counted.tile then s
  else
    (s.setG (fun g => { g with sbcnt := (g.sbcnt + 1) % 2 ^ 32 })).setF
      (fun f => { f with counted := { f.counted with tile := true } })

/-- Past the scoreboard: an uncorrectable unit among those read gives 0x016, which is not precise, and nothing is written
(R191). -/
def State.withUnits (s : State) (use : TileUse) (k : State → State) : State :=
  if s.tileParked use then s.countHold
  else
    let s := if s.ct.tileHeld s.tick use then s.countHold else s
    match use.reads.find? s.ct.badUnits.contains with
    | some u =>
      let pc := s.cf.pc
      (s.setG (·.hold ⟨.storage, 0x016, pc, none, BitVec.ofNat 64 u, none, 0, 0, some 1⟩)).retire []
    | none => k s

/-- Every named tile is configured (check 1 of R173), else 0x012. -/
def State.configured (s : State) (l : List Tile) (k : State) : State := if l.all Tile.en then k else s.raise 0x012

/-- An instruction that writes a tile whole and reads others, once its checks passed. -/
def State.fillTile (s : State) (d : Tile) (reads : List Nat) (v : Team → Nat → Nat → Nat) : State :=
  let use : TileUse := ⟨reads, d.units⟩
  s.withUnits use (fun s => (s.setT (fun t => t.tileFill d (v t))).retireTile [] use)

/-! ## Zeroing, loading, storing (R177, R178, R189) -/

/-- `mzero` -/
def execMzero (f : FmtT) (s : State) : Res :=
  .next (s.slot (.mzero f) {} (fun s =>
    s.whenActs (fun s =>
      let d := s.ct.tile f.md
      s.configured [d] (s.fillTile d [] (fun _ _ _ => 0)))))

/-- The row addresses of `mld` and `mst`. -/
def rowAddrs (f : FmtT) (t : Tile) (a : DWord) : List Nat :=
  let addr := field a 31 0 + (f.imm.extractLsb' 0 16).toNat
  (List.range t.rows).map (fun i => addr + i * (f.imm.extractLsb' 16 16).toNat)

/-- The checks of `mld` and `mst` (R178, R195): the row that fails, or none. -/
def rowStop (f : FmtT) (t : Tile) (a : DWord) (size : Nat) : Option MStop :=
  let rows := rowAddrs f t a
  let pitch := (f.imm.extractLsb' 16 16).toNat
  if rows.headD 0 % 16 ≠ 0 ∨ pitch % 16 ≠ 0 ∨ pitch < t.rowBytes then some (.trap 0x013 none 0 0 0)
  else
    match rows.find? (fun r => decide (size < r + t.rowBytes)) with
    | some r => some (.trap 0x100 none (BitVec.ofNat 64 r) 0 0)
    | none => none

/-- The scratchpad lines of rows. -/
def rowLines (t : Tile) (rows : List Nat) : List Nat := spLines (rows.map (fun r => (r, t.rowBytes)))

/-- Parks a tile instruction on absent lines, keeping what it read at issue. -/
def State.parkTile (s : State) (lines : List Nat) (run : TileRun) (use : TileUse) : State :=
  (s.parkOn s.cur.ref.team lines []).setF (fun f => { f with run := some (run, use) })

/-- What a tile instruction that parks reads at issue, or read at its first issue. -/
def State.tileRun (s : State) (m : BitVec 4) (a b : BitVec 8) : TileRun :=
  match s.cf.run with
  | some r => r.1
  | none => ⟨Map.get 0 s.ct.mc m.toNat, s.cg.ureg a.toNat, s.cg.ureg b.toNat, 0⟩

/-- `mld`: the tile is written after the last line is read. -/
def execMld (f : FmtT) (s : State) : Res :=
  .next (s.slot (.mld f) { reads := [.s f.sa.toNat] } (fun s =>
    s.whenActs (fun s =>
      let run := s.tileRun f.md f.sa f.sa
      let d := Tile.of run.mc
      let use : TileUse := ⟨[], d.units⟩
      s.configured [d]
        (match rowStop f d run.a s.ct.spSize with
        | some e => s.memStop e
        | none =>
          s.withUnits use (fun s =>
            let rows := rowAddrs f d run.a
            let lines := rowLines d rows
            let gone := s.ct.absentOf lines
            let s := s.touch s.cur.ref.team lines
            if !gone.isEmpty then s.parkTile gone run use
            else
              match lines.find? s.ct.badSp.contains with
              | some b => (s.badScratch b).retire []
              | none =>
                let bytes := (rows.map (fun r => Map.bytes s.ct.sp r d.rowBytes)).flatten
                (s.setT (fun t => t.tileBytes d bytes)).retireTile [] use)))))

/-- The bytes that `mst` stores, as address and byte. -/
def Team.rowStores (t : Team) (d : Tile) (rows : List Nat) : List (Nat × Byte) :=
  let data := Map.bytes t.tiles (4096 * d.base) d.bytes
  ((List.range d.rows).map (fun i =>
    (List.range d.rowBytes).map (fun j => (rows.getD i 0 + j, data.getD (i * d.rowBytes + j) 0)))).flatten

/-- Bytes stored to scratchpad; a line of which all 128 bytes are stored is no longer failed (R198). -/
def Team.spStores (t : Team) (l : List (Nat × Byte)) : Team :=
  { t with
    sp := l.foldl (fun m p => Map.set 0 m p.1 p.2) t.sp
    badSp := t.badSp.filter (fun b => !(List.range 128).all (fun i => l.any (fun p => p.1 == b * 128 + i))) }

/-- `mst`: lines in ascending order, up to the first absent one, at which it goes on later (R189). Where it meets an absent line it touches
all its lines left at once, so that every window over them starts, and it parks until all of those absent then are present, as `mld` and
`mgath` do: R178 visits lines one by one and R197 has a group wait for every line it touches (DESIGN CHOICE, log 54). -/
def execMst (f : FmtT) (s : State) : Res :=
  .next (s.slot (.mst f) { reads := [.s f.sa.toNat] } (fun s =>
    s.whenActs (fun s =>
      let run := s.tileRun f.ma f.sa f.sa
      let d := Tile.of run.mc
      let use : TileUse := ⟨d.units, []⟩
      s.configured [d]
        (match rowStop f d run.a s.ct.spSize with
        | some e => s.memStop e
        | none =>
          s.withUnits use (fun s =>
            let rows := rowAddrs f d run.a
            let lines := (rowLines d rows).filter (fun l => decide (run.next ≤ l))
            let gone := s.ct.absentOf lines
            let s := s.touch s.cur.ref.team lines
            let stop := gone.headD (2 ^ 32)
            let stores := (s.ct.rowStores d rows).filter
              (fun p => decide (run.next ≤ p.1 / 128) && decide (p.1 / 128 < stop))
            let s := s.setT (·.spStores stores)
            if gone.isEmpty then s.retireTile [] use
            else s.parkTile gone { run with next := stop } use)))))

/-! ## Tiles and lanes (R179, R180) -/

/-- The registers that a run of `n` values spreads over, w to a register. -/
def spread (r : BitVec 8) (n w : Nat) : List Reg := vregs r.toNat ((n + w - 1) / w)

/-- The 32-bit words of a tile. -/
def Tile.words (t : Tile) : Nat := (t.bytes + 3) / 4

/-- `mlane.get` -/
def execMlaneGet (f : FmtT) (s : State) : Res :=
  let m := s.ct.tile f.ma
  let regs := if m.en then spread f.sa m.words s.ct.width else [.v f.sa.toNat]
  .next (s.slot (.mlaneGet f) { writes := regs } (fun s =>
    let w := s.ct.width
    let ns := (List.range m.words).filter (fun n => s.act.getLsbD (n % w))
    let use : TileUse := ⟨(ns.map (fun n => m.base + n / 1024)).eraseDups, []⟩
    s.configured [m]
      (if 64 < regs.length then s.raise 0x013
      else
        s.withUnits use (fun s =>
          let data := Map.bytes s.ct.tiles (4096 * m.base) m.bytes
          let put (g : Group) (n : Nat) : Group :=
            g.setV (f.sa.toNat + n / w) (n % w) (BitVec.ofNat 32 (natOfBytes ((data.drop (4 * n)).take 4)))
          (s.setG (fun g => ns.foldl put g)).retireTile regs use))))

/-- `mlane.put` -/
def execMlanePut (f : FmtT) (s : State) : Res :=
  let m := s.ct.tile f.md
  let regs := if m.en then spread f.sa m.words s.ct.width else [.v f.sa.toNat]
  .next (s.slot (.mlanePut f) { reads := regs } (fun s =>
    let use : TileUse := ⟨[], m.units⟩
    s.configured [m]
      (if 64 < regs.length then s.raise 0x013
      else
        s.withUnits use (fun s =>
          let w := s.ct.width
          let g := s.cg
          let put (t : Team) (n : Nat) : Team :=
            let bytes := bytesOfNat 4 (g.vreg (f.sa.toNat + n / w) (n % w)).toNat
            { t with tiles := Map.setBytes t.tiles (4096 * m.base + 4 * n) (bytes.take (m.bytes - 4 * n)) }
          let ns := (List.range m.words).filter (fun n => s.act.getLsbD (n % w))
          let whole := ns.length == m.words
          (s.setT (fun t =>
            let t := ns.foldl put t
            if whole then t.tileBytes m (Map.bytes t.tiles (4096 * m.base) m.bytes) else t)).retireTile [] use))))

/-- The elements of a row or a column: the slice's length and where element k is. -/
def sliceLen (f : FmtT) (m : Tile) : Nat := if f.tmod.getLsbD 1 then m.rows else m.cols

def sliceAt (f : FmtT) (x k : Nat) : Nat × Nat := if f.tmod.getLsbD 1 then (k, x) else (x, k)

/-- The index of a slice is in range (R180), else 0x013. -/
def sliceBad (f : FmtT) (m : Tile) (x : DWord) : Bool :=
  decide ((if f.tmod.getLsbD 1 then m.cols else m.rows) ≤ x.toNat) || field x 63 8 != 0

/-- The elements of a slice that participating lanes move. -/
def State.sliceKs (s : State) (f : FmtT) (m : Tile) : List Nat :=
  (List.range (sliceLen f m)).filter (fun k => s.act.getLsbD (k % s.ct.width))

/-- The units in which those elements of slice x lie. -/
def sliceUnits (f : FmtT) (m : Tile) (x : Nat) (ks : List Nat) : List Nat :=
  (ks.map (fun k => let p := sliceAt f x k; m.base + (p.1 * m.cols + p.2) * m.bits / 32768)).eraseDups

/-- `mxlane.get.row` and `.col` -/
def execMxlaneGet (f : FmtT) (s : State) : Res :=
  let m := s.ct.tile f.ma
  let regs := if m.en then spread f.sa (sliceLen f m) s.ct.width else [.v f.sa.toNat]
  .next (s.slot (.mxlaneGet f) { reads := [.s f.sb.toNat], writes := regs } (fun s =>
    let x := s.cg.ureg f.sb.toNat
    let ks := s.sliceKs f m
    let use : TileUse := ⟨sliceUnits f m x.toNat ks, []⟩
    s.configured [m]
      (if sliceBad f m x then s.raise 0x013
      else
        s.withUnits use (fun s =>
          let w := s.ct.width
          let t := s.ct
          let put (g : Group) (k : Nat) : Group :=
            let p := sliceAt f x.toNat k
            g.putI m.ty (f.sa.toNat + k / w) (k % w) (t.tileElem m p.1 p.2)
          (s.setG (fun g => ks.foldl put g)).retireTile regs use))))

/-- `mxlane.put.row` and `.col` -/
def execMxlanePut (f : FmtT) (s : State) : Res :=
  let m := s.ct.tile f.md
  let regs := if m.en then spread f.sa (sliceLen f m) s.ct.width else [.v f.sa.toNat]
  .next (s.slot (.mxlanePut f) { reads := .s f.sb.toNat :: regs } (fun s =>
    let x := s.cg.ureg f.sb.toNat
    let ks := s.sliceKs f m
    let use : TileUse := ⟨[], sliceUnits f m x.toNat ks⟩
    s.configured [m]
      (if sliceBad f m x then s.raise 0x013
      else
        s.withUnits use (fun s =>
          let w := s.ct.width
          let g := s.cg
          let put (t : Team) (k : Nat) : Team :=
            let p := sliceAt f x.toNat k
            let n := p.1 * m.cols + p.2
            let a := 4096 * m.base + n * m.bits / 8
            let v := (g.vreg (f.sa.toNat + k / w) (k % w)).toNat % 2 ^ m.bits
            let old := (Map.get 0 t.tiles a).toNat
            let bytes :=
              if m.bits = 4 then [BitVec.ofNat 8 (if n % 2 = 0 then old / 16 * 16 + v else old % 16 + 16 * v)]
              else bytesOfNat (m.bits / 8) v
            { t with tiles := Map.setBytes t.tiles a bytes }
          (s.setT (fun t => ks.foldl put t)).retireTile [] use))))

/-! ## Matrix products (R38 to R41, R181 to R183) -/

/-- The operands of a product as matrices: M, K and N, and the elements of A' and B'. -/
structure Product where
  m : Nat
  k : Nat
  n : Nat
  inner : Bool
deriving DecidableEq, Repr

def ta (f : FmtT) : Bool := f.tmod.getLsbD 1

def tb (f : FmtT) : Bool := f.tmod.getLsbD 2

def productOf (f : FmtT) (a b : Tile) : Product where
  m := if ta f then a.cols else a.rows
  k := if ta f then a.rows else a.cols
  n := if tb f then b.rows else b.cols
  inner := (if ta f then a.rows else a.cols) == (if tb f then b.cols else b.rows)

def Team.elemA (t : Team) (f : FmtT) (a : Tile) (i k : Nat) : Nat := if ta f then t.tileElem a k i else t.tileElem a i k

def Team.elemB (t : Team) (f : FmtT) (b : Tile) (k j : Nat) : Nat := if tb f then t.tileElem b j k else t.tileElem b k j

/-- The pairs of operand types that R181 allows. -/
def pairOk (ty a b : Ty) : Bool :=
  a == ty && (b == ty || (ty == .e4m3 && b == .e5m2) || (ty == .e5m2 && b == .e4m3))

/-- The operand checks of R181 and R183: 0x013, then 0x014. -/
def productCause (f : FmtT) (acc : Ty) (a b c d : Tile) : Option (BitVec 9) :=
  let p := productOf f a b
  let fits (x : Tile) : Bool := x.ty == acc && x.rows == p.m && x.cols == p.n
  if !pairOk f.ty a.ty b.ty || !p.inner || !fits d || (!f.zc && !fits c) then some 0x013
  else if d.overlaps a || d.overlaps b || (!f.zc && !d.same c && d.overlaps c) then some 0x014
  else none

/-- The accumulation step: acc + x in FP32, RNE. -/
def accAdd (acc : Nat) (x : FVal) : Nat :=
  FFmt.f32.encode (FFmt.f32.add .rne (FFmt.f32.decode acc) x)

/-- The products of a range of K, as exact values. -/
def prodsOf (prod : Nat → FVal) (lo n : Nat) : List FVal := (List.range n).map (fun i => prod (lo + i))

/-- The walk over K in chunks (R38): each chunk's exact sum rounded, then added. -/
def chunkSum (prod : Nat → FVal) (chunk len lo acc : Nat) : Nat → Nat
  | 0 => acc
  | fuel + 1 =>
    if len ≤ lo then acc
    else
      let n := Nat.min chunk (len - lo)
      let x := FFmt.f32.roundV .rne (exactSum false (prodsOf prod lo n))
      chunkSum prod chunk len (lo + chunk) (accAdd acc x) fuel

/-- The chunk of a type (R38). -/
def chunkOf (t : Ty) : Nat :=
  match Ty.bits t with
  | 16 => 32
  | 8 => 64
  | _ => 128

/-- The E8M0 scale of a slice and a block of 32 along K (R182). -/
def Group.blockScale (g : Group) (r : BitVec 8) (w q i kb : Nat) : Nat :=
  ((g.vreg (r.toNat + i / w * q + kb / 4) (i % w)).extractLsb' (8 * (kb % 4)) 8).toNat

/-- A scale position of some slice lies in a lane that the group does not own (R182, R183). -/
def Group.unowned (g : Group) (n w : Nat) : Bool := (List.range n).any (fun i => !g.owned.getLsbD (i % w))

/-- One element of `mma` with floating or half-step operands (R38, R39). -/
def State.mmaElem (s : State) (f : FmtT) (a b : Tile) (acc i j : Nat) : Nat :=
  let t := s.ct
  let g := s.cg
  let w := t.width
  let p := productOf f a b
  let q := (p.k + 127) / 128
  let prod (k : Nat) : FVal :=
    let x := (Ty.value a.ty (t.elemA f a i k)).mul (Ty.value b.ty (t.elemB f b k j))
    if f.ty == .e2m1 then
      (x.mul (e8m0 (g.blockScale f.sa w q i (k / 32)))).mul (e8m0 (g.blockScale f.sb w q j (k / 32)))
    else x
  chunkSum prod (chunkOf f.ty) p.k 0 acc 9

/-- One element of `mma` with i8 operands (R40). -/
def Team.mmaInt (t : Team) (f : FmtT) (a b : Tile) (acc i j : Nat) : Nat :=
  Ty.wrap .i32 ((List.range (productOf f a b).k).foldl
    (fun x k => x + Ty.intOf .i8 (t.elemA f a i k) * Ty.intOf .i8 (t.elemB f b k j)) (acc : Int))

/-- The scale registers that `mma` reads for e2m1 operands; where a shape that would count them is not configured, the two it names (R182). -/
def State.mmaScales (s : State) (f : FmtT) : List Reg :=
  let a := s.ct.tile f.ma
  let b := s.ct.tile f.mb
  let p := productOf f a b
  let q := (p.k + 127) / 128
  let w := s.ct.width
  if f.ty != .e2m1 then []
  else if a.en && b.en then vregs f.sa.toNat ((p.m + w - 1) / w * q) ++ vregs f.sb.toNat ((p.n + w - 1) / w * q)
  else [.v f.sa.toNat, .v f.sb.toNat]

/-- `mma` -/
def execMma (f : FmtT) (s : State) : Res :=
  .next (s.slot (.mma f) { reads := s.mmaScales f } (fun s =>
    s.whenActs (fun s =>
      let t := s.ct
      let a := t.tile f.ma
      let b := t.tile f.mb
      let d := t.tile f.md
      let c := if f.zc then d else t.tile f.mc
      let p := productOf f a b
      let w := t.width
      let acc : Ty := if f.ty == .i8 then .i32 else .f32
      let scaleBad := f.ty == .e2m1 && (p.k % 32 != 0 || s.cg.unowned p.m w || s.cg.unowned p.n w)
      s.configured [d, a, b, c]
        (match productCause f acc a b c d with
        | some 0x014 => if scaleBad then s.raise 0x013 else s.raise 0x014
        | some x => s.raise x
        | none =>
          if scaleBad then s.raise 0x013
          else
            s.fillTile d (a.units ++ b.units ++ (if f.zc then [] else c.units)) (fun t i j =>
              let x := if f.zc then 0 else t.tileElem c i j
              if f.ty == .i8 then t.mmaInt f a b x i j else s.mmaElem f a b x i j)))))

/-- One element of `mmas` (R41). -/
def State.mmasElem (s : State) (f : FmtT) (a b : Tile) (acc i j : Nat) : Nat :=
  let t := s.ct
  let g := s.cg
  let w := t.width
  let p := productOf f a b
  let nb := (p.k + 127) / 128
  let prod (k : Nat) : FVal := (Ty.value a.ty (t.elemA f a i k)).mul (Ty.value b.ty (t.elemB f b k j))
  (List.range nb).foldl
    (fun acc kb =>
      let sum := exactSum false (prodsOf prod (128 * kb) (Nat.min 128 (p.k - 128 * kb)))
      let sa := FFmt.f32.decode (g.vreg (f.sa.toNat + i / w * nb + kb) (i % w)).toNat
      let sb := FFmt.f32.decode ((g.ureg (f.sb.toNat + kb)).extractLsb' (32 * (j / 128)) 32).toNat
      accAdd acc (FFmt.f32.roundV .rne ((sum.mul sa).mul sb))) acc

/-- The scale registers of `mmas`. -/
def State.mmasScales (s : State) (f : FmtT) : List Reg :=
  let a := s.ct.tile f.ma
  let b := s.ct.tile f.mb
  let p := productOf f a b
  let nb := (p.k + 127) / 128
  let w := s.ct.width
  if a.en && b.en then vregs f.sa.toNat ((p.m + w - 1) / w * nb) ++ uregs f.sb.toNat nb else [.v f.sa.toNat, .s f.sb.toNat]

/-- `mmas` -/
def execMmas (f : FmtT) (s : State) : Res :=
  .next (s.slot (.mmas f) { reads := s.mmasScales f } (fun s =>
    s.whenActs (fun s =>
      let t := s.ct
      let a := t.tile f.ma
      let b := t.tile f.mb
      let d := t.tile f.md
      let c := if f.zc then d else t.tile f.mc
      let scaleBad := s.cg.unowned (productOf f a b).m t.width
      s.configured [d, a, b, c]
        (match productCause f .f32 a b c d with
        | some 0x014 => if scaleBad then s.raise 0x013 else s.raise 0x014
        | some x => s.raise x
        | none =>
          if scaleBad then s.raise 0x013
          else
            s.fillTile d (a.units ++ b.units ++ (if f.zc then [] else c.units)) (fun t i j =>
              s.mmasElem f a b (if f.zc then 0 else t.tileElem c i j) i j)))))

/-! ## Sparse rows (R184) -/

/-- A descriptor of `mgath`. -/
structure Sparse where
  rowptr : Nat
  colidx : Nat
  values : Nat
  nnz : Nat
  bad : Bool
deriving DecidableEq, Repr

def Team.sparse (t : Team) (a : Nat) : Sparse where
  rowptr := t.spRead a 4
  colidx := t.spRead (a + 4) 4
  values := t.spRead (a + 8) 4
  nnz := t.spRead (a + 12) 4 % 65536
  bad := t.spRead (a + 12) 4 / 65536 != 0

/-- The bounds of sparse row i. -/
def Team.sparseRow (t : Team) (d : Sparse) (row : Nat) : Nat × Nat :=
  (t.spRead (d.rowptr + 4 * row) 4, t.spRead (d.rowptr + 4 * row + 4) 4)

/-- The entries that land in the tile: row, column and entry number, later ones last. -/
def Team.sparseHits (t : Team) (d : Sparse) (row0 col0 rows cols : Nat) : List (Nat × Nat × Nat) :=
  ((List.range rows).map (fun i =>
    let r := t.sparseRow d (row0 + i)
    ((List.range (r.2 - r.1)).filterMap (fun n =>
      let p := r.1 + n
      let c := t.spRead (d.colidx + 2 * p) 2
      if col0 ≤ c ∧ c < col0 + cols then some (i, c - col0, p) else none)))).flatten

/-- One access of `mgath`. -/
def gathAcc (size addr : Nat) : SpAcc := ⟨0, addr, size⟩

/-- Lines of accesses: the first failing check, or the lines that are absent, or those that fail. -/
inductive Gath where
  | stop (e : MStop)
  | park (lines : List Nat)
  | bad (line : Nat)
  | ok (lines : List Nat)
deriving DecidableEq, Repr

def Team.gathCheck (t : Team) (l : List SpAcc) : Gath :=
  match spCheck t.spSize true l with
  | some e => .stop e
  | none =>
    let lines := spLines (l.map (fun a => (a.addr.toNat, a.size)))
    let gone := t.absentOf lines
    if !gone.isEmpty then .park gone
    else
      match lines.find? t.badSp.contains with
      | some b => .bad b
      | none => .ok lines

/-- The first of several checks that does not pass, or the lines of all of them. -/
def Gath.first (lines : List Nat) : List Gath → Gath
  | [] => .ok lines
  | .ok new :: l => Gath.first (lines ++ new) l
  | r :: _ => r

/-- What `mgath` reads for entry p of a sparse row: its column index, and its value where the column lies in the tile. -/
def Team.gathEntry (t : Team) (m : Tile) (d : Sparse) (col0 p : Nat) : List Gath :=
  let c := t.spRead (d.colidx + 2 * p) 2
  t.gathCheck [gathAcc 2 (d.colidx + 2 * p)]
    :: (if col0 ≤ c ∧ c < col0 + m.cols then [t.gathCheck [gathAcc (m.bits / 8) (d.values + m.bits / 8 * p)]] else [])

/-- What `mgath` reads and checks for row i of the tile: the two row pointers, the row's bounds, then its entries in ascending order. -/
def Team.gathRow (t : Team) (m : Tile) (d : Sparse) (row0 col0 i : Nat) : List Gath :=
  let r := t.sparseRow d (row0 + i)
  let ptrs := t.gathCheck [gathAcc 4 (d.rowptr + 4 * (row0 + i)), gathAcc 4 (d.rowptr + 4 * (row0 + i) + 4)]
  if r.2 < r.1 ∨ d.nnz < r.2 ∨ d.bad then [ptrs, .stop (.trap 0x015 none (BitVec.ofNat 64 i) 0 0)]
  else ptrs :: (List.range (r.2 - r.1)).flatMap (fun n => t.gathEntry m d col0 (r.1 + n))

/-- Everything `mgath` reads, row by row as R184 says: the first thing that stops it. -/
def Team.gathAll (t : Team) (m : Tile) (addr row0 col0 : Nat) : Gath :=
  let d := t.sparse addr
  match t.gathCheck ((List.range 4).map (fun i => gathAcc 4 (addr + 4 * i))) with
  | .ok lines => Gath.first lines ((List.range m.rows).flatMap (t.gathRow m d row0 col0))
  | r => r

/-- `mgath` -/
def execMgath (f : FmtT) (s : State) : Res :=
  .next (s.slot (.mgath f) { reads := [.s f.sa.toNat, .s f.sb.toNat] } (fun s =>
    s.whenActs (fun s =>
      let run := s.tileRun f.md f.sa f.sb
      let d := Tile.of run.mc
      let use : TileUse := ⟨[], d.units⟩
      let addr := field run.a 31 0 + (f.imm.extractLsb' 0 16).toNat
      let row0 := field run.b 63 32
      let col0 := field run.b 31 0
      s.configured [d]
        (if (d.bits != 8 && d.bits != 16 && d.bits != 32) || addr % 16 != 0 then s.raise 0x013
        else
          s.withUnits use (fun s =>
            match s.ct.gathAll d addr row0 col0 with
            | .stop e => s.memStop e
            | .park lines => s.parkTile lines run use
            | .bad b => (s.badScratch b).retire []
            | .ok lines =>
              let s := s.touch s.cur.ref.team lines
              let t := s.ct
              let sp := t.sparse addr
              let hits := (t.sparseHits sp row0 col0 d.rows d.cols).reverse
              (s.setT (fun t => t.tileFill d (fun i j =>
                match hits.find? (fun h => h.1 == i && h.2.1 == j) with
                | some h => t.spRead (sp.values + d.bits / 8 * h.2.2) (d.bits / 8)
                | none => 0))).retireTile [] use)))))

/-! ## Conversion, addition, transposition, release (R185 to R188) -/

/-- `mcvt` -/
def execMcvt (f : FmtT) (s : State) : Res :=
  .next (s.slot (.mcvt f) {} (fun s =>
    s.whenActs (fun s =>
      let t := s.ct
      let a := t.tile f.ma
      let d := t.tile f.md
      let n := (f.imm.extractLsb' 0 3).toNat
      let rm := match (f.tmod.extractLsb' 0 2).toNat with | 0 => Rm.rne | 1 => .rtz | 2 => .rdn | _ => .rup
      let use : TileUse := ⟨a.units, d.units⟩
      s.configured [d, a]
        (if a.rows != d.rows || a.cols != d.cols || a.ty == d.ty then s.raise 0x013
        else if d.overlaps a then s.raise 0x014
        else
          s.withUnits use (fun s =>
            let conv (i j : Nat) : ConvOut := convert d.ty rm (s.policyReg n) (Ty.value a.ty (s.ct.tileElem a i j))
            let faults := faultsOf ((List.range (a.rows * a.cols)).map (fun k => (k, conv (k / a.cols) (k % a.cols))))
            match firstClass faults with
            | some c =>
              let first := ((faults.find? (fun p => p.2 == c)).map (·.1)).getD 0
              s.raise (ConvClass.cause c) (some s.cf.em) (BitVec.ofNat 64 n) (BitVec.ofNat 64 first)
            | none => (s.setT (fun t => t.tileFill d (fun i j => convGet (conv i j)))).retireTile [] use)))))

/-- An element of `madd` (R186). -/
def maddElem (t : Ty) (sat nb : Bool) (rm : Rm) (x y : Nat) : Nat :=
  if t == .f32 then fltAdd .f32 sat rm x (negated nb 32 y)
  else Ty.fit .i32 sat (Ty.intOf .i32 x + (if nb then -(Ty.intOf .i32 y) else Ty.intOf .i32 y))

/-- `madd`: the type comes from a shape register, so that R65 gives no place to the 0x002 of an rm of i32; it comes after the 0x012 of a tile that
is not configured and the 0x013 of unlike tiles, and before the 0x014 of overlapping ones (DESIGN CHOICE, log 51). -/
def execMadd (f : FmtT) (s : State) : Res :=
  .next (s.slot (.madd f) {} (fun s =>
    s.whenActs (fun s =>
      let t := s.ct
      let a := t.tile f.ma
      let b := t.tile f.mb
      let d := t.tile f.md
      let rmBits := (f.tmod.extractLsb' 0 2).toNat
      let rm := match rmBits with | 0 => Rm.rne | 1 => .rtz | 2 => .rdn | _ => .rup
      let alike (x : Tile) : Bool := x.ty == d.ty && x.rows == d.rows && x.cols == d.cols
      s.configured [d, a, b]
        (if !(alike a && alike b && (d.ty == .f32 || d.ty == .i32)) then s.raise 0x013
        else if d.ty == .i32 && rmBits != 0 then s.raise 0x002
        else if (d.overlaps a && !d.same a) || (d.overlaps b && !d.same b) then s.raise 0x014
        else
          s.fillTile d (a.units ++ b.units) (fun t i j =>
            maddElem d.ty (f.tmod.getLsbD 2) (f.tmod.getLsbD 3) rm (t.tileElem a i j) (t.tileElem b i j))))))

/-- `mtr` -/
def execMtr (f : FmtT) (s : State) : Res :=
  .next (s.slot (.mtr f) {} (fun s =>
    s.whenActs (fun s =>
      let t := s.ct
      let a := t.tile f.ma
      let d := t.tile f.md
      s.configured [d, a]
        (if a.ty != d.ty || a.rows != d.cols || a.cols != d.rows then s.raise 0x013
        else if d.overlaps a then s.raise 0x014
        else s.fillTile d a.units (fun t i j => t.tileElem a j i)))))

/-- `mrel` -/
def execMrel (f : FmtT) (s : State) : Res :=
  .next (s.slot (.mrel f) {} (fun s =>
    s.whenActs (fun s =>
      (s.setT (fun t =>
        { t with mc := ((List.range 16).filter (fun n => f.imm.getLsbD n)).foldl (fun m n => Map.erase m n) t.mc })).retire
        [])))

end Sys2Proof.Machine
end

