-- ==== Sys2Proof/Machine/Fabric.lean ====
section
/-!
DEFINITION. Sys2Proof/Machine/Fabric.lean: messages between packages (R357 to R364), the view and its agreement (R363 to R373),
collectives (R374 to R379) and notifications (R380).
-/

namespace Sys2Proof.Machine

/-! ## Views (R363) -/

/-- The members of a bitmap, in ascending number. -/
def membersOf (m : BitVec 288) : List Nat := (List.range 288).filter (fun i => m.getLsbD i)

def countOf (m : BitVec 288) : Nat := (membersOf m).length

/-- The bitmap of one package. -/
def memberBit (p : Nat) : BitVec 288 := BitVec.ofNat 288 (2 ^ p)

/-- The digest of a bitmap: its words rotated and combined. -/
def digest (m : BitVec 288) : BitVec 32 :=
  (List.range 9).foldl (fun d k => d ^^^ (m.extractLsb' (32 * k) 32).rotateLeft k) 0

/-- The tag of a bitmap with a change count. -/
def tagOf (m : BitVec 288) (count : BitVec 16) : Tag := count ++ digest m

def Proposed.tag (p : Proposed) : Tag := tagOf p.members p.count

/-- The bitmap of the current view. -/
def State.members (s : State) : BitVec 288 := match s.view with | some v => v.1 | none => 0

/-- The change count of the current view, zero before the first one. -/
def State.viewCount (s : State) : BitVec 16 := s.tag.extractLsb' 32 16

/-- The failure timeout in cycles (R381). -/
def State.failAfter (s : State) : Nat := cyclesOfUs (field (s.preg 0x831) 31 16)

/-- Every link has been down for the failure timeout: those of a member are the planes that this package's ports attach to (R357, R366;
DEDUCED, log 28). -/
def State.linksDown (s : State) : Bool :=
  (List.range 24).all (fun k => !s.portUp k && decide ((Map.get ⟨false, false, false, 0⟩ s.ports k).since + s.failAfter ≤ s.now))

/-- Members that this package suspects no more; the time of the first suspicion stands while one is left (R366, R367). -/
def State.clearSuspects (s : State) (m : BitVec 288) : State :=
  let left := s.suspects &&& ~~~m
  { s with suspects := left, suspected := if left = 0 then none else s.suspected }

/-- A message proves that its sender is alive (R365): it is suspected no more, unless every link to it is down (R366). -/
def State.hear (s : State) (p : Nat) : State :=
  let s := { s with heard := Map.put s.heard p s.now }
  if s.linksDown then s else s.clearSuspects (memberBit p)

/-- A package was heard within the failure timeout. -/
def State.heardLately (s : State) (p : Nat) : Bool :=
  p == s.selfPkg || match Map.find s.heard p with | some t => decide (s.now < t + s.failAfter) | none => false

/-- A discarded message is counted (R364). -/
def State.countStale (s : State) : State :=
  let x := s.preg 0x834
  s.setPreg 0x834 (setField x 63 32 (field x 63 32 + 1))

/-- A late contribution is counted (R378). -/
def State.countLate (s : State) : State :=
  let x := s.preg 0x834
  s.setPreg 0x834 (setField x 31 0 (field x 31 0 + 1))

/-! ## Sending -/

/-- A message of the extensions leaves for one package: through the first port of those that carry them, from the package's number on; where
none does, it cannot leave (R357; DESIGN CHOICE, log 28). -/
def State.send (s : State) (peer : Nat) (msg : Sent) : State :=
  match s.extFrom peer with
  | some k => { s with out := s.out ++ [⟨k, some peer, s.tag, msg⟩] }
  | none => s

/-- The same for each package of a bitmap but this one. -/
def State.sendAll (s : State) (m : BitVec 288) (msg : Nat → Sent) : State :=
  ((membersOf m).filter (· != s.selfPkg)).foldl (fun s p => s.send p (msg p)) s

/-- A message leaves on every working port that carries it (R365, R373). -/
def State.sendPorts (s : State) (msg : Sent) : State :=
  { s with out := s.out ++ ((List.range 24).filter s.extPort).map (fun k => ⟨k, none, s.tag, msg⟩) }

/-- A reply leaves for a request's sender, through the working port of its pair of package and address-hash lane (R360). -/
def State.sendReply (s : State) (sender lane : Nat) (seq : Option ReqNo) (r : RemoteReply) : State :=
  { s with out := s.out ++ [⟨s.workingPort (sender + lane), some sender, s.tag, .reply seq r⟩] }

/-! ## Notifications (R380) -/

/-- A notification reaches the context with its fabric number, if that has room. -/
def State.appendNote (s : State) (sender fctx : Nat) (value : DWord) : Bool × State :=
  match s.ctxs.find? (fun c => field (c.2.sreg 0x440) 11 0 == fctx) with
  | none => (false, s)
  | some (id, c) =>
    if c.notes.length < 64 then
      (true, s.updCtx id (fun c => { c with notes := c.notes ++ [(BitVec.ofNat 64 sender, value)] }))
    else (false, s)

/-! ## Requests of peers (R361) -/

/-- Elements placed at bit offsets of a line: the bytes that change. -/
def placedBytes (old : List Byte) (width : Nat) (elems : List (Nat × DWord)) : List (Nat × Byte) :=
  let m := elems.foldl (fun m e => Map.setBitsAt m e.1 width e.2.toNat) (Map.setBytes [] 0 old)
  let touched := sortNats (elems.flatMap (fun e => (List.range ((width + 7) / 8)).map (fun i => e.1 / 8 + i)))
  touched.map (fun o => (o, Map.get 0 m o))

/-- A request applied at the home of its line, as one access: the reply with the state after it; none while the home holds
the line. -/
def State.serveRequest (s : State) (sender line : Nat) (kind : RemoteKind) : Option (RemoteReply × State) :=
  match kind with
  | .note fctx value => let r := s.appendNote sender fctx value; some (.appended r.1, r.2)
  | kind =>
    let whole :=
      match kind with
      | .write bs => (List.range 64).all (fun i => bs.any (fun b => b.1 == i))
      | .place width elems => (List.range (512 / width)).all (fun i => elems.any (fun e => e.1 == width * i))
      | _ => false
    if s.frameEnd ≤ line then some (.refused 0x053, s)
    else
      match s.reach line whole with
      | .wait => none
      | .unassigned => some (.refused 0x053, s)
      | .inBank => some (.refused 0x04C, s)
      | .failed => some (.refused 0x050, s)
      | .ok =>
        match kind with
        | .read => let r := s.readLine line; some (.data r.1, r.2)
        | .write bs => some (.done, s.homeWrite line 0 bs)
        | .atomic op ty off o swap =>
          let r := s.atomicAt op ty (spotsFrom line off (elemBytes ty)) o.toNat swap.toNat
          some (.data (bytesOfNat (elemBytes ty) r.1), r.2)
        | .reduce op ty off o => some (.done, s.reduceAt (dieOfLine line) line off op ty o.toNat)
        | .update op ty elems =>
          some (.done, s.reduceElems (dieOfLine line) line op.mem ty (elems.map (fun e => (e.1, e.2.toNat))))
        | .place width elems =>
          let r := (s.recall line).readLine line
          some (.done, r.2.homeWrite line 0 (placedBytes r.1 width elems))
        | .note _ _ => none

/-- A request that is a load. -/
def RemoteKind.isRead : RemoteKind → Bool
  | .read => true
  | _ => false

/-- The number of a requester: a fabric port of a peer (R310, R361). -/
def requester (sender : Nat) (seq : ReqNo) : Nat := 32 * sender + seq.port % 32

/-- A requester's replies with one more: each home keeps those to its last 64 requests (R310). -/
def keepReply (kept : List (BitVec 16 × Nat × RemoteReply)) (count : BitVec 16) (home : Nat) (r : RemoteReply) :
    List (BitVec 16 × Nat × RemoteReply) :=
  (count, home, r) :: ((kept.filter (fun k => k.2.1 == home)).take 63 ++ kept.filter (fun k => k.2.1 != home))

/-- A request is applied and answered, or it waits at its home, and later ones of its sender and address-hash lane behind it (R296 rule 4,
R361). One that a peer sends again finds its kept reply, receives it again, and nothing is applied (R310). -/
def State.applyRequest (s : State) (sender : Nat) (seq : ReqNo) (line : Nat) (kind : RemoteKind) : State :=
  let from_ := requester sender seq
  let kept := Map.get [] s.replies from_
  let home := homeOf line
  match (if RemoteKind.isRead kind then none else kept.find? (fun k => k.1 == seq.count && k.2.1 == home)) with
  | some k => s.sendReply sender (addrLane line) (some seq) k.2.2
  | none =>
    let wait := { s with pendingReqs := s.pendingReqs ++ [⟨sender, seq, line, kind⟩] }
    if s.pendingReqs.any (fun w => w.sender == sender && addrLane w.line == addrLane line) then
      if s.pendingReqs.any (fun w => w.sender == sender && w.seq == seq && w.line == line) then s else wait
    else
      match s.serveRequest sender line kind with
      | none => wait
      | some (r, s) =>
        let s :=
          if RemoteKind.isRead kind then s else { s with replies := Map.put s.replies from_ (keepReply kept seq.count home r) }
        s.sendReply sender (addrLane line) (some seq) r

/-- The requests that wait are tried again, in order of arrival. -/
def State.retryRequests (s : State) : State :=
  s.pendingReqs.foldl (fun s w => s.applyRequest w.sender w.seq w.line w.kind) { s with pendingReqs := [] }

/-! ## Replies (R362) -/

/-- The reply to a `fnote`: its predicate, and the cause of a refusal, which is not precise. -/
def State.noteReply (s : State) (id : Nat) (r : Req) (x : RemoteReply) : State :=
  let ok := match x with | .appended b => b | _ => false
  let lanes := maskOf (r.take.map (·.1))
  let pd := match r.take with | t :: _ => t.2.1 | [] => 7
  s.updGroupAt r.ref.team r.ref.group (fun g =>
    let g := g.setP pd lanes (if ok then lanes else 0)
    (g.inflight.filter (fun i => i.2.req == some id)).foldl (fun g i => g.complete i.1) g)

/-- A refused store or reduction of a group (R362). -/
def State.refusedStore (s : State) (r : Req) (c : BitVec 9) : State :=
  s.holdCause r.ref.team r.ref.group
    ⟨.fabric, c, r.addr, none, BitVec.ofNat 64 r.va, none, 0, 0x1000000000000000, some 1⟩

/-- Somebody waits for a reply: a copy, a producer, or the fragment that sent the request. -/
def State.awaited (s : State) (id : Nat) (r : Req) : Bool :=
  r.copy.isSome || (r.fetch && s.live r.ref) || s.producers.any (fun p => p.2.asked.any (fun a => a.2 == id))
    || (s.live r.ref && (s.fragAt r.ref).sent.contains id)

/-- The remote stores of this member, outstanding now, that a barrier's arrival waits for (R378). -/
def State.openStores (s : State) : List Nat :=
  (s.reqs.filter (fun r => r.2.reply.isNone && !RemoteKind.isRead r.2.kind)).map (·.1)

/-- This member's arrivals at its barriers, once the remote stores that it had issued before them are acknowledged, go to every other live
member (R378). -/
def State.arrivals (s : State) : State :=
  let me := s.selfPkg
  let due (c : Coll) : Bool :=
    c.kind == .barrier && !c.failed && !c.arrived.getLsbD me && c.stores.all (fun i => !s.openStores.contains i)
  let now := s.colls.filter (fun c => due c.2)
  now.foldl
    (fun s c =>
      ({ s with colls := Map.alter s.colls c.1 (fun c => { c with arrived := c.arrived ||| memberBit me }) } : State).sendAll
        c.2.live (fun _ => .coll c.1 .arrived)) s

/-- A reply reaches its requester. -/
def State.replyTo (s : State) (id : Nat) (x : RemoteReply) : State :=
  match Map.find s.reqs id with
  | none => s
  | some r =>
    if r.reply.isSome then s
    else if s.awaited id r then { s with reqs := Map.put s.reqs id { r with reply := some x } }
    else
      let s := { s with reqs := Map.erase s.reqs id }
      let s := match r.kind with
        | .note _ _ => if Map.has s.teams r.ref.team then s.noteReply id r x else s
        | _ => s
      match RemoteReply.cause x with
      | some c => if r.posted && Map.has s.teams r.ref.team then s.refusedStore r c else s
      | none => s

/-- A reply is applied, and with it the arrivals that waited for it. -/
def State.applyReply (s : State) (id : Nat) (x : RemoteReply) : State := (s.replyTo id x).arrivals

/-! ## Collectives (R374 to R379) -/

/-- A collective with nothing in it. -/
def nullColl : Coll where
  kind := .barrier
  rop := 0
  policy := 0
  root := 0
  team := 0
  group := 0
  addr := 0
  tag := 0
  members := 0
  live := 0
  ty := .n8
  rows := 0
  bytes := []
  sp := 0
  clasp := 0
  got := []
  arrived := 0
  first := none
  restarted := false
  failed := false
  stores := []
  result := none

/-- The rank of a member among those live at issue (R374). -/
def Coll.rankOf (c : Coll) (p : Nat) : Nat := ((membersOf c.members).filter (fun q => decide (q < p))).length

/-- The bytes of a member's share of the reduced tile (R377): from and count. -/
def Coll.share (c : Coll) (p : Nat) : Nat × Nat :=
  let m := countOf c.members
  let q := (c.rows + m - 1) / m
  let row := if c.rows = 0 then 0 else c.bytes.length / c.rows
  let lo := min c.rows (c.rankOf p * q)
  let hi := min c.rows ((c.rankOf p + 1) * q)
  (lo * row, (hi - lo) * row)

/-- R: the data bytes of the result at this member. -/
def Coll.size (c : Coll) (me : Nat) : Nat :=
  match c.kind with
  | .allred | .bcast => c.bytes.length
  | .redscat => (c.share me).2
  | .allgath => countOf c.members * c.bytes.length
  | .barrier => 0

/-- The offset of the trailer. -/
def Coll.trailer (c : Coll) (me : Nat) : Nat := 64 * ((c.size me + 63) / 64)

/-- The member that reduces: the lowest-numbered live one (R375, R431). -/
def Coll.reducer (c : Coll) : Nat := (membersOf c.live).headD 0

/-- Contributions gather at this member: it reduces, or the kind delivers every contribution as it is. -/
def Coll.gathers (c : Coll) (me : Nat) : Bool :=
  match c.kind with
  | .allred | .redscat => c.reducer == me
  | .allgath | .bcast => true
  | .barrier => false

/-- One element of a reduction over contributors in ascending member number (R375). -/
def reduceElem (ty : Ty) (rop : Nat) (vs : List Nat) : Nat :=
  let n := vs.length
  if ty = .i32 then
    let xs := vs.map (Ty.intOf ty)
    let sum := xs.foldl (· + ·) 0
    Ty.wrap ty
      (match rop with | 0 => sum | 1 => sum.tdiv n | 2 => minInt xs | _ => maxInt xs)
  else
    let f := Ty.ffmt ty
    match vs.map f.decode with
    | [] => 0
    | x :: xs =>
      match rop with
      | 0 => f.encode (f.roundV .rne (xs.foldl (fun a b => FFmt.f32.add .rne a b) x))
      | 1 =>
        let sum := xs.foldl (fun a b => FFmt.f32.add .rne a b) x
        f.encode (f.roundV .rne (sum.div (.fin false n 0)))
      | 2 => f.encode (xs.foldl FVal.min x)
      | _ => f.encode (xs.foldl FVal.max x)

/-- The reduced tile. -/
def Coll.reduced (c : Coll) : List Byte :=
  let w := c.ty.bits / 8
  let vals := c.got.map (·.2)
  (List.range (c.bytes.length / w)).flatMap (fun e =>
    bytesOfNat w (reduceElem c.ty c.rop (vals.map (fun v => natOfBytes ((v.drop (w * e)).take w)))))

/-- Zero bytes. -/
def zeros (n : Nat) : List Byte := List.replicate n 0

/-- The status of the collective's trailer (R377). -/
def Coll.status (c : Coll) : Nat := if c.failed then 2 else if c.restarted then 1 else 0

/-- The result at this member from what it gathered: the contributors, the data, and the status and tag of its completion. -/
def Coll.gathered (c : Coll) (me : Nat) (tag : Tag) : CollResult :=
  let mask := c.got.foldl (fun m p => m ||| memberBit p.1) 0
  let data :=
    match c.kind with
    | .allred => c.reduced
    | .redscat => (c.reduced.drop (c.share me).1).take (c.share me).2
    | .allgath => (membersOf c.members).flatMap (fun p => (Map.find c.got p).getD (zeros c.bytes.length))
    | .bcast => (Map.find c.got c.root).getD (zeros c.bytes.length)
    | .barrier => []
  ⟨mask, data, c.status, tag⟩

/-- A round starts: this member's own contribution counts where it gathers; at a barrier nobody has arrived. -/
def Coll.restart (c : Coll) (me now : Nat) : Coll :=
  { c with
    got := if c.gathers me then [(me, c.bytes)] else []
    first := if c.gathers me then some now else none
    arrived := 0
    result := none }

/-- The outcome of a collective, once it is known (R378). -/
def Coll.outcome (c : Coll) (me : Nat) (tag : Tag) : Option CollResult :=
  if c.failed then some ⟨0, [], 2, tag⟩
  else
    match c.result with
    | some r => some r
    | none =>
      match c.kind with
      | .barrier => if c.live &&& ~~~c.arrived = 0 then some ⟨c.arrived &&& c.live, [], c.status, tag⟩ else none
      | _ =>
        if c.gathers me && (membersOf c.live).all (fun p => Map.has c.got p) then some (c.gathered me tag) else none

/-- A message of a collective is applied; one that this member has not issued yet keeps it until then. -/
def State.applyColl (s : State) (id sender : Nat) (body : CollMsg) : State :=
  let me := s.selfPkg
  match Map.find s.colls id with
  | none =>
    if s.nextColl ≤ id then { s with early := s.early ++ [(id, sender, body)] }
    else match body with | .contribution _ => s.countLate | _ => s
  | some c =>
    if !c.live.getLsbD sender then s
    else
      let upd (f : Coll → Coll) : State := { s with colls := Map.alter s.colls id f }
      match body with
      | .contribution bs =>
        if c.result.isSome then s.countLate
        else if c.gathers me && !Map.has c.got sender then
          upd (fun c =>
            { c with
              got := Map.put c.got sender ((bs ++ zeros c.bytes.length).take c.bytes.length)
              first := match c.first with | some t => some t | none => some s.now })
        else s
      | .result mask bs status tag =>
        if status = 2 then upd (fun c => { c with failed := true, got := [], result := none })
        else if sender = c.reducer && !c.gathers me && c.kind != .barrier then
          upd (fun c => { c with result := some ⟨mask, (bs ++ zeros (c.size me)).take (c.size me), status, tag⟩ })
        else s
      | .arrived => upd (fun c => { c with arrived := c.arrived ||| memberBit sender })

/-- The element types that reductions accept (R377). -/
def reducible (t : Ty) : Bool := [Ty.f32, .bf16, .i32].contains t

/-- The checks of s(B) and the scratchpad (R377 check 4): alignment first, then range. -/
def collRange (x : DWord) (total size : Nat) : Option MStop :=
  let sp := field x 31 0
  let clasp := field x 62 32
  if sp % 128 ≠ 0 then some (.trap 0x101 none (BitVec.ofNat 64 sp) 0 0)
  else if clasp % 8 ≠ 0 then some (.trap 0x101 none (BitVec.ofNat 64 clasp) 0 0)
  else if size < sp + total then some (.trap 0x100 none (BitVec.ofNat 64 sp) 0 0)
  else if size < clasp + 16 then some (.trap 0x100 none (BitVec.ofNat 64 clasp) 0 0)
  else none

/-- The checks of the view before a fabric instruction (R360, R370, R371). -/
def State.withView (s : State) (k : State → State) : State :=
  match s.viewStop with
  | some e => s.refuse e
  | none => k s

/-- What this member sends when a round starts (R375): its contribution to the member that reduces, or to every other one where the kind
delivers contributions as they are; at a barrier its arrival, once it is due. -/
def State.sendRound (s : State) (id : Nat) (c : Coll) : State :=
  match c.kind with
  | .barrier => s.arrivals
  | .allred | .redscat =>
    if c.reducer = s.selfPkg then s else s.send c.reducer (.coll id (.contribution c.bytes))
  | .allgath | .bcast => s.sendAll c.live (fun _ => .coll id (.contribution c.bytes))

/-- A collective issues: its range becomes absent, this member's part of the round begins, and what others sent of it already is applied. -/
def State.startColl (s : State) (c : Coll) : State :=
  let me := s.selfPkg
  let lines := spLines [(c.sp, c.trailer me + 64)]
  let id := s.nextColl
  let s := s.updTeam c.team (fun t => { t with absent := lines.foldl (fun m l => Map.set false m l true) t.absent })
  let got := s.early.filter (fun e => e.1 == id)
  let s := { s with
    nextColl := id + 1, early := s.early.filter (fun e => e.1 != id)
    colls := Map.put s.colls id ({ c with stores := s.openStores }.restart me s.now) }
  got.foldl (fun s e => s.applyColl id e.2.1 e.2.2) (s.sendRound id c)

/-- Where the communicator entry of a handle lies (R374). -/
def State.commEntry (s : State) (h : Nat) : Nat := 4096 * field (s.cc.sreg 0x440) 56 12 + 64 * h

/-- The communicator entry of a handle, as one access; on a page of a peer it is a remote read under R360. -/
def State.withCommunicator (s : State) (h : Nat) (k : List Byte → State → State) : State :=
  let va := s.commEntry h
  let all : List (Nat × Nat × Nat) := (List.range 64).map (fun j => (0, j, j))
  s.withReplies true
    (fun s =>
      match s.translate s.ct.ctx (!s.cg.sys) .read va with
      | .ok (.rem peer m) => if s.peerBad peer then s.refuse (.trap 0x1C4 none 0 0 0) else s.sendReads [⟨va, .rem peer m, all⟩]
      | _ =>
        match s.agentRead s.ct.ctx (!s.cg.sys) va 64 with
        | .error e => s.refuse e
        | .ok (e, s') => k e s')
    (fun xs s => k ((List.range 64).map (fun j => ((xs.find? (fun x => x.2.1 == j)).map (·.2.2)).getD 0)) s)

/-- `coll` of a kind. -/
def State.collective (s : State) (f : FmtE) (kind : CollKind) : State :=
  s.whenActs (fun s =>
    s.withView (fun s =>
      let t := s.ct
      let a := s.cg.ureg f.a.toNat
      let b := s.cg.ureg f.b.toNat
      let tile := t.tile f.bt
      let isBarrier := kind == .barrier
      let rop := (f.imm.extractLsb' 0 2).toNat
      let root := (f.imm.extractLsb' 4 9).toNat
      let reduces := kind == .allred || kind == .redscat
      let bad : MStop := .trap 0x1C3 none 0 0 0
      if t.copyq = 0 then s.refuse (.trap 0x144 none 0 0 0)
      else if !isBarrier && !tile.en then s.refuse (.trap 0x012 none 0 0 0)
      else if field (s.preg 0x832) 4 0 = 0 || field a 63 6 != 0 then s.refuse bad
      else
        s.withCommunicator (field a 5 0) (fun e s' =>
          let live := BitVec.ofNat 288 (natOfBytes (e.take 36)) &&& s.members
          let bytes := if isBarrier then [] else Map.bytes t.tiles (4096 * tile.base) tile.bytes
          let c : Coll :=
            { nullColl with
              kind := kind, rop := rop, policy := f.sub.toNat, root := root, team := s.cur.ref.team
              group := s.cur.ref.group, addr := s.cf.pc, tag := s.tag, members := live, live := live, ty := tile.ty
              rows := if isBarrier then 0 else tile.rows, bytes := bytes, sp := field b 31 0, clasp := field b 62 32 }
          if natOfBytes ((e.drop 36).take 4) % 2 == 0 || !live.getLsbD s.selfPkg || (reduces && !reducible tile.ty)
              || (!reduces && rop != 0) || (kind != .bcast && root != 0) || (kind == .bcast && !live.getLsbD root)
              || (isBarrier && f.bt != 0) || b.getLsbD 63
              || decide (natOfBytes ((e.drop 48).take 8) < 2 * countOf live * bytes.length) then s'.refuse bad
          else
            match collRange b (c.trailer s.selfPkg + 64) t.spSize with
            | some e => s'.refuse e
            | none =>
              s'.withUnits ⟨if isBarrier then [] else tile.units, []⟩ (fun s =>
                s.takeEntry (fun s => (s.startColl c).retire [])))))

/-- The registers of `coll`. -/
def collUses (f : FmtE) : Uses := { reads := [.s f.a.toNat, .s f.b.toNat] }

/-- `coll.allred` -/
def execCollAllred (f : FmtE) (s : State) : Res :=
  .next (s.slot (.collAllred f) (collUses f) (fun s => s.collective f .allred))

/-- `coll.redscat` -/
def execCollRedscat (f : FmtE) (s : State) : Res :=
  .next (s.slot (.collRedscat f) (collUses f) (fun s => s.collective f .redscat))

/-- `coll.allgath` -/
def execCollAllgath (f : FmtE) (s : State) : Res :=
  .next (s.slot (.collAllgath f) (collUses f) (fun s => s.collective f .allgath))

/-- `coll.bcast` -/
def execCollBcast (f : FmtE) (s : State) : Res :=
  .next (s.slot (.collBcast f) (collUses f) (fun s => s.collective f .bcast))

/-- `coll.barrier` -/
def execCollBarrier (f : FmtE) (s : State) : Res :=
  .next (s.slot (.collBarrier f) (collUses f) (fun s => s.collective f .barrier))

/-- The trailer's 64 bytes (R377). -/
def trailerBytes (mask : BitVec 288) (status : Nat) (tag : Tag) : List Byte :=
  bytesOfNat 36 mask.toNat ++ bytesOfNat 2 (countOf mask) ++ bytesOfNat 2 status ++ bytesOfNat 6 tag.toNat ++ zeros 18

/-- Data and trailer land in the team (R377, R378): under `.fail` the data keep their old bytes. All 128 bytes of a line end its failure
(R198). A frozen team keeps its old contents (R220). -/
def Team.landColl (t : Team) (c : Coll) (me : Nat) (r : CollResult) : Team :=
  let lines := spLines [(c.sp, c.trailer me + 64)]
  let l : List SpAcc := [⟨0, c.sp, r.data.length⟩, ⟨0, (c.sp + c.trailer me : Nat), 64⟩]
  let t := { t with absent := lines.foldl (fun m l => Map.set false m l false) t.absent }
  if t.status == .frozen then t
  else
    { t with
      sp := Map.setBytes (Map.setBytes t.sp c.sp r.data) (c.sp + c.trailer me) (trailerBytes r.mask r.status r.tag)
      badSp := t.badSp.filter (fun b => !coversSpLine l b)
      landings := t.landings ++ [⟨c.clasp, c.size me + 64, .group c.team c.group c.addr⟩] }

/-- The group learns that its collective completed under another view (R370). -/
def State.collNotice (s : State) (c : Coll) : State :=
  let g := s.groupAt c.team c.group
  let now := s.tag
  if now = c.tag || g.ackTag == now || g.notified then s
  else
    let n := ((now.extractLsb' 32 16).toNat + 65536 - (g.ackTag.extractLsb' 32 16).toNat) % 65536
    s.holdCause c.team c.group
      ⟨.fabric, 0x1C0, c.addr, none, now.setWidth 64, some (g.ackTag.setWidth 64), BitVec.ofNat 64 n, 0, some 3⟩

/-- The member that reduced sends the result with its trailer to every other one (R375, R377, R431): all of it, or that member's share. One
at which the collective failed tells the others, one of which may issue it under the new view only (R378; DESIGN CHOICE, log 27). -/
def State.sendResult (s : State) (id : Nat) (c : Coll) (r : CollResult) : State :=
  let all := c.reduced
  if c.failed then s.sendAll c.live (fun _ => .coll id (.result 0 [] 2 r.tag))
  else if !c.gathers s.selfPkg then s
  else
    match c.kind with
    | .allred => s.sendAll c.live (fun _ => .coll id (.result r.mask all r.status r.tag))
    | .redscat =>
      s.sendAll c.live (fun p => .coll id (.result r.mask ((all.drop (c.share p).1).take (c.share p).2) r.status r.tag))
    | _ => s

/-- A barrier over every member of the view admits the attested joiners (R373). -/
def State.barrierAdmits (s : State) (c : Coll) : State :=
  if c.kind == .barrier && !c.failed && s.members &&& ~~~c.members == 0 then
    { s with admitted := s.joiners.foldl (fun m p => m ||| memberBit p) s.admitted }
  else s

/-- COLLECTIVE_COMPLETE: the result and the trailer have landed (R377, R379); a barrier is complete once every live member, this one too, has
arrived (R378). -/
def execCollectiveComplete (coll : Nat) (s : State) : Res :=
  match Map.find s.colls coll with
  | none => .next s
  | some c =>
    match c.outcome s.selfPkg s.tag with
    | none => .next s
    | some r =>
      let s := ({ s with colls := Map.erase s.colls coll } : State).sendResult coll c r
      let s := s.updTeam c.team (fun t => t.landColl c s.selfPkg r)
      .next ((s.barrierAdmits c).collNotice c)

/-- COLLECTIVE_STRAGGLER_TIMEOUT: under `.reweight` what has gathered is flushed without the late ones (R378). -/
def execCollectiveStragglerTimeout (coll : Nat) (s : State) : Res :=
  let us := field (s.preg 0x833) 31 0
  match Map.find s.colls coll with
  | none => .next s
  | some c =>
    match c.first with
    | none => .next s
    | some t =>
      if us = 0 || c.policy != 1 || c.kind == .barrier || c.failed || c.result.isSome || decide (s.now < t + cyclesOfUs us) then
        .next s
      else .next { s with colls := Map.put s.colls coll { c with result := some (c.gathered s.selfPkg s.tag) } }

/-- A view change during a collective (R378). -/
def Coll.viewChange (c : Coll) (me now : Nat) (members : BitVec 288) : Coll :=
  let c := { c with live := c.members &&& members }
  if c.failed then c
  else if c.policy = 2 then { c with failed := true, got := [], result := none }
  else { c.restart me now with restarted := true }

/-! ## Messages (R364) -/

/-- A message is applied. -/
def State.applyMsg (s : State) (m : HeldMsg) : State :=
  match m with
  | .coll id sender body => s.applyColl id sender body
  | .note sender fctx value => let r := s.appendNote sender fctx value; r.2.send sender (.reply none (.appended r.1))
  | .request sender seq line kind => s.applyRequest sender seq line kind
  | .reply id x => s.applyReply id x

/-- A message discarded for its tag: it is counted, and its sender is sent a stale reply (R364, R431). -/
def State.discardMsg (s : State) (m : HeldMsg) : State :=
  let s := s.countStale
  match m with
  | .request sender seq line _ => s.sendReply sender (addrLane line) (some seq) .stale
  | .note sender _ _ | .coll _ sender _ => s.send sender (.reply none .stale)
  | .reply _ _ => s

/-- An arriving message: applied under the current tag, held under the tag of an accepted proposal, else discarded. -/
def State.receive (s : State) (tag : Tag) (m : HeldMsg) : State :=
  if s.view.isSome && tag == s.tag then s.applyMsg m
  else
    match s.accepted with
    | some p => if p.tag = tag then { s with heldMsgs := s.heldMsgs ++ [(tag, m)] } else s.discardMsg m
    | none => s.discardMsg m

/-- COLLECTIVE_MESSAGE (R364) -/
def execCollectiveMessage (coll sender : Nat) (tag : Tag) (body : CollMsg) (s : State) : Res :=
  .next ((s.hear sender).receive tag (.coll coll sender body))

/-- NOTIFICATION_ARRIVAL (R380) -/
def execNotificationArrival (sender fctx : Nat) (tag : Tag) (value : DWord) (s : State) : Res :=
  .next ((s.hear sender).receive tag (.note sender fctx value))

/-- REMOTE_REQUEST_ARRIVAL (R361): after what waited and can go on now. -/
def execRemoteRequestArrival (sender : Nat) (seq : ReqNo) (tag : Tag) (line : Nat) (kind : RemoteKind) (s : State) : Res :=
  .next ((s.hear sender).retryRequests.receive tag (.request sender seq line kind))

/-- REMOTE_REPLY_ARRIVAL (R362) -/
def execRemoteReplyArrival (req : Nat) (tag : Tag) (reply : RemoteReply) (s : State) : Res :=
  let s := match Map.find s.reqs req with | some r => s.hear r.peer | none => s
  .next (s.receive tag (.reply req reply))

/-! ## Ports (R357, R358, R360) -/

/-- FLIT_CRC_REPLAY: the data link replays a flit, which is counted (R358). -/
def execFlitCrcReplay (_port : Nat) (s : State) : Res :=
  let x := s.preg 0x835
  .next (s.setPreg 0x835 (setField x 63 32 (field x 63 32 + 1)))

/-- Two requests of one pair of destination and address-hash lane that are outstanding on one port; notifications are a pair of their own. -/
def Req.pairs (r q : Req) : Bool :=
  q.peer == r.peer && addrLane q.line == addrLane r.line && q.port == r.port && q.reply.isNone && RemoteKind.isNote q.kind == RemoteKind.isNote r.kind

/-- Requests are sent again through a port, and counted (R358). -/
def State.sendAgain (s : State) (ids : List Nat) (port : Nat) : State :=
  let x := s.preg 0x835
  ({ s with reqs := ids.foldl (fun m i => Map.alter m i (fun q => { q with time := s.now, port := port })) s.reqs }.setPreg 0x835
    (setField x 31 0 (field x 31 0 + ids.length)))

/-- The port through which a request is sent again: its own where that works, else the next working one of its pair (R357, R360). -/
def State.portAgain (s : State) (r : Req) : Option Nat :=
  let works (k : Nat) : Bool := if RemoteKind.isNote r.kind then s.extPort k else s.portUp k
  let k := r.peer + addrLane r.line
  if works r.port then some r.port else ((List.range 24).map (fun i => (k + i) % 24)).find? works

/-- REQUEST_RETRANSMIT: a request without a reply for 8 µs is sent again and counted (R358). Where its port is down, its pair moves to the
next working one, with every request outstanding on the old port sent again (R360). -/
def execRequestRetransmit (req : Nat) (s : State) : Res :=
  match Map.find s.reqs req with
  | none => .next s
  | some r =>
    if r.reply.isSome || decide (s.now < r.time + cyclesOfUs 8) then .next s
    else
      match s.portAgain r with
      | none => .next s
      | some port =>
        .next (s.sendAgain (if port = r.port then [req] else (s.reqs.filter (fun q => r.pairs q.2)).map (·.1)) port)

/-- LINK_DOWN: what leaves from now on takes the next working port, a pair with outstanding requests once these are acknowledged or sent
again (R360). -/
def execLinkDown (port : Nat) (s : State) : Res :=
  .next (if 24 ≤ port || !s.portUp port then s
    else { s with ports := Map.alter s.ports port (fun p => { p with up := false, since := s.now }) })

/-- The links that bring-up trains are up: the host link, the Ethernet links and a fabric port (R412 step 3; how many ports is not told:
DESIGN CHOICE, log 23). -/
def State.linksTrained (s : State) : Bool :=
  s.trained.contains .shosia && s.trained.contains .ethernet && (List.range 24).any s.portUp

/-- LINK_TRAINING: a port comes up, with the extensions and the rate that its switch plane supports (R357), once bring-up has come to the
training of links (R412). -/
def execLinkTraining (port : Nat) (extensions full : Bool) (s : State) : Res :=
  .next (if 24 ≤ port ∨ s.bringUp < 2 then s else
    let s : State := { s with ports := Map.put s.ports port ⟨true, extensions, full, s.now⟩ }
    if s.linksTrained then s.comesUp 3 else s)

/-- HEARTBEAT_SEND: every `fbhb.hb` µs a heartbeat leaves on every working port (R365). -/
def execHeartbeatSend (s : State) : Res :=
  .next (if s.now < s.beat + cyclesOfUs (field (s.preg 0x831) 15 0) then s else { s.sendPorts .heartbeat with beat := s.now })

/-- HEARTBEAT_RECEIVE (R365) -/
def execHeartbeatReceive (sender : Nat) (s : State) : Res := .next (s.hear sender)

/-! ## Suspicion and agreement (R366 to R369) -/

/-- This package suspects members, never itself. -/
def State.suspect (s : State) (m : BitVec 288) : State :=
  let m := m &&& ~~~(memberBit s.selfPkg)
  if m = 0 then s
  else
    { s with suspects := s.suspects ||| m, suspected := match s.suspected with | some t => some t | none => some s.now }

/-- The proposer as this package sees it: the lowest-numbered member it does not suspect, or, without a view, the
lowest-numbered package it has heard (R367, R369). -/
def State.proposer (s : State) : Nat :=
  match s.view with
  | some v => (membersOf (v.1 &&& ~~~s.suspects)).headD s.selfPkg
  | none => ((List.range s.domainSize).find? s.heardLately).getD s.selfPkg

/-- MEMBER_SUSPECT: nothing has arrived from a member for the failure timeout, or its links are down for as long (R366); the suspicion goes to
the proposer (R367 step 1). -/
def execMemberSuspect (member : Nat) (s : State) : Res :=
  if s.member member && member != s.selfPkg && !s.suspects.getLsbD member && (!s.heardLately member || s.linksDown) then
    let s := s.suspect (memberBit member)
    .next (if s.proposer = s.selfPkg then s else s.send s.proposer (.suspicion s.suspects))
  else .next s

/-- SUSPICION: suspicions of another package reach the proposer (R367), which leaves out the members named, but does not itself suspect them
(R366). -/
def execSuspicion (sender : Nat) (suspects : BitVec 288) (s : State) : Res :=
  let s := s.hear sender
  .next (if s.proposer = s.selfPkg ∨ s.proposing.isSome then
    { s with reported := s.reported ||| suspects &&& ~~~(memberBit s.selfPkg) }
  else s)

/-- The members that a proposal of this package leaves out. -/
def State.leftOut (s : State) : BitVec 288 := s.suspects ||| s.reported

/-- What the proposer proposes: the members without those suspected and with the joiners admitted, or the packages heard. -/
def State.nextView (s : State) : BitVec 288 × BitVec 16 :=
  match s.view with
  | some v => ((v.1 &&& ~~~s.leftOut) ||| s.admitted, s.viewCount + 1)
  | none =>
    (((List.range s.domainSize).filter s.heardLately).foldl (fun m p => m ||| memberBit p) 0 &&& ~~~s.leftOut, 1)

/-- A fragment of the package is parked in `vjoin`. -/
def State.joining (s : State) : Bool :=
  s.allGroups.any (fun g => g.frags.any (fun f => match f.2.park with | some (.joining _) => true | _ => false))

/-- The members of a proposal that stand against it (R367, R369): those this package suspects, or, without a view, those it has not heard. -/
def State.against (s : State) (members : BitVec 288) : BitVec 288 :=
  match s.view with
  | some _ => s.suspects &&& members
  | none => ((membersOf members).filter (fun p => !s.heardLately p)).foldl (fun m p => m ||| memberBit p) 0

/-- A proposal is one for this package to answer: it is among its members, and the change count is the next one; a package that asks to join
does not know the count (R373). One without a view has its number by then (R412 steps 4 and 5). -/
def State.answers (s : State) (members : BitVec 288) (count : BitVec 16) : Bool :=
  members.getLsbD s.selfPkg && (s.view.isSome || decide (4 ≤ s.bringUp)) &&
    (s.joining || match s.view with | some _ => !s.excluded && count == s.viewCount + 1 | none => count == 1)

/-- A receiver accepts a proposal. -/
def State.accepts (s : State) (members : BitVec 288) (count : BitVec 16) : Bool := s.answers members count && s.against members == 0

/-- A proposer with a lower number has been heard from for a count, and is not suspected itself (R367). -/
def State.lowerProposer (s : State) (p : Nat) (count : BitVec 16) : Bool :=
  match s.lowest with
  | some (q, c) => decide (q < p) && c == count && !s.suspects.getLsbD q
  | none => false

/-- A proposer withdraws its own proposal for a lower-numbered one (R367). -/
def State.withdrawOwn (s : State) : State :=
  let mine := match s.accepted with | some p => p.from_ == s.selfPkg | none => false
  { s with proposing := none, accepted := if mine then none else s.accepted }

/-- PROPOSAL: this package sends one as the proposer, or receives one and answers it with its acceptance or with the suspicions that stand
against it; only the lowest-numbered proposer heard from for the count is answered (R367). -/
def execProposal (sender : Nat) (members : BitVec 288) (count : BitVec 16) (s : State) : Res :=
  let me := s.selfPkg
  if sender = me then
    let due := match s.view with | some _ => s.leftOut != 0 || s.admitted != 0 | none => decide (4 ≤ s.bringUp)
    if due && !s.excluded && !s.lowerProposer me count && s.proposer == me && s.nextView == (members, count) then
      let p : Proposed := ⟨me, members, count⟩
      .next ({ s with proposing := some (p, memberBit me), accepted := some p, lowest := some (me, count) }.sendAll members
        (fun _ => .proposal members count))
    else .next s
  else
    let s := s.hear sender
    if s.lowerProposer sender count || !s.answers members count then .next s
    else
      let s := if sender < me then s.withdrawOwn else s
      let s := { s with lowest := some (sender, count) }
      .next (if s.accepts members count then { s with accepted := some ⟨sender, members, count⟩ }.send sender (.accept ⟨members, count⟩)
        else s.send sender (.refusal count (s.against members)))

/-- ACCEPT: an answer to this package's proposal; one of a proposal that it has replaced since does not count (R367). -/
def execAccept (sender : Nat) (count : Ballot) (s : State) : Res :=
  let s := s.hear sender
  match s.proposing with
  | some (p, got) =>
    .next (if count = ⟨p.members, p.count⟩ ∧ p.members.getLsbD sender then { s with proposing := some (p, got ||| memberBit sender) }
      else s)
  | none => .next s

/-- A bitmap may be committed (R367 step 4, R369): the current members among it decide, not those who join (R373). -/
def State.mayCommit (s : State) (members : BitVec 288) : Bool :=
  match s.view with
  | some v =>
    let all := countOf v.1
    let n := 2 * countOf (members &&& v.1)
    decide (all < n) || (n == all && members.getLsbD ((membersOf v.1).headD 0))
  | none =>
    let n := 2 * countOf members
    decide (s.domainSize < n) || (n == s.domainSize && members.getLsbD 0)

/-- A `vjoin` that waits is over with a value (R373). -/
def Group.joining (value : DWord) (g : Group) : Group :=
  { g with
    frags := Map.mapVal g.frags (fun _ f =>
      match f.park with | some (.joining d) => { f with park := some (.got d value) } | _ => f) }

/-- A view is installed (R368): the view changes, collectives proceed under their policy, and the held messages are applied. -/
def State.install (s : State) (members : BitVec 288) (count : BitVec 16) : State :=
  let tag := tagOf members count
  let me := s.selfPkg
  let held := s.heldMsgs
  let s := { s with
    view := some (members, tag)
    excluded := !members.getLsbD me
    suspects := s.suspects &&& members
    reported := s.reported &&& members
    suspected := if s.suspects &&& members = 0 then none else s.suspected
    lowest := none
    accepted := none
    proposing := none
    heldMsgs := []
    early := []
    joiners := s.joiners.filter (fun p => !members.getLsbD p)
    admitted := s.admitted &&& ~~~members
    heard := (membersOf members).foldl (fun m p => if Map.has m p then m else Map.put m p s.now) s.heard
    colls := Map.mapVal s.colls (fun _ c => c.viewChange me s.now members) }
  let s := (s.mapGroups (Group.joining (tag.setWidth 64))).comesUp 5
  let s := s.colls.foldl (fun s c => if c.2.failed then s else s.sendRound c.1 c.2) s
  held.foldl (fun s m => if m.1 = tag then s.applyMsg m.2 else s.discardMsg m.2) s

/-- COMMIT: this package commits its proposal once every member has accepted, or the proposer's commit arrives (R367). -/
def execCommit (sender : Nat) (members : BitVec 288) (count : BitVec 16) (s : State) : Res :=
  if sender = s.selfPkg then
    match s.proposing with
    | some (p, got) =>
      .next (if p.members = members && p.count == count && members &&& ~~~got == 0 && s.mayCommit members then
        (s.sendAll members (fun _ => .commit members count)).install members count else s)
    | none => .next s
  else
    let s := s.hear sender
    .next (if s.accepted = some ⟨sender, members, count⟩ then s.install members count else s)

/-- EXCLUSION_TIMEOUT: no view within four timeouts of the first suspicion (R367). -/
def execExclusionTimeout (s : State) : Res :=
  match s.suspected with
  | some t => .next (if t + 4 * s.failAfter ≤ s.now then { s with excluded := true } else s)
  | none => .next s

/-- JOIN_REQUEST: a package that is no member and is attested, in a session with that package (R411), waits for a barrier; any other is refused
(R373). -/
def execJoinRequest (sender : Nat) (session : BitVec 16) (s : State) : Res :=
  let s := s.hear sender
  if s.shutOut then .next s
  else if s.attested.any (fun a => a.exchange.map (·.peer) == some ⟨session, sender⟩) && !s.member sender && decide (sender < s.domainSize) then
    .next (if s.joiners.contains sender then s else { s with joiners := s.joiners ++ [sender] })
  else .next (s.send sender .joinRefusal)

/-- JOIN_REFUSAL: `vjoin` returns 0 (R373). -/
def execJoinRefusal (sender : Nat) (s : State) : Res := .next ((s.hear sender).mapGroups (Group.joining 0))

/-! ## The view instructions (R372, R373) -/

/-- What `vwq` writes. -/
def State.viewWord (s : State) (q : Nat) : DWord :=
  match q with
  | 0 => s.tag.setWidth 64
  | 5 => (s.members.extractLsb' 256 32).setWidth 64
  | 6 => s.cg.ackTag.setWidth 64
  | 7 =>
    BitVec.ofNat 64 (s.selfPkg + (if s.shutOut then 0 else 2 ^ 16) + (if s.accepted.isSome then 2 ^ 17 else 0))
  | q => s.members.extractLsb' (64 * (q - 1)) 64

/-- `vwq` (R372) -/
def execVwq (f : FmtE) (s : State) : Res :=
  .next (s.slot (.vwq f) { writes := [.s f.d.toNat] } (fun s =>
    s.whenActs (fun s => (s.setG (·.setU f.d.toNat (s.viewWord f.sub.toNat))).retire [.s f.d.toNat])))

/-- `vack` (R371, R372) -/
def execVack (s : State) : Res :=
  .next (s.slot .vack {} (fun s =>
    if s.shutOut then s.raise 0x1C2
    else (s.setG (fun g => { g with ackTag := s.tag, notified := false })).retire []))

/-- What a package believed of the members before it asks to join: the suspicions that it was left with (R373). -/
def State.forgive (s : State) : State := { s with suspects := 0, suspected := none, reported := 0 }

/-- `vjoin` (R373): a package that asks to join suspects nobody of those it asks. -/
def execVjoin (f : FmtE) (s : State) : Res :=
  .next (s.slot (.vjoin f) { writes := [.s f.d.toNat] } (fun s =>
    s.whenActs (fun s =>
      if s.shutOut then (s.park (.joining f.d.toNat) [.s f.d.toNat]).forgive.sendPorts .joinRequest else s.raise 0x1C5)))

/-! ## The notification instructions (R380) -/

/-- The executing slot has issued and completes with the reply to a request. -/
def State.retireWith (s : State) (regs : List Reg) (req : Nat) : State :=
  let flag := s.attached
  ((s.setG (·.issue ⟨flag, regs, ⟨[], []⟩, s.tick, some req⟩)).setF (fun f => f.goTo (nextPc f.pc))).stopAtSafePoint s.stopAfter

/-- `fnote`: it waits until every earlier access of its group has taken effect, then the value leaves through a port that carries the
extensions, for which it waits too (R357). -/
def execFnote (f : FmtE) (s : State) : Res :=
  .next (s.slot (.fnote f) { reads := [.s f.a.toNat, .s f.b.toNat], writes := [.p f.d.toNat] } (fun s =>
    s.whenActs (fun s =>
      s.withView (fun s =>
        let a := s.cg.ureg f.a.toNat
        let p := field a 8 0
        let act := s.act
        let r := s.cur.ref
        let fctx := field (s.cc.sreg 0x440) 11 0
        let value := s.cg.ureg f.b.toNat
        if field a 63 9 ≠ 0 || s.peerBad p then s.raise 0x1C4 none a
        else if !s.remoteDone r.team r.group then s
        else if p = s.selfPkg then
          let x := s.appendNote p fctx value
          (x.2.setG (·.setP f.d.toNat act (if x.1 then act else 0))).retire [.p f.d.toNat]
        else if (s.extFrom p).isNone then s
        else
          let x := s.sendReq true none p 0 0 (.note fctx value) (s.lanes.map (fun l => (l, f.d.toNat, 0))) none
          x.2.retireWith [.p f.d.toNat] x.1))))

/-- The oldest notification of the executing group's context is taken. -/
def State.takeNote (s : State) (d : Nat) : Option State :=
  match s.cc.notes with
  | [] => none
  | (sender, value) :: rest =>
    some (((s.updCtx s.ct.ctx (fun c => { c with notes := rest })).setG (fun g =>
      (g.setU d value).setU (d + 1) sender)).retire [.s d, .s (d + 1)])

/-- The registers of `fwait`. -/
def waitRegs (f : FmtE) : List Reg := uregs f.d.toNat 2

/-- `fwait` -/
def execFwait (f : FmtE) (s : State) : Res :=
  .next (s.slot (.fwait f) { writes := waitRegs f } (fun s =>
    s.whenActs (fun s =>
      s.withView (fun s => (s.takeNote f.d.toNat).getD (s.park (.again .note) (waitRegs f))))))

/-- `fwait` in its try form -/
def execFwaitTry (f : FmtE) (s : State) : Res :=
  .next (s.slot (.fwaitTry f) { writes := waitRegs f } (fun s =>
    s.whenActs (fun s =>
      s.withView (fun s =>
        (s.takeNote f.d.toNat).getD
          ((s.setG (·.setU (f.d.toNat + 1) 0x8000000000000000)).retire (waitRegs f))))))

end Sys2Proof.Machine
end

