-- ==== Sys2Proof/Machine/InBank.lean ====
section
/-!
DEFINITION. Sys2Proof/Machine/InBank.lean: the in-bank executor (R329 to R355): fences, sessions, the commands of the bank-group
units and their errors.
-/

namespace Sys2Proof.Machine

/-! ## Geometry (R329 to R331) -/

/-- The pseudo-channels of a session, in ascending order. -/
def channelsOf (m : BitVec 256) : List Nat := (List.range 256).filter (fun i => m.getLsbD i)

/-- The number of BGUs of a session. -/
def Session.bguCount (x : Session) : Nat := 4 * (channelsOf x.mask).length

/-- The pseudo-channel of a session's BGU. -/
def Session.pcOf (x : Session) (g : Nat) : Nat := (channelsOf x.mask).getD (g / 4) 0

/-- The machine address of a row of a die's pseudo-channel, bank group and bank (R330). -/
def rowAddr (die pc bg bank row : Nat) : Nat :=
  2 ^ 24 * row + 2 ^ 20 * (4 * die + pc / 64) + 2 ^ 15 * (pc % 64 / 2) + 2 ^ 14 * (pc % 2) + 2 ^ 12 * bg + 2 ^ 10 * bank

/-- The permutation of a list that a number stands for. -/
def permute (l : List Nat) : Nat → Nat → List Nat
  | 0, _ => []
  | n + 1, k =>
    let x := l.getD (k % l.length) 0
    x :: permute (l.filter (· != x)) n (k / l.length)

/-- The machine line of a column of a row: in a stripe frame as R330 says, else where the frame's layout puts it (R331). -/
def State.columnLine (s : State) (row col : Nat) : Nat :=
  let frame := row / 4
  let p := row % 4 * 16 + col
  4096 * frame + 64 * (if Map.get false s.stripe frame then p else (permute (List.range 64) 64 (Config.rowLayout frame)).getD p 0)

/-! ## Fences (R334 to R337) -/

/-- The pages of a range of virtual addresses, with the part of each that the range covers. -/
def pagesOf (va n : Nat) : List (Nat × Nat × Nat) :=
  (List.range ((va % 4096 + n + 4095) / 4096)).map (fun i =>
    let page := alignDown 4096 va + 4096 * i
    let lo := Nat.max va page
    (page, lo - page, min (va + n) (page + 4096) - lo))

/-- A fault of an access through a buffer record names the slot that holds it (R278). -/
def MStop.inSlot (slot : Nat) : MStop → MStop
  | .trap c mask i0 i1 i2 => .trap c mask i0 i1 (if c = 0x048 then BitVec.ofNat 64 slot else i2)
  | .wait => .wait

/-- Every page of a fence range is translated (R334 step 3). -/
def State.fencePages (s : State) (user : Bool) : List (Nat × Nat × Nat) → Except MStop (List (Place × Nat × Nat))
  | [] => .ok []
  | (page, off, n) :: rest =>
    match s.translate s.ct.ctx user .write page with
    | .error e => .error e
    | .ok p =>
      match s.fencePages user rest with
      | .error e => .error e
      | .ok l => .ok ((p, off, n) :: l)

/-- The rows of a part of a page (R332), or the failure of R334 step 4; a page of a peer holds no row of this package. -/
def State.pageRows (s : State) : Place × Nat × Nat → Option (List Nat)
  | (.rem _ _, _, _) => none
  | (.loc m, off, n) | (.nc m, off, n) =>
    if Map.get false s.stripe (m / 4096) && !s.compressed m then some ((List.range (n / 1024)).map (· + (m + off) / 1024))
    else if s.compressed m || n != 4096 then none
    else some ((List.range 4).map (· + m / 1024))

/-- The rows of a fence range: every page passes step 3 of R334 before any is held to step 4. -/
def State.fenceRows (s : State) (user : Bool) (pages : List (Nat × Nat × Nat)) : Except MStop (List Nat) :=
  match s.fencePages user pages with
  | .error e => .error e
  | .ok l =>
    let rows := l.map s.pageRows
    if rows.any (·.isNone) then .error (.trap 0x184 none 0 0 0) else .ok (rows.flatMap (·.getD []))

/-- The checks of a fence in the order of R334, and its parking. -/
def State.bankFence (s : State) (f : FmtM) (out : Bool) : State :=
  s.whenActs (fun s =>
    let r := s.ct.record f.bf.toNat
    let n := s.cg.ureg f.d.toNat
    let o : Int := (if f.ix == 1 then ((s.cg.ureg f.x.toNat).toNat : Int) else 0) + f.off.toInt
    let len := field n 31 0
    if r.mode != .raw || field n 63 32 != 0 || len == 0 || (r.base + o) % 1024 != 0 || len % 1024 != 0 then s.raise 0x188
    else if o < 0 ∨ r.extent < o + len then s.raise 0x040 none (BitVec.ofInt 64 o)
    else
      let va := r.base + o.toNat
      if 2 ^ 57 < va + len then s.raise 0x04E none (BitVec.ofNat 64 va)
      else
        match s.fenceRows (!s.cg.sys) (pagesOf va len) with
        | .error e => s.memStop (e.inSlot f.bf.toNat)
        | .ok rows =>
          let x : BankFence := ⟨s.cur.ref, out, s.act, rows.map (· / 4), sortNats rows⟩
          ({ s with bankFences := s.bankFences ++ [x] }).park .bankFence)

/-- The registers of a fence. -/
def fenceUses (f : FmtM) : Uses := { reads := .s f.d.toNat :: (if f.ix == 1 then [.s f.x.toNat] else []) }

/-- `ibfence.in` (R334, R335) -/
def execIbfenceIn (f : FmtM) (s : State) : Res :=
  .next (s.slot (.ibfenceIn f) (fenceUses f) (fun s => s.bankFence f false))

/-- `ibfence.out` (R334, R336) -/
def execIbfenceOut (f : FmtM) (s : State) : Res :=
  .next (s.slot (.ibfenceOut f) (fenceUses f) (fun s => s.bankFence f true))

/-- The machine lines of a row: a plain frame without the stripe attribute is fenced with all its rows. -/
def bankRowLines (row : Nat) : List Nat := (List.range 16).map (fun i => 1024 * row + 64 * i)

/-- Every cached copy of a line is written back and invalidated, and a line in C is merged (R335). -/
def State.uncache (s : State) (line : Nat) : State :=
  let s := (s.nc.map (·.1)).foldl (fun s core => (s.writeBackNc core line).dropNc core line) s
  s.recall line

/-- The fence of a fragment that has not flipped. -/
def State.fenceOf (s : State) (r : FragRef) (out : Bool) : Option BankFence :=
  s.bankFences.find? (fun x => x.ref == r && x.out == out)

/-- A fence is done. -/
def State.endFence (s : State) (x : BankFence) : State :=
  { s with bankFences := s.bankFences.filter (· != x) }.wake x.ref

/-- A frame of a fence is compressed by now, or plain without the stripe attribute and covered in part (R335). -/
def State.fenceSplit (s : State) (x : BankFence) : Bool :=
  x.frames.any (fun f =>
    s.compressed (4096 * f) || (!Map.get false s.stripe f && !(List.range 4).all (fun k => x.rows.contains (4 * f + k))))

/-- A fence is refused before its flip: it has no effect, and its fragment takes cause 0x184 (R335). -/
def State.refuseFence (s : State) (x : BankFence) : State :=
  let pc := (s.fragAt x.ref).pc
  (({ s with bankFences := s.bankFences.filter (· != x) } : State).again x.ref).takeTrap x.ref
    { code := 0x184, addr := pc, resume := pc } x.act

/-- IBFENCE_IN_FLIP: once every access accepted before is complete, the rows become in-bank (R335). -/
def execIbfenceInFlip (r : FragRef) (s : State) : Res :=
  match s.fenceOf r false with
  | none => .next s
  | some x =>
    if s.fenceSplit x then .next (s.refuseFence x)
    else if s.locks.any (fun l => x.rows.contains (l.1 / 1024)) then .next s
    else
      let s := (x.rows.flatMap bankRowLines).foldl (fun s l => s.uncache l) s
      .next ({ s with rowOwner := x.rows.foldl (fun m w => Map.set false m w true) s.rowOwner }.endFence x)

/-- A row is open nowhere. -/
def Bgu.close (b : Bgu) (row : Nat) : Bgu := { b with opened := b.opened.filter (fun p => p.2 != row) }

/-- One in-bank row goes back (R336). -/
def State.rowOut (s : State) (row : Nat) : State :=
  if !Map.get false s.rowOwner row then s
  else
    let s := { s with
      sessions := s.sessions.map (fun x => { x with bgus := Map.mapVal x.bgus (fun _ b => b.close row) })
      rowOwner := Map.set false s.rowOwner row false }
    (bankRowLines row).foldl (fun s l => (s.advance l).record l) s

/-- IBFENCE_OUT_FLIP: between two steps the rows become load-store (R336). -/
def execIbfenceOutFlip (r : FragRef) (s : State) : Res :=
  match s.fenceOf r true with
  | none => .next s
  | some x => .next ((x.rows.foldl (fun s w => s.rowOut w) s).endFence x)

/-! ## Sessions (R338 to R340) -/

/-- A BGU as `ibsess` leaves it (R341). -/
def nullBgu : Bgu := ⟨[], [], [], [], [], []⟩

/-- The session that a group owns. -/
def State.session (s : State) (team group : Nat) : Option Session :=
  s.sessions.find? (fun x => x.team == team && x.group == group)

def State.updSession (s : State) (team group : Nat) (f : Session → Session) : State :=
  { s with sessions := s.sessions.map (fun x => if x.team = team ∧ x.group = group then f x else x) }

/-- No session of a die holds a pseudo-channel of a mask. -/
def State.channelsFree (s : State) (die : Nat) (mask : BitVec 256) : Bool :=
  !s.sessions.any (fun x => x.die == die && x.mask &&& mask != 0)

/-- An opener among others of its die may open now: its pseudo-channels are free, and no opener before it shares one. -/
def State.mayOpen (s : State) (die : Nat) (mask : BitVec 256) (before : List Opener) : Bool :=
  s.channelsFree die mask && !before.any (fun o => o.die == die && o.mask &&& mask != 0)

/-- A session opens with every field zero (R341). -/
def State.openSession (s : State) (team group die : Nat) (mask : BitVec 256) : State :=
  let x : Session := ⟨team, group, die, mask, [], [], 0, [], 0, 0, [], [], s.now, none⟩
  { s with sessions := s.sessions ++ [x] }

/-- The 256-bit mask that four uniform registers hold. -/
def Group.mask256 (g : Group) (a : Nat) : BitVec 256 := g.ureg (a + 3) ++ g.ureg (a + 2) ++ g.ureg (a + 1) ++ g.ureg a

/-- `ibsess` (R339) -/
def execIbsess (f : FmtE) (s : State) : Res :=
  .next (s.slot (.ibsess f) { reads := uregs f.a.toNat 4 } (fun s =>
    s.whenActs (fun s =>
      let r := s.cur.ref
      let m := s.cg.mask256 f.a.toNat
      let die := s.ct.core / 64
      if m = 0 ∨ (s.session r.team r.group).isSome then s.raise 0x180
      else if s.mayOpen die m s.openers then (s.openSession r.team r.group die m).retire []
      else ({ s with openers := s.openers ++ [(⟨r, die, m⟩ : Opener)] } : State).park .opener)))

/-- `ibsess.try` (R339) -/
def execIbsessTry (f : FmtE) (s : State) : Res :=
  .next (s.slot (.ibsessTry f) { reads := uregs f.a.toNat 4, writes := [.p f.d.toNat] } (fun s =>
    s.whenActs (fun s =>
      let r := s.cur.ref
      let m := s.cg.mask256 f.a.toNat
      let die := s.ct.core / 64
      let act := s.act
      if m = 0 ∨ (s.session r.team r.group).isSome then s.raise 0x180
      else
        let ok := s.mayOpen die m s.openers
        let s := if ok then s.openSession r.team r.group die m else s
        (s.setG (·.setP f.d.toNat act (if ok then act else 0))).retire [.p f.d.toNat])))

/-- The first parked opener of a die that may open, with those before it. -/
def State.nextOpener (s : State) (die : Nat) : List Opener → List Opener → Option Opener
  | _, [] => none
  | before, o :: rest =>
    if o.die = die ∧ s.mayOpen die o.mask before then some o else State.nextOpener s die (before ++ [o]) rest

/-- SESSION_GRANT (R339): an opener whose group has come to own a session meanwhile issues again. -/
def execSessionGrant (die : Nat) (s : State) : Res :=
  match s.nextOpener die [] s.openers with
  | none => .next s
  | some o =>
    let s := { s with openers := s.openers.filter (· != o) }
    if (s.session o.ref.team o.ref.group).isSome then .next (s.again o.ref)
    else .next ((s.openSession o.ref.team o.ref.group die o.mask).wake o.ref)

/-- A session ends (R340): its state is gone; fragments that wait in it issue again. -/
def State.endSession (s : State) (x : Session) : State :=
  let s := { s with sessions := s.sessions.filter (fun y => !(y.team == x.team && y.group == x.group)) }
  x.queue.foldl
    (fun s op => match op with | .read r _ _ _ | .fin r => s.again r | _ => s) s

/-! ## What a session does in its turn (R345 to R351) -/

/-- The executing group's session, or cause 0x180; in the error state, 0x18A where `errors` says so (R354). -/
def State.withSession (s : State) (errors : Bool) (k : Session → State) : State :=
  match s.session s.cur.ref.team s.cur.ref.group with
  | none => s.raise 0x180
  | some x => if errors && x.error.isSome then s.raise 0x18A else k x

/-- The BGUs of a session. -/
def Session.bgu (x : Session) (g : Nat) : Bgu := Map.get nullBgu x.bgus g

/-- Words of broadcast registers are written in every BGU. -/
def Session.putVec (x : Session) (ws : List (Nat × Word)) : Session :=
  let put (b : Bgu) (w : Nat × Word) : Bgu :=
    let k := w.1 / 16
    let lo := 32 * (w.1 % 16)
    let old : BitVec 512 := Map.get 0 b.bv k
    let m : BitVec 512 := BitVec.ofNat 512 (0xFFFFFFFF * 2 ^ lo)
    { b with bv := Map.put b.bv k ((old &&& ~~~m) ||| BitVec.ofNat 512 (w.2.toNat * 2 ^ lo)) }
  { x with bgus := (List.range x.bguCount).foldl (fun m g => Map.put m g (ws.foldl put (x.bgu g))) x.bgus }

/-- Scales are written. -/
def Session.putScales (x : Session) (k : Nat) (vs : List (Option Nat × Word)) : Session :=
  let put (m : Map Bgu) (g : Nat) (v : Word) : Map Bgu :=
    let b := Map.get nullBgu m g
    Map.put m g { b with sc := Map.set 0 b.sc k v }
  { x with
    bgus := vs.foldl
      (fun m p => match p.1 with | some g => put m g p.2 | none => (List.range x.bguCount).foldl (fun m g => put m g p.2) m)
      x.bgus }

/-- A program is accepted (R347). -/
def Session.putProg (x : Session) (ws : List Word) : Session :=
  { x with
    store := ws.zipIdx.foldl (fun m p => Map.set 0 m p.2 p.1) x.store
    badWords := x.badWords.filter (fun b => decide (ws.length ≤ b.2))
    pc := 0 }

/-- The registers that `ibread` writes: 64 / w of them (R350). -/
def readRegs (t : Team) (d : Nat) : List Reg := vregs d (64 / t.width)

/-- The turn of an `ibread`: the lanes concerned by an accumulator that is invalid or fails, or its registers written. -/
def State.readAccs (s : State) (r : FragRef) (x : Session) (d g : Nat) (lanes : Mask) : Except Mask State :=
  let w := (s.teamOf r.team).width
  let b := x.bgu g
  let bad := maskOf ((bitsOf lanes).filter (fun l =>
    (List.range (64 / w)).any (fun k => b.invalid.contains (k * w + l) || b.bad.contains (k * w + l))))
  if bad ≠ 0 then .error bad
  else
    .ok (s.updGroupAt r.team r.group (fun grp =>
      (List.range (64 / w)).foldl
        (fun h k => h.setLanes (d + k) (bitsOf lanes) (fun l => Map.get 0 b.acc (k * w + l))) grp))

/-- The session's queue without its first entry. -/
def State.popBank (s : State) (x : Session) : State := s.updSession x.team x.group (fun y => { y with queue := y.queue.tail })

/-- Entries at the head of a session's queue that are no steps have their turn (R345). -/
def State.bankTurns (s : State) (team group : Nat) : Nat → State
  | 0 => s
  | fuel + 1 =>
    match s.session team group with
    | none => s
    | some x =>
      match x.queue with
      | [] => s
      | .steps n _ :: _ => if n = 0 then (s.popBank x).bankTurns team group fuel else s
      | .prog ws :: _ => ((s.popBank x).updSession team group (·.putProg ws)).bankTurns team group fuel
      | .vec ws :: _ => ((s.popBank x).updSession team group (·.putVec ws)).bankTurns team group fuel
      | .scale k vs :: _ => ((s.popBank x).updSession team group (·.putScales k vs)).bankTurns team group fuel
      | .read r d g lanes :: _ =>
        let s := s.popBank x
        match s.readAccs r x d g lanes with
        | .ok s => (s.wake r).bankTurns team group fuel
        | .error m =>
          let pc := (s.fragAt r).pc
          ((s.again r).takeTrap r { code := 0x187, mask := some m, addr := pc, info0 := BitVec.ofNat 64 g, resume := pc }
            0).bankTurns team group fuel
      | .fin r :: _ => ((s.popBank x).endSession { x with queue := x.queue.tail }).wake r

/-- An entry joins the queue, and what can have its turn now has it. -/
def State.bankPut (s : State) (x : Session) (op : BankOp) : State :=
  let s := s.updSession x.team x.group (fun y =>
    { y with queue := y.queue ++ [op], since := if y.queue.isEmpty then s.now else y.since })
  s.bankTurns x.team x.group (x.queue.length + 2)

/-! ## The session instructions -/

/-- A command word that `ibprog` refuses in a program of n words (R347). -/
def bankWordBad (n : Nat) (w : Word) : Bool :=
  match decodeBgu w with
  | none => true
  | some (.loop _ t) => decide (n ≤ t.toNat)
  | some _ => false

/-- `ibprog` (R347) -/
def execIbprog (f : FmtE) (s : State) : Res :=
  .next (s.slot (.ibprog f) { reads := [.s f.a.toNat] } (fun s =>
    s.whenActs (fun s =>
      s.withSession true (fun _ =>
        let n := (f.imm.extractLsb' 8 6).toNat + 1
        let k := (f.imm.extractLsb' 0 5).toNat
        let off := s.cg.ureg f.a.toNat
        if off.toNat % 4 ≠ 0 then s.raise 0x041 none off
        else
          let r := (s.ct.record k).asBytes
          let ixs := (List.range n).map (fun i => (⟨i, off.toNat + 4 * i⟩ : LaneIx))
          s.loadVia true (s.resolveRec r k 0 ⟨1, 4, .read, true⟩ .plain true ixs) (fun xs s =>
            let ws := (List.range n).map (fun i => BitVec.ofNat 32 (laneNat 4 xs i))
            match ws.findIdx? (bankWordBad n) with
            | some i => s.raise 0x186 none (BitVec.ofNat 64 i)
            | none => s.withSession true (fun x => (s.retire []).bankPut x (.prog ws)))))))

/-- `ibvec` (R348) -/
def execIbvec (f : FmtE) (s : State) : Res :=
  .next (s.slot (.ibvec f) { reads := [.v f.a.toNat] } (fun s =>
    s.whenActs (fun s =>
      s.withSession true (fun x =>
        let k := (f.imm.extractLsb' 0 3).toNat
        let g := s.cg
        if 8 < k + (s.ct.width + 15) / 16 then s.raise 0x180
        else (s.retire []).bankPut x (.vec (s.lanes.map (fun l => (16 * k + l, g.vreg f.a.toNat l))))))))

/-- `ibscale` (R348) -/
def execIbscale (f : FmtE) (s : State) : Res :=
  .next (s.slot (.ibscale f) { reads := [.v f.a.toNat, .s f.b.toNat] } (fun s =>
    s.whenActs (fun s =>
      s.withSession true (fun x =>
        let g := s.cg
        let b := g.ureg f.b.toNat
        let first := field b 15 0
        if field b 63 16 ≠ 0 || s.lanes.any (fun l => decide (x.bguCount ≤ first + l)) then s.raise 0x180
        else
          (s.retire []).bankPut x
            (.scale (f.imm.extractLsb' 0 2).toNat (s.lanes.map (fun l => (some (first + l), g.vreg f.a.toNat l))))))))

/-- `ibscale.u` (R348) -/
def execIbscaleU (f : FmtE) (s : State) : Res :=
  .next (s.slot (.ibscaleU f) { reads := [.s f.a.toNat] } (fun s =>
    s.whenActs (fun s =>
      s.withSession true (fun x =>
        let a := s.cg.ureg f.a.toNat
        if field a 63 32 ≠ 0 then s.raise 0x180
        else (s.retire []).bankPut x (.scale (f.imm.extractLsb' 0 2).toNat [(none, a.setWidth 32)])))))

/-- Steps issued and not completed. -/
def Session.pending (x : Session) : Nat := x.queue.foldl (fun n op => match op with | .steps k _ => n + k | _ => n) 0

/-- `ibstep` of a count (R349). -/
def State.bankStep (s : State) (n : Nat) : State :=
  s.withSession true (fun x =>
    if 2 ^ 40 ≤ x.pending + n then s.raise 0x180
    else if n = 0 then s.retireNow
    else s.retireNow.bankPut x (.steps n s.cf.pc))

/-- `ibstep n` (R349) -/
def execIbstep (f : FmtE) (s : State) : Res :=
  .next (s.slot (.ibstep f) {} (fun s => s.whenActs (fun s => s.bankStep f.imm.toNat)))

/-- `ibstep sA` (R349) -/
def execIbstepReg (f : FmtE) (s : State) : Res :=
  .next (s.slot (.ibstepReg f) { reads := [.s f.a.toNat] } (fun s =>
    s.whenActs (fun s =>
      let a := s.cg.ureg f.a.toNat
      s.withSession true (fun _ => if field a 63 32 ≠ 0 then s.raise 0x180 else s.bankStep (field a 31 0)))))

/-- `ibread` (R350): at once where nothing is pending, else parked for its turn. -/
def execIbread (f : FmtE) (s : State) : Res :=
  .next (s.slot (.ibread f) { reads := [.s f.a.toNat], writes := readRegs s.ct f.d.toNat } (fun s =>
    s.whenActs (fun s =>
      s.withSession false (fun x =>
        let a := s.cg.ureg f.a.toNat
        let g := field a 15 0
        let regs := readRegs s.ct f.d.toNat
        if field a 63 16 ≠ 0 ∨ x.bguCount ≤ g then s.raise 0x180
        else if x.queue.isEmpty then
          match s.readAccs s.cur.ref x f.d.toNat g s.act with
          | .ok s => s.retire regs
          | .error m => s.raise 0x187 (some m) (BitVec.ofNat 64 g)
        else (s.park .bankTurn regs).bankPut x (.read s.cur.ref f.d.toNat g s.act)))))

/-- `ibend` (R351) -/
def execIbend (s : State) : Res :=
  .next (s.slot .ibend {} (fun s =>
    s.whenActs (fun s =>
      s.withSession false (fun x =>
        if x.queue.isEmpty then (s.endSession x).retire [] else (s.park .bankTurn).bankPut x (.fin s.cur.ref)))))

/-- The word of `ibstat` (R351). -/
def Session.stat (x : Session) : Nat :=
  let halted := decodeBgu (Map.get 0 x.store x.pc) == some .halt
  let st := if x.error.isSome then 4 else if 0 < x.pending then 2 else if halted then 3 else 1
  x.pending * 2 ^ 24 + (match x.error with | some c => c.toNat | none => 0) * 2 ^ 15 + x.pc * 2 ^ 9 + st

/-- `ibstat` (R351) -/
def execIbstat (f : FmtE) (s : State) : Res :=
  .next (s.slot (.ibstat f) { writes := [.s f.d.toNat] } (fun s =>
    s.whenActs (fun s =>
      let x := match s.session s.cur.ref.team s.cur.ref.group with | some x => x.stat | none => 0
      (s.setG (·.setU f.d.toNat (BitVec.ofNat 64 x))).retire [.s f.d.toNat])))

/-! ## Commands (R342, R343) -/

/-- What a command does in one BGU: its new state and a column it writes, or an error with the line concerned. -/
structure BguOut where
  bgu : Bgu
  writes : List (Nat × List (Nat × Byte))
deriving DecidableEq, Repr

/-- The column that a command refers to: its machine line, or error 0x185. -/
def State.colRef (s : State) (x : Session) (b : Bgu) : Except (BitVec 9) Nat :=
  match Map.find b.opened x.bank with
  | none => .error 0x185
  | some row => if Map.get false s.rowOwner row then .ok (s.columnLine row x.col) else .error 0x185

/-- A column as a command reads it: data that cannot be corrected is error 0x189. -/
def State.colRead (s : State) (line : Nat) : Except (BitVec 9) Nat :=
  if s.badLines.contains line then .error 0x189 else .ok (natOfBytes (Map.bytes s.mem line 64))

/-- Element e of w bits. -/
def elemAt (w e x : Nat) : Nat := x / 2 ^ (w * e) % 2 ^ w

/-- An accumulator as a command reads it (R352). -/
def Bgu.readAcc (b : Bgu) (j : Nat) : Except (BitVec 9) Word := if b.bad.contains j then .error 0x183 else .ok (Map.get 0 b.acc j)

def Bgu.putAcc (b : Bgu) (j : Nat) (x : Word) : Bgu :=
  { b with acc := Map.set 0 b.acc j x, invalid := b.invalid.filter (· != j), bad := b.bad.filter (· != j) }

/-- One rounding of an exact sum to f32 (R42). -/
def sumF32 (l : List FVal) : Word := BitVec.ofNat 32 (FFmt.f32.encode (FFmt.f32.roundV .rne (exactSum false l)))

/-- The products of MAC (R343). -/
def macTerms (w x : Nat) : List FVal :=
  (List.range 32).map (fun e => (Ty.value .bf16 (elemAt 16 e w)).mul (Ty.value .bf16 (elemAt 16 e x)))

/-- The products of MACX: e2m1 weights with a scale for each 32, and the four broadcast registers from 4q (R343). -/
def macxTerms (b : Bgu) (w sc q : Nat) : List FVal :=
  (List.range 128).map (fun e =>
    let x := elemAt 16 (e % 32) (Map.get (0 : BitVec 512) b.bv (4 * q + e / 32)).toNat
    ((Ty.value .e2m1 (elemAt 4 e w)).mul (e8m0 (elemAt 8 (e / 32) sc))).mul (Ty.value .bf16 x))

/-- The bytes of STACC: the sixteen accumulators of a quarter, in f32 or rounded to bf16. -/
def staccBytes (accs : List Word) (half : Bool) (hi : Bool) : List (Nat × Byte) :=
  let bs : List Byte :=
    if half then
      accs.flatMap (fun a => bytesOfNat 2 ((Ty.ffmt .bf16).encode ((Ty.ffmt .bf16).roundV .rne (Ty.value .f32 a.toNat))))
    else accs.flatMap (fun a => bytesOfNat 4 a.toNat)
  bs.zipIdx.map (fun p => ((if half && hi then 32 else 0) + p.2, p.1))

/-- Values of a list of reads, or its first error. -/
def allOk {α β : Type} : List (Except α β) → Except α (List β)
  | [] => .ok []
  | .error e :: _ => .error e
  | .ok x :: rest => match allOk rest with | .ok l => .ok (x :: l) | .error e => .error e

/-- A command in one BGU of a session (R343). -/
def State.command (s : State) (x : Session) (g : Nat) (c : BguCmd) : Except (BitVec 9) BguOut :=
  let b := x.bgu g
  let same : Except (BitVec 9) BguOut := .ok ⟨b, []⟩
  let at_ (cj : Bool) (k : BitVec 2) (j : BitVec 6) : Nat := if cj then (j.toNat + Map.get 0 x.c k.toNat) % 64 else j.toNat
  match c with
  | .nop | .col _ | .setc _ _ | .loop _ _ | .incr _ _ | .nextb | .halt => same
  | .openRow all bank cx k row =>
    let r := if cx then (row.toNat + Map.get 0 x.c k.toNat) % 65536 else row.toNat
    let banks := if all then [0, 1, 2, 3] else [bank.toNat]
    let rows := banks.map (fun i => (i, rowAddr x.die (x.pcOf g) (g % 4) i r / 1024))
    if rows.any (fun p => !Map.get false s.rowOwner p.2) then .error 0x185
    else .ok ⟨{ b with opened := rows.foldl (fun m p => Map.put m p.1 p.2) b.opened }, []⟩
  | .mac _ cj k j bv =>
    match s.colRef x b with
    | .error e => .error e
    | .ok line =>
      match s.colRead line, b.readAcc (at_ cj k j) with
      | .error e, _ => .error e
      | _, .error e => .error e
      | .ok w, .ok a =>
        .ok ⟨b.putAcc (at_ cj k j)
          (sumF32 (Ty.value .f32 a.toNat :: macTerms w (Map.get (0 : BitVec 512) b.bv bv.toNat).toNat)), []⟩
  | .macx _ cj k j sc q =>
    match s.colRef x b with
    | .error e => .error e
    | .ok line =>
      match s.colRead line, b.readAcc (at_ cj k j) with
      | .error e, _ => .error e
      | _, .error e => .error e
      | .ok w, .ok a =>
        .ok ⟨b.putAcc (at_ cj k j)
          (sumF32 (Ty.value .f32 a.toNat
            :: macxTerms b w (Map.get (0 : Word) b.sc sc.toNat).toNat (if q then 1 else 0))), []⟩
  | .ldbv _ bv =>
    match s.colRef x b with
    | .error e => .error e
    | .ok line =>
      match s.colRead line with
      | .error e => .error e
      | .ok w => .ok ⟨{ b with bv := Map.put b.bv bv.toNat (BitVec.ofNat 512 w) }, []⟩
  | .stacc _ half hi q =>
    match s.colRef x b with
    | .error e => .error e
    | .ok line =>
      match allOk ((List.range 16).map (fun e => b.readAcc (16 * q.toNat + e))) with
      | .error e => .error e
      | .ok accs => .ok ⟨b, [(line, staccBytes accs half hi)]⟩
  | .zacc mask =>
    .ok ⟨(List.range 64).foldl (fun b j => if mask.getLsbD (j / 16) then b.putAcc j 0 else b) b, []⟩

/-- The pointers and counters after a command (R343). -/
def Session.control (x : Session) (c : BguCmd) : Session :=
  let next (x : Session) : Session := { x with pc := (x.pc + 1) % 64 }
  let adv (inc : Bool) (x : Session) : Session :=
    if !inc then x else if x.col = 15 then { x with col := 0, bank := (x.bank + 1) % 4 } else { x with col := x.col + 1 }
  match c with
  | .nop | .zacc _ => next x
  | .openRow all bank _ _ _ => next { x with bank := if all then 0 else bank.toNat, col := 0 }
  | .col n => next { x with col := n.toNat }
  | .mac inc .. | .macx inc .. | .ldbv inc .. | .stacc inc .. => next (adv inc x)
  | .setc k v => next { x with c := Map.set 0 x.c k.toNat v.toNat }
  | .loop k target =>
    let v := (Map.get 0 x.c k.toNat + 65535) % 65536
    let x := { x with c := Map.set 0 x.c k.toNat v }
    if v ≠ 0 then { x with pc := target.toNat } else next x
  | .incr k imm => next { x with c := Map.set 0 x.c k.toNat ((Map.get 0 x.c k.toNat + imm.toNat) % 65536) }
  | .nextb => next { x with bank := (x.bank + 1) % 4, col := 0 }
  | .halt => x

/-! ## Steps and errors (R344, R352, R353) -/

/-- A cause of a session waits for its group, on its cores or in a saved image (R353). -/
def State.holdBank (s : State) (team group : Nat) (h : Held) : State :=
  if Map.has s.teams team then s.holdCause team group h
  else
    let put (rs : List ImageRec) : List ImageRec :=
      if rs.any (fun r => r.names team) then
        let alive := rs.filterMap (fun r =>
          match r.body with | .group n g => if g.alive then some n else none | _ => none)
        let heir := if alive.contains group then some group else alive.head?
        rs.map (fun r =>
          match r.body with | .group n g => if some n = heir then { r with body := .group n (g.hold h) } else r | _ => r)
      else rs
    { s with ctxs := Map.mapVal s.ctxs (fun _ c => { c with images := Map.mapVal c.images (fun _ rs => put rs) }) }

/-- The count of `ibecnt` that an error raises (R355), by its lowest bit. -/
def bankCount (c : BitVec 9) : Option Nat :=
  if c = 0x181 then some 48 else if c = 0x182 then some 32 else if c = 0x183 then some 16 else if c = 0x189 then some 0 else none

/-- One error is counted. -/
def State.countBank (s : State) (c : BitVec 9) : State :=
  match bankCount c with
  | none => s
  | some lo =>
    let x := s.preg 0x821
    let s := s.setPreg 0x821 (setField x (lo + 15) lo (field x (lo + 15) lo + 1))
    if lo = 0 then
      let y := s.preg 0x818
      s.setPreg 0x818 (setField y 31 0 (field y 31 0 + 1))
    else s

/-- The writes of a command to its columns. -/
def State.putColumns (s : State) (ws : List (Nat × List (Nat × Byte))) : State :=
  ws.foldl
    (fun s w =>
      { s with
        mem := w.2.foldl (fun m p => Map.set 0 m (w.1 + p.1) p.2) s.mem
        badLines := if w.2.length = 64 then s.badLines.filter (· != w.1) else s.badLines }) s

/-- The errors that a command word meets in a BGU, each once: its column that cannot be corrected, and every accumulator that it reads and
that fails (R352, R355). -/
def State.commandErrors (s : State) (x : Session) (g : Nat) (c : BguCmd) : List (BitVec 9) :=
  let b := x.bgu g
  let col : List (BitVec 9) :=
    match s.colRef x b with
    | .error e => [e]
    | .ok line => match s.colRead line with | .error e => [e] | .ok _ => []
  let acc (js : List Nat) : List (BitVec 9) := (js.filter b.bad.contains).map (fun _ => 0x183)
  let at_ (cj : Bool) (k : BitVec 2) (j : BitVec 6) : Nat := if cj then (j.toNat + Map.get 0 x.c k.toNat) % 64 else j.toNat
  match c with
  | .mac _ cj k j _ => col ++ acc [at_ cj k j]
  | .macx _ cj k j _ _ => col ++ acc [at_ cj k j]
  | .ldbv _ _ => col
  | .stacc _ _ _ q => acc ((List.range 16).map (fun e => 16 * q.toNat + e))
  | _ => []

/-- Every error of a step is counted: a watchdog expiry once for its channel, all others in each BGU (R352, R355). -/
def State.countStep (s : State) (x : Session) (bad : List (Nat × BitVec 9)) : State :=
  let cmd := (decodeBgu (Map.get 0 x.store x.pc)).getD .nop
  let late := ((bad.filter (fun p => p.2 == 0x181)).map (fun p => x.pcOf p.1 / 2)).eraseDups
  let s := late.foldl (fun s _ => s.countBank 0x181) s
  bad.foldl
    (fun s p =>
      if p.2 = 0x181 then s
      else if p.2 = 0x182 then s.countBank 0x182
      else (s.commandErrors x p.1 cmd).foldl (fun s c => s.countBank c) s) s

/-- The session meets an error in some BGUs: in their channels the command has no effect, and every accumulator becomes invalid;
the pending steps are discarded, and fragments waiting in the session take the cause before they issue again. -/
def State.bankError (s : State) (x : Session) (bad : List (Nat × BitVec 9)) (addr : CodePtr) : State :=
  match bad with
  | [] => s
  | (g, c) :: _ =>
    let failed (h : Nat) : Bool := bad.any (fun p => x.pcOf p.1 / 2 == x.pcOf h / 2)
    let waits := x.queue.filterMap (fun op => match op with | .read r _ _ _ => some r | .fin r => some r | _ => none)
    let rest := x.queue.filter (fun op => match op with | .prog _ | .vec _ | .scale _ _ => true | _ => false)
    let s := s.updSession x.team x.group (fun y =>
      { y with
        error := some c
        queue := rest
        bgus := (List.range x.bguCount).foldl
          (fun m h =>
            if failed h then
              let b := Map.get nullBgu m h
              Map.put m h { b with invalid := List.range 64 }
            else m) y.bgus })
    let s := waits.foldl (fun s r => s.again r) s
    let s := s.bankTurns x.team x.group (rest.length + 1)
    let i := x.pcOf g
    (s.countStep x bad).holdBank x.team x.group
      ⟨.bank, c, addr, none, BitVec.ofNat 64 x.pc, none, BitVec.ofNat 64 (i + 256 * (g % 4)), 0x2000000000000000, some 1⟩

/-- One step of a session, in which the BGUs of some channels fail by the watchdog. -/
def State.bankStepOnce (s : State) (x : Session) (late : Nat → Bool) : State :=
  match x.queue with
  | .steps n addr :: rest =>
    let cmd := (decodeBgu (Map.get 0 x.store x.pc)).getD .nop
    let run (g : Nat) : Except (BitVec 9) BguOut :=
      if late g then .error 0x181
      else if x.badWords.contains (g, x.pc) then .error 0x182
      else s.command x g cmd
    let outs := (List.range x.bguCount).map (fun g => (g, run g))
    let bad := outs.filterMap (fun p => match p.2 with | .error c => some (p.1, c) | .ok _ => none)
    let failed (h : Nat) : Bool := bad.any (fun p => x.pcOf p.1 / 2 == x.pcOf h / 2)
    let good := outs.filterMap (fun p =>
      match p.2 with | .ok o => if failed p.1 then none else some (p.1, o) | .error _ => none)
    let s := s.updSession x.team x.group (fun y =>
      { y with bgus := good.foldl (fun m p => Map.put m p.1 p.2.bgu) y.bgus })
    let s := s.putColumns (good.flatMap (fun p => p.2.writes))
    if bad.isEmpty then
      let s := s.updSession x.team x.group (fun y =>
        { y.control cmd with queue := .steps (n - 1) addr :: rest, since := s.now })
      s.bankTurns x.team x.group (x.queue.length + 1)
    else s.bankError x bad addr
  | _ => s

/-- IB_STEP: a session executes one command word in every BGU (R344). -/
def execIbStep (team group : Nat) (s : State) : Res :=
  match s.session team group with
  | none => .next s
  | some x => .next (s.bankStepOnce x (fun _ => false))

/-- IB_WATCHDOG_EXPIRY: a step that has not completed in time in a channel (R352); 3.3 cycles a nanosecond (DEDUCED, log 11). -/
def execIbWatchdogExpiry (team group channel : Nat) (s : State) : Res :=
  let ns := field (s.preg 0x820) 31 0
  match s.session team group with
  | none => .next s
  | some x =>
    if ns = 0 || decide (10 * (s.now - x.since) < 33 * ns) || !(channelsOf x.mask).any (fun i => i / 2 == channel) then .next s
    else .next (s.bankStepOnce x (fun g => x.pcOf g / 2 == channel))

/-- The group that owns a session has no lanes left, on its core or in the image that its team was saved to (R340). -/
def State.ownerGone (s : State) (team group : Nat) : Bool :=
  if Map.has s.teams team then !(s.groupAt team group).alive
  else
    s.ctxs.any (fun c => c.2.images.any (fun i =>
      !s.received.contains (c.1, i.1) && i.2.any (fun r => r.names team)
        && i.2.any (fun r => match r.body with | .group n g => n == group && !g.alive | _ => false)))

/-- SESSION_END: the owning group has no lanes left and nothing is pending (R340). -/
def execSessionEnd (team group : Nat) (s : State) : Res :=
  match s.session team group with
  | none => .next s
  | some x =>
    .next (if s.ownerGone team group && x.queue.isEmpty then s.endSession x else s)

end Sys2Proof.Machine
end

