-- ==== Sys2Proof/Machine/Issue.lean ====
section
/-!
DEFINITION. Sys2Proof/Machine/Issue.lean: how a fragment's next slot comes to issue: fetching its line with the parity of R45,
the line's own checks, imprecise causes, forced stops, and the choice of a port (R46, R99). The meaning of instructions is
a parameter, so that the step can pass it in.
-/

namespace Sys2Proof.Machine

/-- Odd parity of the low 512 bits of a number, by folding halves. -/
def oddParity (x : Nat) : Bool := (fold x 9).testBit 0
where
  /-- bits of the upper half are added to the lower half, halving the width each turn -/
  fold (x : Nat) : Nat → Nat
    | 0 => x
    | k + 1 => fold (Nat.xor x (x / 2 ^ (2 ^ k))) k

/-- Both parity bits of a line are even (R44). -/
def parityOk (line : BitVec 512) : Bool :=
  let w := lineWord line
  let p1 := (line.extractLsb' 0 288).toNat * 2 + (if w.getLsbD 31 then 1 else 0)
  let p0 := (line.extractLsb' 288 192).toNat * 2 ^ 31 + (w.extractLsb' 0 31).toNat
  !oddParity p1 && !oddParity p0

/-- flagA or flagB holds 0xC, 0xD or 0xE (R45). -/
def flagsReserved (line : BitVec 512) : Bool :=
  let bad (x : BitVec 4) : Bool := decide (12 ≤ x.toNat) && decide (x.toNat ≤ 14)
  bad ((lineWord line).extractLsb' 14 4) || bad ((lineWord line).extractLsb' 10 4)

/-- A cause of a fragment's line, at slot 0 of that line (R45). -/
def State.lineCause (s : State) (r : FragRef) (c : BitVec 9) : State :=
  let f := s.fragAt r
  let pc := BitVec.ofNat 64 (lineOfPc f.pc)
  s.takeTrap r { code := c, addr := pc, resume := pc } f.em

/-- A failed fetch at a fragment's slot: its cause, at that slot, with the walk's information (R94, R278). -/
def State.fetchStop (s : State) (r : FragRef) : MStop → State
  | .wait => let t := s.teamOf r.team
    s.fetchAsk r t.ctx (!(s.groupAt r.team r.group).sys) (lineOfPc (s.fragAt r).pc)
  | .trap c _ i0 i1 i2 =>
    let f := s.fragAt r
    let s := if translationCause c then s.looked (s.teamOf r.team).ctx (lineOfPc f.pc) else s
    (s.fetchDrop r (lineOfPc f.pc)).takeTrap r
      { code := c, addr := f.pc, resume := f.pc, info0 := i0, info1 := i1, info2 := if c = 0x048 then 31 else i2 } f.em

/-- One fetch of a fragment's line, with the bits of the copy that are wrong. A first copy with bad parity is counted and
the line is to be fetched once more; a second one takes 0x004; a line word with a reserved flag number takes 0x002 (R45). -/
def State.fetchFrag (s : State) (r : FragRef) (flip : BitVec 512) : State :=
  let t := s.teamOf r.team
  let g := s.groupAt r.team r.group
  let f := s.fragAt r
  let va := lineOfPc f.pc
  match s.fetch r t.ctx (!g.sys) va with
  | .error e => s.fetchStop r e
  | .ok (line, s) =>
    let line := line ^^^ flip
    if !parityOk line then
      if f.refetch then (s.updFragAt r (fun f => { f with refetch := false })).lineCause r 0x004
      else (s.countErr 48).updFragAt r (fun f => { f with refetch := true })
    else if flagsReserved line then s.lineCause r 0x002
    else s.updFragAt r (fun f => { f with refetch := false, line := some (va, line) })

/-- A fragment's core is not power-gated: a gated core issues nothing until its cache wakes (R312; DESIGN CHOICE, log 40). -/
def State.powered (s : State) (r : FragRef) : Bool := !s.gated.contains (s.teamOf r.team).core

/-- A fragment may act: its entry is in use, its group has not stopped, its team is resident, and its core has power. -/
def State.runs (s : State) (r : FragRef) : Bool :=
  s.live r && (s.groupAt r.team r.group).stop.isNone && (s.teamOf r.team).status == .resident && s.powered r

/-- The cycle from which a pending pre-emption stops a group at a slot boundary (R392, R393). -/
def Group.forcedAt (g : Group) (request : Nat) : Nat := Nat.max (request + 1000000) g.deferUntil

/-- Whether the forced stop is due. -/
def State.forceDue (s : State) (team : Nat) (g : Group) : Bool :=
  match (s.teamOf team).request with
  | none => false
  | some c => decide (g.forcedAt c ≤ s.now)

/-- A group stops at an implicit safe point (R64). -/
def State.stopGroup (s : State) (team g : Nat) : State :=
  s.updGroupAt team g Group.halt

/-- The fetched line of a fragment, if it is the one its program counter names. -/
def Frag.here (f : Frag) : Option (BitVec 512) :=
  match f.line with
  | some (a, l) => if a = lineOfPc f.pc then some l else none
  | none => none

/-- The line's wait mask finds a flag that is not clear (R46). -/
def Group.waitsOn (g : Group) (line : BitVec 512) : Bool :=
  (List.range 12).any (fun k => (lineWord line).getLsbD (18 + k) && g.flag k != 0)

/-- An instruction at which an armed 0x051 is taken (R324): a fence or a safe point, explicit or implicit. -/
def fenceOrSafe (w : BitVec 96) : Bool := blockingSlot w || (opOf w != 0xFF && w.getLsbD 87)

/-- A slot that has issued is the latest issue of its team and its core (R103): one that is held, or that traps, has not issued. -/
def State.stampIssue (s : State) (r : FragRef) (core : Nat) : State :=
  if !s.live r || (s.fragAt r).went then
    { s with
      teams := Map.alter s.teams r.team (fun t => { t with issued := s.now })
      lastIssue := Map.set 0 s.lastIssue core s.now }
  else s

/-- The slot at a fragment's program counter, whose line is there: imprecise causes first, then the wait mask at slot 0, the
entry mark of a launch (R47), check 1 of R65, and the instruction. -/
def State.issueHere (ex : Instr → State → Res) (s : State) (r : FragRef) (line : BitVec 512) : Res :=
  let g := s.groupAt r.team r.group
  let f := s.fragAt r
  let core := (s.teamOf r.team).core
  let w := slotBits line (slotOfPc f.pc)
  let s := { s with cur := ⟨r, ⟨false, 7, false, 0⟩, 0, core⟩ }
  if g.ctxFault.isSome && f.sent.isEmpty && fenceOrSafe w then .next (s.deliverFault r)
  else if slotOfPc f.pc = 0 ∧ g.waitsOn line then .next s
  else if f.fresh && !slotMarked line (slotOfPc f.pc) then .next (s.raise 0x003 none f.pc)
  else
    match decodeRaw w with
    | .error .unassigned => .next (s.raise 0x001)
    | .error _ => .next (s.raise 0x002)
    | .ok slot =>
      match ex slot.ins { s.updFragAt r (fun f => { f with went := false }) with cur := ⟨r, slot.hdr, slot.body, core⟩ } with
      | .next t => .next (t.stampIssue r core)
      | x => x

/-- A fragment whose slot has issued and waits for replies of peers (R362): the slot is finished even if the group has stopped
meanwhile (R392). -/
def State.finishes (s : State) (r : FragRef) : Bool := s.live r && !(s.fragAt r).sent.isEmpty

/-- A fragment's turn to issue. -/
def State.issueSlot (ex : Instr → State → Res) (s : State) (r : FragRef) : Res :=
  let g := s.groupAt r.team r.group
  let f := s.fragAt r
  if s.finishes r then
    match f.here with
    | some line => if s.powered r then s.issueHere ex r line else .next s
    | none => .next s
  else if !s.runs r || f.park.isSome then .next s
  else if s.forceDue r.team g then .next (s.stopGroup r.team r.group)
  else if !g.held.isEmpty && !g.ent then .next (s.deliver r)
  else
    match f.here with
    | some line => s.issueHere ex r line
    | none =>
      let s := s.fetchFrag r 0
      match (s.fragAt r).here with
      | some line => if s.runs r then s.issueHere ex r line else .next s
      | none => .next s

/-! ## The events of fetch and issue -/

/-- FETCH_LINE: a fragment's line is fetched, with the bits of the copy that are wrong (R45). -/
def execFetchLine (r : FragRef) (flip : BitVec 512) (s : State) : Res :=
  let f := s.fragAt r
  .next (if s.runs r && f.park.isNone && f.here.isNone && !f.refetch then s.fetchFrag r flip else s)

/-- FETCH_LINE_REFETCH: the second fetch after bad parity (R45). -/
def execFetchLineRefetch (r : FragRef) (flip : BitVec 512) (s : State) : Res :=
  let f := s.fragAt r
  .next (if s.runs r && f.park.isNone && f.refetch then s.fetchFrag r flip else s)

/-- A fragment's slot passes the checks of R65 and attaches to a flag that holds 63 (R51). -/
def State.fullAt (s : State) (r : FragRef) : Bool :=
  let f := s.fragAt r
  match f.here with
  | none => false
  | some line =>
    let w := slotBits line (slotOfPc f.pc)
    match decodeRaw w with
    | .error _ => false
    | .ok slot =>
      let s := { s with cur := ⟨r, slot.hdr, slot.body, (s.teamOf r.team).core⟩ }
      opOf w != 0xFF && (s.slotCause slot.ins).isNone && s.flagFull

/-- A fragment is not parked, its line is there, which FETCH_LINE fetches, and the line's wait mask does not hold it. -/
def State.reaches (s : State) (r : FragRef) : Bool :=
  let g := s.groupAt r.team r.group
  let f := s.fragAt r
  s.runs r && f.park.isNone && f.sent.isEmpty &&
    match f.here with
    | some line => !(slotOfPc f.pc == 0 && g.waitsOn line)
    | none => false

/-- A fragment is ready (R98): it is not parked, and its next slot passes the checks of R46. -/
def State.ready (s : State) (r : FragRef) : Bool := s.reaches r && !s.fullAt r

/-- The fragments whose groups have their slot on a port of a core (R84). -/
def State.portFrags (s : State) (core port : Nat) : List FragRef :=
  (s.teams.map (fun t =>
    if t.2.core = core then
      (t.2.groups.map (fun g => if g.2.slot % 4 = port then g.2.frags.map (fun f => ⟨t.1, g.1, f.1⟩) else [])).flatten
    else [])).flatten

/-- The order of R99: promoted first, then the oldest stamp, the lower slot, the lower entry. -/
def State.before (s : State) (a b : FragRef) : Bool :=
  let key (r : FragRef) : Nat × Nat × Nat × Nat :=
    ((if (s.fragAt r).promoted then 0 else 1), (s.fragAt r).stamp, (s.groupAt r.team r.group).slot, r.entry)
  let x := key a
  let y := key b
  if x.1 ≠ y.1 then decide (x.1 < y.1)
  else if x.2.1 ≠ y.2.1 then decide (x.2.1 < y.2.1)
  else if x.2.2.1 ≠ y.2.2.1 then decide (x.2.2.1 < y.2.2.1)
  else decide (x.2.2.2 < y.2.2.2)

/-- The fragment a port chooses (R99). -/
def State.choose (s : State) (core port : Nat) : Option FragRef :=
  ((s.portFrags core port).filter s.ready).foldl
    (fun best r => match best with | none => some r | some b => if s.before r b then some r else some b) none

/-- A fragment that the port does not choose in a cycle (R98, R100): a ready one has waited since the first such cycle, one that is
not ready waits anew, and one stalled by its full flag is counted once (R51). -/
def State.passedOver (s : State) (r : FragRef) : State :=
  if s.ready r then s.updFragAt r (fun f => { f with ready := some (f.ready.getD s.now) })
  else
    let s := s.updFragAt r (fun f => { f with ready := none })
    if s.reaches r && s.fullAt r && !(s.fragAt r).counted.full then
      (s.updGroupAt r.team r.group (·.countStall 63 32)).updFragAt r (fun f =>
        { f with counted := { f.counted with full := true } })
    else s

/-- PORT_ISSUE: the port chooses a fragment, whose slot comes next and whose wait for the port is over, issue or not, or none; the others
of its groups are passed over (R99, R100). -/
def execPortIssue (core port : Nat) (s : State) : Res :=
  let pass (chosen : Option FragRef) : State :=
    ((s.portFrags core port).filter (fun x => some x != chosen)).foldl State.passedOver s
  match s.choose core port with
  | none => .next (pass none)
  | some r =>
    let s := (pass (some r)).updFragAt r (fun f => { f with ready := none })
    .next { s with agenda := (.slot r, 0) :: s.agenda }

/-- FRAGMENT_PROMOTE: a fragment ready and not chosen for 1,024 consecutive cycles (R100). -/
def execFragmentPromote (r : FragRef) (s : State) : Res :=
  let f := s.fragAt r
  let due := match f.ready with | some c => decide (c + 1024 ≤ s.now) | none => false
  if s.live r && !f.promoted && s.ready r && due then
    .next (s.updGroupAt r.team r.group (fun g =>
      { g with grpcnt := setField g.grpcnt 63 32 (field g.grpcnt 63 32 + 1) }.updFrag r.entry
        (fun f => { f with promoted := true })))
  else .next s

/-- INSTRUCTION_COMPLETE: an issued instruction has written its registers, and its flag drops (R49, R50); a tile instruction
completes after those of its team that it depends on (R174), and one that waits for a peer with the reply (R380). -/
def execInstructionComplete (team group id : Nat) (s : State) : Res :=
  let held :=
    match Map.find (s.groupAt team group).inflight id with
    | none => false
    | some x => x.req.isSome || (s.teamOf team).tileHeld x.time x.tile
  if Map.has s.teams team && Map.has (s.teamOf team).groups group && !held then
    .next (s.updGroupAt team group (·.complete id))
  else .next s

/-- IMPRECISE_CAUSE_DELIVERY: a held cause is taken at a fragment's next slot (R388). -/
def execImpreciseCauseDelivery (r : FragRef) (s : State) : Res :=
  .next (if s.runs r && !s.finishes r && (s.fragAt r).park.isNone then s.deliver r else s)

/-- CONTEXT_FAULT_TRAP: the armed 0x051 is taken by a fragment that is parked, which is an implicit safe point, or whose next
slot is a fence or an explicit safe point (R324). -/
def execContextFaultTrap (r : FragRef) (s : State) : Res :=
  let f := s.fragAt r
  let here := match f.here with | some line => fenceOrSafe (slotBits line (slotOfPc f.pc)) | none => false
  .next (if s.runs r && !s.finishes r && (f.park.isSome || here) then s.deliverFault r else s)

/-- TRAP_ENTRY: a fragment takes a cause at its next slot (R386). -/
def execTrapEntry (r : FragRef) (cause : BitVec 9) (mask : Mask) (info : DWord) (s : State) : Res :=
  let pc := (s.fragAt r).pc
  .next (if s.runs r && !s.finishes r then
    s.takeTrap r { code := cause, mask := some mask, addr := pc, info0 := info, resume := pc } 0 else s)

end Sys2Proof.Machine
end

