-- ==== Sys2Proof/Machine/Launch.lean ====
section
/-!
DEFINITION. Sys2Proof/Machine/Launch.lean: launch records from `spawn` to completion (R104 to R110), placement (R76 to R84, R280,
R281), retirement of teams (R80) and of cores (R83), and the swap of R103.
-/

namespace Sys2Proof.Machine

/-! ## `spawn` (R110) -/

/-- The lines of the 248 bytes that `spawn` copies, through ordinary translation: those of a peer's page under R360. -/
def State.recordReqs (s : State) (va : Nat) : Except MStop (List LineReq) :=
  let a : Ask := ⟨1, 248, .read, true⟩
  let pieces := (linePieces va 248).map (fun p => (p.1, (List.range p.2.2).map (fun i => (0, p.1 + p.2.1 + i - va, p.2.1 + i))))
  match translateLines s s.ct.ctx (!s.cg.sys) 0 a pieces with
  | .error e => .error e
  | .ok reqs =>
    match s.placeStop .plain reqs with
    | some e => .error e
    | none => checkReach s s.ct.core false a reqs

/-- The list that `spawn` publishes to has room for a record: go on with its header. Else `spawn` returns 1. -/
def State.withRoom (s : State) (n : Nat) (full : State → State) (k : ListHead → State → State) : State :=
  if field (s.cc.sreg (0x400 + n)) 56 6 = 0 then full s
  else
    match s.listHead s.ct.ctx (!s.cg.sys) n with
    | .error e => s.memStop e
    | .ok (none, s) => full s
    | .ok (some h, s) => if 2 ^ h.z ≤ (h.tail + 2 ^ 64 - h.head) % 2 ^ 64 then full s else k h s

/-- The record is written to the tail's slot, its sequence number last, and tail advances. -/
def State.publish (s : State) (h : ListHead) (b : List Byte) (done : State → State) : State :=
  let ctx := s.ct.ctx
  let user := !s.cg.sys
  let t := (h.tail + 1) % 2 ^ 64
  match s.agentWrites ctx user (lineWrites (h.slotAt h.tail) (b ++ bytesOfNat 8 t)) with
  | .error e => s.memStop e
  | .ok s' =>
    match s'.agentWrite ctx user (h.base + 8) (bytesOfNat 8 t) with
    | .error e => s.memStop e
    | .ok s' => done s'

/-- `spawn`: the record is copied and published in one step; a fault leaves tail unchanged. A record in a peer's memory is read under R360, and
the list is looked at again once it is there. -/
def execSpawn (f : FmtE) (s : State) : Res :=
  .next (s.slot (.spawn f) { reads := [.s f.a.toNat], writes := [.s f.d.toNat] } (fun s =>
    s.whenActs (fun s =>
      let a := s.cg.ureg f.a.toNat
      let put (x : DWord) (s : State) : State := (s.setG (·.setU f.d.toNat x)).retire [.s f.d.toNat]
      let n := f.sub.toNat % 4
      let bytes (xs : List (Nat × Nat × Byte)) : List Byte := bytesOfNat 248 (laneNat 248 xs 0)
      if field a 5 0 ≠ 0 then s.raise 0x00C none a
      else
        s.withReplies true
          (fun s =>
            s.withRoom n (put 1) (fun h s =>
              if 2 ^ 57 < a.toNat + 248 then s.raise 0x04E none a
              else
                match s.recordReqs a.toNat with
                | .error e => s.memStop e
                | .ok ls =>
                  if ls.any (fun x => x.place.remote) then s.sendReads ls
                  else
                    let x := s.readReqs ls
                    x.2.publish h (bytes x.1) (put 0)))
          (fun xs s => s.withRoom n (put 1) (fun h s => s.publish h (bytes xs) (put 0))))))

/-! ## Room on a core (R8, R78, R84) -/

/-- Groups of a half of a record's team (R77). -/
def LaunchRec.half (r : LaunchRec) (h : Nat) : Nat :=
  if r.pair then (if h = 0 then (r.groups + 1) / 2 else r.groups / 2) else r.groups

/-- Where one half of a rank goes: rank, half and core. -/
structure Seat where
  rank : Nat
  half : Nat
  core : Nat
deriving DecidableEq, Repr

/-- The seats of a cluster's ranks from an origin (R79), none where a position lies off the mesh: of paired teams or not, with
an odd half or not. -/
def seatsOf (pair odd : Bool) (origin ranks : Nat) : Option (List Seat) :=
  let die := origin / 64
  let x0 := origin % 8
  let y0 := origin % 64 / 8
  let ok := (List.range ranks).all (fun k =>
    decide (y0 + k / 4 < 8) && (if pair then x0 == 0 else decide (x0 + k % 4 < 8)))
  if !ok || 4 ≤ die then none
  else
    some ((List.range ranks).flatMap (fun k =>
      let row := die * 64 + (y0 + k / 4) * 8
      if pair then
        ⟨k, 0, row + 2 * (k % 4)⟩ :: (if odd then [⟨k, 1, row + 2 * (k % 4) + 1⟩] else [])
      else [⟨k, 0, row + x0 + k % 4⟩]))

def LaunchRec.seats (r : LaunchRec) (origin ranks : Nat) : Option (List Seat) := seatsOf r.pair (r.half 1 != 0) origin ranks

/-- A team that holds its allotment on its core. -/
def Team.holds (t : Team) : Bool := !t.groups.isEmpty

/-- A group whose lanes have all exited and whose entries have all ended: it has given up its slot and root entry (R92). -/
def Group.over (g : Group) : Bool := !g.alive && g.frags.isEmpty

/-- The groups that hold a group slot (R84, R92). -/
def Team.slotted (t : Team) : List Group := (t.groups.filter (fun g => !g.2.over)).map (·.2)

/-- The resources of R8 that teams hold on a core, or that a half of a record's team asks for. -/
structure Room where
  teams : Nat
  groups : Nat
  entries : Nat
  vectors : Nat
  tiles : Nat
  scratch : Nat
  copyq : Nat
  slots : Nat
deriving DecidableEq, Repr

/-- What a half of a record's team asks for. -/
def LaunchRec.ask (r : LaunchRec) (h : Nat) : Room :=
  ⟨1, r.half h, r.frag, r.half h * r.width * 8 * r.vregs, r.tiles, 32768 * r.scratch, r.copyq, r.slots⟩

/-- What a team holds: a retired or frozen one keeps its scratchpad (R80, R193). -/
def Team.room (t : Team) : Room :=
  if t.holds then
    ⟨1, t.slotted.length, t.entries, t.groups.length * t.width * 8 * t.vblocks, t.tileUnits, t.spSize, t.copyq, t.slots⟩
  else ⟨0, 0, 0, 0, 0, t.spSize, 0, 0⟩

def Room.add (a b : Room) : Room :=
  ⟨a.teams + b.teams, a.groups + b.groups, a.entries + b.entries, a.vectors + b.vectors, a.tiles + b.tiles,
    a.scratch + b.scratch, a.copyq + b.copyq, a.slots + b.slots⟩

/-- Everything fits in a core (R78, R84, R115, R168, R193, R223). -/
def Room.fits (a : Room) : Bool :=
  decide (a.teams ≤ 16) && decide (a.groups ≤ 48) && decide (a.entries ≤ 128) && decide (a.vectors ≤ 65536)
    && decide (a.tiles ≤ 128) && decide (a.scratch ≤ 327680) && decide (a.copyq ≤ 64) && decide (a.slots ≤ 32)

/-- What the teams of a core hold. -/
def State.used (s : State) (core : Nat) : Room :=
  s.teams.foldl (fun a t => if t.2.core = core then a.add t.2.room else a) ⟨0, 0, 0, 0, 0, 0, 0, 0⟩

/-- The cores of a die that the scheduler keeps for the collective kernels: the highest-numbered ones not retired (R375). -/
def State.partition (s : State) (die : Nat) : List Nat :=
  (((List.range 64).map (fun i => 64 * die + 63 - i)).filter (fun c => !s.retired.getLsbD c)).take (field (s.preg 0x832) 4 0)

/-- A core on which teams can be: neither retired (R83) nor kept for the collective kernels. -/
def State.usable (s : State) (core : Nat) : Bool := !s.retired.getLsbD core && !(s.partition (core / 64)).contains core

/-- A core on which the scheduler may place now. -/
def State.open (s : State) (core : Nat) : Bool := s.usable core && !s.retiring.contains core

/-- A record permits a die (R106). -/
def LaunchRec.permits (r : LaunchRec) (die : Nat) : Bool := r.dies == 0 || r.dies.testBit die

/-- The seats fit now, or, with `empty`, would fit on cores that hold no team. -/
def State.seatsFit (s : State) (r : LaunchRec) (empty : Bool) (l : List Seat) : Bool :=
  l.all (fun x =>
    (if empty then s.usable x.core else s.open x.core) && r.permits (x.core / 64)
      && (if empty then (r.ask x.half).fits else ((s.used x.core).add (r.ask x.half)).fits))

/-- A cluster of a kernel may start at an origin: the kernel's image lists it, or lists none (R75, R79). -/
def State.routed (s : State) (ctx : Nat) (entry : CodePtr) (origin : Nat) : Bool :=
  match (s.ctxOf ctx).routes.find? (·.1 == entry) with
  | none => true
  | some x => x.2.contains origin

/-- The private-memory slots of a context (R280). -/
def Ctx.privateCount (c : Ctx) : Nat := field (c.sreg 0x40C) 15 0

/-- The private-memory slots of a context that no team holds (R280). -/
def State.freePrivates (s : State) (ctx : Nat) : List Nat :=
  (List.range (s.ctxOf ctx).privateCount).filter (fun k => !(s.ctxOf ctx).privates.contains k)

/-- The ranks of the cluster that a launch places next. -/
def Launch.ranks (l : Launch) : Nat := min l.record.csize (l.record.teams - l.next)

/-- A launch's next cluster can be placed at an origin; one that takes scratchpad waits until the L1 of each of its cores can write its dirty
lines back (R193). -/
def State.placeable (s : State) (l : Launch) (origin : Nat) : Option (List Seat) :=
  if l.ranks = 0 || (s.ctxOf l.ctx).stopped || !s.routed l.ctx l.record.entry origin then none
  else
    match l.record.seats origin l.ranks with
    | none => none
    | some seats =>
      if s.seatsFit l.record false seats && decide (seats.length ≤ (s.freePrivates l.ctx).length)
          && (l.record.scratch == 0 || seats.all (fun x => (s.flushStop x.core).isNone)) then some seats
      else none

/-- The private-memory slots that a launch's next cluster takes (R280): one for each half. -/
def Launch.privatesDue (l : Launch) : Nat := if l.record.pair && l.record.half 1 != 0 then 2 * l.ranks else l.ranks

/-- Some cores could hold the record's clusters (R8, R75, R78, R106), and the context has private slots for one of them (R280). -/
def State.everFits (s : State) (ctx : Nat) (r : LaunchRec) : Bool :=
  (List.range 256).any (fun o =>
    s.routed ctx r.entry o &&
      match r.seats o (min r.csize r.teams) with
      | none => false
      | some l => s.seatsFit r true l && decide (l.length ≤ (s.ctxOf ctx).privateCount))

/-! ## Records (R108, R109) -/

/-- `llrefuse` receives an event (R109). -/
def State.llrefuse (s : State) (ctx list slot done : Nat) : State :=
  s.updCtx ctx (fun c => c.setSreg 0x404 (BitVec.ofNat 64 (done * 2 ^ 18 + list * 2 ^ 16 + slot)))

/-- A list's header cannot be read or written: the list is unused until `llist` is written again. -/
def State.dropList (s : State) (ctx list : Nat) : State :=
  (s.updCtx ctx (fun c => { c with unused := list :: c.unused })).llrefuse ctx list 0xFFFF 0

/-- The gate of a record: open, closed, not readable, or not readable yet. -/
def State.gate (s : State) (ctx : Nat) (r : LaunchRec) : Except MStop (Bool × State) :=
  if r.gate = 0 then .ok (true, s)
  else
    match s.agentRead ctx false r.gate 8 with
    | .error e => .error e
    | .ok (b, s) => .ok (decide (r.gval ≤ natOfBytes b), s)

/-- What the scheduler does with the record in the head slot: nothing yet, refuse it, or launch it. -/
inductive Take where
  | no
  | refuse (s : State)
  | launch (r : LaunchRec) (s : State)

/-- The published record in the head slot (R108, R109): a slot or gate word that cannot be read refuses it. -/
def State.headRecord (s : State) (ctx : Nat) (h : ListHead) : Take :=
  match s.recordAt ctx h h.head with
  | .error .wait => .no
  | .error _ => .refuse s
  | .ok (none, _) => .no
  | .ok (some b, s) =>
    let r := LaunchRec.of b
    match s.gate ctx r with
    | .error .wait => .no
    | .error _ => .refuse s
    | .ok (false, _) => .no
    | .ok (true, s) => if recordBreaks b || !s.everFits ctx r then .refuse s else .launch r s

/-- The number of the next launch: records taken earlier have lower ones. -/
def State.nextLaunch (s : State) : Nat := (s.launches.map (·.1)).foldl Nat.max 0 + 1

/-- The head moves past a record; a header that cannot be written makes the list unused, and the record stays. -/
def State.passRecord (s : State) (ctx list : Nat) (h : ListHead) (k : State → State) : State :=
  match s.agentWrite ctx false h.base (bytesOfNat 8 ((h.head + 1) % 2 ^ 64)) with
  | .error .wait => s
  | .error _ => s.dropList ctx list
  | .ok s => k s

/-- LAUNCH_RECORD_TAKE: the scheduler takes the record in a list's head slot (R108, R109). -/
def execLaunchRecordTake (ctx list : Nat) (s : State) : Res :=
  let c := s.ctxOf ctx
  if !Map.has s.ctxs ctx || 4 ≤ list || c.stopped || field (c.sreg (0x400 + list)) 56 6 == 0 then .next s
  else
    match s.listHead ctx false list with
    | .error .wait => .next s
    | .error _ => .next (s.dropList ctx list)
    | .ok (none, s) => .next s
    | .ok (some h, s') =>
      let slot := h.head % 2 ^ h.z
      match s'.headRecord ctx h with
      | .no => .next s
      | .refuse s => .next (s.passRecord ctx list h (fun s => (s.llrefuse ctx list slot 0).irq 1))
      | .launch r s =>
        .next (s.passRecord ctx list h (fun s =>
          { s with launches := Map.put s.launches s.nextLaunch ⟨ctx, list, slot, r, 0, 0⟩ }))

/-! ## Placement (R79, R84, R280, R281) -/

/-- One of a list, by a free value. -/
def pickRoom (tick : Nat) (l : List Nat) : Nat := l.getD (Config.room tick % l.length) (l.headD 0)

/-- Several different ones of a list. -/
def pickRooms (tick : Nat) (l : List Nat) : Nat → List Nat
  | 0 => []
  | n + 1 =>
    let x := pickRoom (64 * tick + n) l
    x :: pickRooms tick (l.filter (· != x)) n

/-- The group slots of a core in use. -/
def State.slotsUsed (s : State) (core : Nat) : List Nat :=
  (s.teams.map (fun t => if t.2.core = core then t.2.slotted.map (·.slot) else [])).flatten

/-- The private-memory record that bf31 receives (R281). -/
def privateRecord (base extent hwm : Nat) : BitVec 256 :=
  BitVec.ofNat 256 (base % 2 ^ 57 + extent * 2 ^ 96 + hwm * 2 ^ 160 + 2 * 2 ^ 202)

/-- The private-memory record of a context's slot. -/
def Ctx.privateOf (c : Ctx) (k : Nat) : BitVec 256 :=
  let extent := field (c.sreg 0x40B) 63 32
  privateRecord (4096 * field (c.sreg 0x40A) 56 12 + 1024 * (k * extent)) extent (field (c.sreg 0x40B) 31 0)

/-- The lanes that a group of a record's team owns (R76). -/
def LaunchRec.ownedLanes (r : LaunchRec) (g : Nat) : Mask := lowMask (min r.width (r.lanes - g * r.width))

/-- A group as placement leaves it (R84, R118, R370). -/
def LaunchRec.group (r : LaunchRec) (g slot stamp : Nat) (tag : Tag) : Group :=
  let m := r.ownedLanes g
  { nullGroup with
    slot := slot, owned := m, ackTag := tag, s := Map.set 0 [] 0 r.args
    frags := [(g, { nullFrag with om := m, em := m, pc := r.entry, stamp := stamp, fresh := true })] }

/-- The groups of a half, in ascending number. -/
def State.placeGroups (s : State) (r : LaunchRec) (core : Nat) (tag : Tag) : List (Nat × Nat) → Map Group × State
  | [] => ([], s)
  | (g, slot) :: rest =>
    let n := s.newStamp core
    let x := n.2.placeGroups r core tag rest
    ((g, r.group g slot n.1 tag) :: x.1, x.2)

/-- One half of a team is placed, with its private slot, as team number `id`. Each half has sixteen queues and sixteen windows of its own,
beside the scratchpad in which they lie, since the chapter on them does not say that halves share them (R77, DESIGN CHOICE, log 49), and
`team.csize` shows the record's cluster size, less one, in the last, smaller cluster too (R82, DESIGN CHOICE, log 49). -/
def State.placeHalf (s : State) (launch : Nat) (l : Launch) (x : Seat) (id : Nat) (partner : Option Nat) : State :=
  let r := l.record
  let s := if r.scratch = 0 then s else s.yieldL1 x.core
  let c := s.ctxOf l.ctx
  let k := pickRoom s.tick (s.freePrivates l.ctx)
  let first := if x.half = 1 then r.half 0 else 0
  let slots := pickRooms s.tick ((List.range 48).filter (fun n => !(s.slotsUsed x.core).contains n)) (r.half x.half)
  let gs := s.placeGroups r x.core s.tag (slots.zipIdx.map (fun p => (first + p.2, p.1)))
  let t : Team :=
    { nullTeam with
      ctx := l.ctx, launch := launch, index := l.next + x.rank, rank := x.rank, csize := r.csize, half := x.half
      partner := partner, core := x.core, width := r.width, lanes := r.lanes, groupCount := r.groups, vblocks := r.vregs
      uregs := r.uregs, tileUnits := r.tiles, spSize := 32768 * r.scratch, entries := r.frag, copyq := r.copyq
      slots := r.slots, pslot := k, launchRec := r
      cvpol := c.policy.zipIdx.foldl (fun m p => Map.set 0 m p.2 p.1) []
      bf := Map.set 0 [] 31 (c.privateOf k)
      groups := gs.1 }
  let s := gs.2.updCtx l.ctx (fun c => { c with privates := c.privates ++ [k] })
  { s with teams := Map.put s.teams id t, tick := s.tick + 1 }

/-- The seats of a cluster are taken one after another; the halves of a team know each other. -/
def State.placeSeats (s : State) (launch : Nat) (l : Launch) : List Seat → State
  | [] => s
  | x :: rest =>
    let id := s.nextTeam
    let partner : Option Nat :=
      if x.half = 1 then some (id - 1)
      else match rest with | y :: _ => if y.half = 1 then some (id + 1) else none | [] => none
    ({ s with nextTeam := id + 1 }.placeHalf launch l x id partner).placeSeats launch l rest

/-! ## Retirement (R80) -/

/-- The teams that the images of a context hold. -/
def Ctx.savedTeams (c : Ctx) : List Team :=
  (c.images.map (fun i => i.2.filterMap (fun r => match r.body with | .team t => some t | _ => none))).flatten

/-- A team of the cluster still runs: it is on a core or saved. -/
def State.clusterRuns (s : State) (t : Team) : Bool :=
  s.teams.any (fun p => p.2.sameCluster t && p.2.holds) || (s.ctxOf t.ctx).savedTeams.any (fun x => x.sameCluster t)

/-- Once no team of a cluster runs, the scratchpads that it kept go back. -/
def State.dropCluster (s : State) (t : Team) : State :=
  if s.clusterRuns t then s else { s with teams := s.teams.filter (fun p => !p.2.sameCluster t) }

/-- A team gives up what R80 says; its scratchpad, queues and clasps stay. -/
def Team.giveUp (t : Team) (st : TeamStatus) : Team :=
  { t with
    status := st, groups := [], tiles := [], badUnits := [], win := [], ts := [], bf := [], mc := [], entryWait := []
    granted := [], request := none, landings := [] }

/-- Every group of a team has ended, and nothing that it started is still open. -/
def State.teamDone (s : State) (team : Nat) : Bool :=
  let t := s.teamOf team
  t.groups.all (fun g => !g.2.alive && g.2.frags.isEmpty && g.2.inflight.isEmpty)
    && !s.copies.any (fun c => c.2.team == team) && !s.colls.any (fun c => c.2.team == team)
    && !s.sessions.any (fun x => x.team == team) && t.landings.isEmpty && t.entryWait.isEmpty

/-- One half retires: its producer is stopped and its private slot returned (R246, R280). -/
def State.retireHalf (s : State) (team : Nat) : State :=
  let t := s.teamOf team
  let s :=
    if Map.has s.producers t.core && (s.prod t.core).team == team then (s.haltProgram t.core).freeProducer t.core else s
  (s.updTeam team (fun t => t.giveUp .retired)).updCtx t.ctx (fun c =>
    { c with privates := c.privates.filter (· != t.pslot) })

/-- TEAM_RETIRE: a team whose groups have all ended retires (R80). -/
def execTeamRetire (team : Nat) (s : State) : Res :=
  let t := s.teamOf team
  let hs := s.halves team
  if Map.has s.teams team && t.status == .resident && t.holds && hs.all s.teamDone then
    let s := hs.foldl (fun s h => s.retireHalf h) s
    let s := { s with launches := Map.alter s.launches t.launch (fun l => { l with retired := l.retired + 1 }) }
    .next (s.dropCluster t)
  else .next s

/-- LAUNCH_COMPLETE: every team has retired and every effect of the launch has been made; the done word receives 1 (R109). -/
def execLaunchComplete (launch : Nat) (s : State) : Res :=
  match Map.find s.launches launch with
  | none => .next s
  | some l =>
    if l.retired != l.record.teams || s.reqs.any (fun r => r.2.launch == launch && r.2.reply.isNone && !r.2.fetch) then .next s
    else
      let done := { s with launches := Map.erase s.launches launch }
      if l.record.done = 0 then .next done
      else
        let failed := (done.llrefuse l.ctx l.list l.slot 1).irq 1
        match done.agentRead l.ctx false l.record.done 8 with
        | .error .wait => .next s
        | .error _ => .next failed
        | .ok (b, s') =>
          match s'.agentWrites l.ctx false (lineWrites l.record.done (bytesOfNat 8 (natOfBytes b + 1))) with
          | .error .wait => .next s
          | .error _ => .next failed
          | .ok s' => .next s'

/-! ## Cores (R83, R103) -/

/-- A request to pre-empt a team pre-empts its whole cluster (R392): the deferral that counts for it is settled (R393), and a
group that is parked stops at once. -/
def State.requestStop (s : State) (team : Nat) : State :=
  (s.clusterOf team).foldl
    (fun s h =>
      s.updTeam h (fun t =>
        if t.request.isSome || t.ending.isSome || t.status != .resident then t
        else
          { t with
            request := some s.now
            groups := Map.mapVal t.groups (fun _ g =>
              let g :=
                if s.now < g.deferUntil then { g with deferred := true } else { g with deferred := false, deferUntil := 0 }
              if g.blocked then g.halt else g) }))
    s

/-- The save slots of a context that hold no image (R395). -/
def State.freeImages (s : State) (ctx : Nat) : List Nat :=
  let c := s.ctxOf ctx
  (List.range (field (c.sreg 0x448) 11 0)).filter (fun k => !Map.has c.images k)

/-- The teams of a team's cluster that still run (R392). -/
def State.running (s : State) (team : Nat) : List Nat :=
  (s.clusterOf team).filter (fun h => (s.teamOf h).holds && (s.teamOf h).ending.isNone)

/-- The images that a team's cluster needs: one for each team, its halves together. -/
def State.imagesNeeded (s : State) (team : Nat) : Nat := ((s.running team).filter (fun h => (s.teamOf h).half == 0)).length

/-- The images of a context that teams on cores are to be written to: of teams asked to stop, and of teams that halted or faulted. -/
def State.imagesDue (s : State) (ctx : Nat) (ended : Bool) : Nat :=
  (s.teams.filter (fun t =>
    t.2.ctx == ctx && t.2.half == 0 && t.2.holds && (if ended then t.2.ending.isSome else t.2.ending.isNone && t.2.request.isSome))).length

/-- Each running team of a cluster has a free slot beside those that other teams are to take: otherwise it is not pre-empted (R395). -/
def State.canSave (s : State) (team : Nat) : Bool :=
  let ctx := (s.teamOf team).ctx
  decide (s.imagesNeeded team + s.imagesDue ctx false + s.imagesDue ctx true ≤ (s.freeImages ctx).length)

/-- A team is asked to stop if there is a slot for its image (R392, R395). -/
def State.requestSave (s : State) (team : Nat) : State :=
  let t := s.teamOf team
  if t.request.isNone && t.ending.isNone && s.canSave team then s.requestStop team else s

/-- The teams of a core are asked to stop (R83). -/
def State.retireTeams (s : State) (core : Nat) : State :=
  ((s.teams.filter (fun t => t.2.core == core && t.2.holds)).map (·.1)).foldl (fun s t => s.requestSave t) s

/-- The owner retires a core (R83): nothing more is placed there, and its teams are stopped and placed elsewhere. -/
def State.retireCore (s : State) (core : Nat) : State :=
  if s.retired.getLsbD core || s.retiring.contains core then s
  else { s with retiring := s.retiring ++ [core] }.retireTeams core

/-- CRETIRE: a master's write of `cretire` (R83, R404). -/
def execCretire (core : BitVec 8) (s : State) : Res := .next (s.byOwner s.writer (·.retireCore core.toNat))

/-- CORE_RETIRE_EFFECT: once no team is on the core, its position is retired (R83); until then the teams there are asked to stop as save
slots become free for them (R395). The scratchpad that a retired or faulted team keeps for its cluster counts as being there (R80,
DESIGN CHOICE, log 49). -/
def execCoreRetireEffect (core : BitVec 8) (s : State) : Res :=
  let n := core.toNat
  if !s.retiring.contains n then .next s
  else if s.teams.any (fun t => t.2.core == n) then .next (s.retireTeams n)
  else .next { s with retired := s.retired ||| BitVec.ofNat 256 (2 ^ n), retiring := s.retiring.filter (· != n) }

end Sys2Proof.Machine
end

