-- ==== Sys2Proof/Machine/Locket.lean ====
section
/-!
DEFINITION. Sys2Proof/Machine/Locket.lean: Locket (R400 to R403): the range table, the rounds of a pre-copy, stop-and-copy, what a
receiver does with a message, and how a transfer ends.
-/

namespace Sys2Proof.Machine

/-- A range: machine base and granules. -/
structure Range where
  base : Nat
  count : Nat

/-- The context that Locket sends. -/
def State.lkCtx (s : State) : Nat := field (s.preg 0x840) 63 48

/-- A doubleword of the range table, which every reader finds at its home: a line in C is merged first (R293). -/
def State.lkWord (s : State) (a : Nat) : Option Nat :=
  match s.reach (alignDown 64 a) false with
  | .ok => some (s.seenWord a)
  | _ => none

/-- The home of a table entry makes a reader wait (R317). -/
def State.lkHeld (s : State) (j : Nat) : Bool :=
  s.reach (alignDown 64 (field (s.preg 0x841) 47 4 * 16 + 16 * j)) false == .wait

/-- The table cannot be read yet. -/
def State.lkTableHeld (s : State) : Bool := (List.range (field (s.preg 0x841) 59 48 + 1)).any s.lkHeld

/-- The line of a table entry is read. -/
def State.lkTouch (s : State) (j : Nat) : State :=
  let line := alignDown 64 (field (s.preg 0x841) 47 4 * 16 + 16 * j)
  if s.reach line false == .ok then (s.readLine line).2 else s

/-- Every line of the table is read. -/
def State.lkRead (s : State) : State := (List.range (field (s.preg 0x841) 59 48 + 1)).foldl State.lkTouch s

/-- Entry j of the range table: none where it cannot be read, breaks its layout or passes the installed frames. -/
def State.lkRange (s : State) (j : Nat) : Option Range :=
  let a := field (s.preg 0x841) 47 4 * 16 + 16 * j
  match s.lkWord a, s.lkWord (a + 8) with
  | some w0, some w1 =>
    let r : Range := ⟨4096 * bits w0 47 12, w1⟩
    if w0 % 4096 ≠ 0 ∨ 2 ^ 48 ≤ w0 ∨ 2 ^ 32 ≤ w1 ∨ s.frameEnd < r.base + 4096 * r.count then none else some r
  | _, _ => none

/-- The whole range table, entries 0 to `lkrng.n`. -/
def State.lkRanges (s : State) : Option (List Range) :=
  let l := (List.range (field (s.preg 0x841) 59 48 + 1)).map s.lkRange
  if l.all Option.isSome then some (l.filterMap id) else none

def State.updLocket (s : State) (f : Locket → Locket) : State := { s with locket := f s.locket }

/-- A transfer is under way at this end. -/
def Locket.active (l : Locket) : Bool := l.st == 1 || l.st == 2 || l.st == 3 || l.receives

/-- A transfer that has not reached its end stops with a status; its context runs again (R402). -/
def State.lkEnd (s : State) (st : Nat) : State :=
  let s := if s.locket.st = 3 then s.updCtx s.lkCtx (fun c => { c with stopped := false }) else s
  s.updLocket (fun l => { l with st := st, receives := false, out := [], stopping := false })

/-- What a message carries: a granule of a range, by range index, offset and source machine address; zeros for an image. -/
abbrev Parcel := Nat × Nat × Nat

/-- A message is sealed and sent (R403): its nonce is the session's salt and the next value of the counter, which is never used again,
and its associated data are the round, the parcel and the sequence number. -/
def State.lkSeal (s : State) (m : Parcel) : State :=
  let n := s.locket.counter
  let salt := Config.sessionSalt ((s.preg 0x843).extractLsb' 0 16)
  s.updLocket (fun l =>
    { l with counter := n + 1, out := l.out ++ [⟨salt ++ BitVec.ofNat 64 n, l.round, m.1, m.2.1, m.2.2, n⟩] })

/-- Messages are sent, and `lkbytes` counts their bytes. -/
def State.lkSend (s : State) (messages : List Parcel) (bytes : Nat) : State :=
  messages.foldl State.lkSeal (s.setPreg 0x845 (s.preg 0x845 + BitVec.ofNat 64 bytes))

/-- A round reads granules at their homes, which sets the frames' accessed bits (R321), and sends them. -/
def State.lkRound (s : State) (granules : List Parcel) : State :=
  let s := granules.foldl (fun s g => (s.recallGranule (g.2.2 / 4096)).touchFrame g.2.2) s
  (s.lkSend granules (4096 * granules.length)).updLocket (fun l => { l with sent := granules.length })

/-- Every granule of the ranges, in order. -/
def allGranules (rs : List Range) : List Parcel :=
  rs.zipIdx.flatMap (fun p => (List.range p.1.count).map (fun i => (p.2, i, p.1.base + 4096 * i)))

/-- The granules that the harvest finds, as `dharv` does (R288): their records are cleared and write ownership revoked. -/
def State.lkHarvest (s : State) (rs : List Range) : List Parcel × State :=
  (allGranules rs).foldl
    (fun acc g =>
      let n := g.2.2 / 4096
      if Map.get false acc.2.dirty n then
        let s := acc.2.recallGranule n
        (acc.1 ++ [g], { s with dirty := Map.erase s.dirty n })
      else acc)
    ([], s)

/-- The granules of the ranges that a harvest would find. -/
def State.lkDirty (s : State) (rs : List Range) : List Parcel := (allGranules rs).filter (fun g => Map.get false s.dirty (g.2.2 / 4096))

/-- What the controllers say to the lines of granules: a wait first, as of a frame that is to come back (R317, R323), then a refusal. -/
def State.lkReach (s : State) (granules : List Parcel) : Reach :=
  let all := granules.flatMap (fun g => (List.range 64).map (fun i => s.reach (g.2.2 + 64 * i) false))
  if all.contains .wait then .wait else (all.find? (· != .ok)).getD .ok

/-- Granules that the controllers deliver go on; for others a round waits, or ends the transfer as refused: a line that no access may read
cannot be sent (DESIGN CHOICE, log 37). -/
def State.lkWhen (s : State) (granules : List Parcel) (k : State) : State :=
  match s.lkReach granules with
  | .ok => k
  | .wait => s
  | _ => s.lkEnd 5

/-- The session that `lkpeer` names is attested with a peer (R403, R411). -/
def State.lkAttested (s : State) : Bool :=
  s.attested.any (fun a => a.session == some ((s.preg 0x843).extractLsb' 0 16))

/-- A range holds an in-bank row, or the context an in-bank session (R402). -/
def State.lkInBank (s : State) (rs : List Range) : Bool :=
  s.rowOwner.any (fun p => p.2 && rs.any (fun r => decide (r.base ≤ 1024 * p.1) && decide (1024 * p.1 < r.base + 4096 * r.count)))
    || s.sessions.any (fun x =>
        (Map.has s.teams x.team && (s.teamOf x.team).ctx == s.lkCtx)
          || (s.ctxOf s.lkCtx).images.any (fun i => !s.received.contains (s.lkCtx, i.1) && i.2.any (fun r => r.names x.team)))

/-- The next round of a pre-copy, once the table and the granules can be read: the first sends every granule of the ranges, a later one
what a harvest finds (R401). -/
def State.lkNext (s : State) : State :=
  if s.lkTableHeld then s
  else
    let s := s.lkRead
    match s.lkRanges with
    | none => s.lkEnd 5
    | some rs =>
      let next (s : State) : State := s.updLocket (fun l => { l with round := l.round + 1 })
      if s.locket.round = 0 then s.lkWhen (allGranules rs) ((next s).lkRound (allGranules rs))
      else
        let h := (next s).lkHarvest rs
        s.lkWhen (s.lkDirty rs) (h.2.lkRound h.1)

/-- Command 1: a pre-copy starts with round 1 (R401). -/
def State.lkPrecopy (s : State) : State :=
  if s.locket.st = 1 ∨ s.locket.st = 3 ∨ s.locket.receives then s
  else if !s.lkAttested then s.lkEnd 7
  else (s.updLocket (fun l => { l with st := 1, round := 0, sent := 0, out := [] })).lkNext

/-- LOCKET_PRECOPY: a master's write of command 1. -/
def execLocketPrecopy (s : State) : Res := .next (s.byOwner s.writer State.lkPrecopy)

/-! ## Image records (R396, R397) -/

/-- The record type that a body belongs to (R397). -/
def ImageBody.type : ImageBody → Option Nat
  | .header _ _ _ _ _ _ => some 1
  | .context _ _ _ _ => some 2
  | .notes _ => some 3
  | .team _ => some 0x10
  | .scratch _ _ => some 0x11
  | .tiles _ _ => some 0x12
  | .shapes _ => some 0x13
  | .buffers _ => some 0x14
  | .windows _ => some 0x15
  | .queues _ => some 0x16
  | .producer _ => some 0x17
  | .policies _ => some 0x18
  | .group _ _ => some 0x20
  | .vectors _ _ => some 0x21
  | .uniforms _ _ => some 0x22
  | .stats => some 0x30
  | .finish _ => some 0xFFFF
  | .other => none

/-- The length of a record's body in an image of `n` records: R397 gives that of the end record; every other layout is free, within what
a slot of 4 MiB holds (DESIGN CHOICE, log 12). -/
def recordLen (n type : Nat) : Nat := if type = 0xFFFF then 8 else 8 * (Config.recordLen type n % (524288 / n - 1))

/-- A record of a WZ-4256 in an image of `n` records (R396). -/
def imageRec (n : Nat) (body : ImageBody) : ImageRec :=
  let type := body.type.getD 0
  ⟨type, 1, type == 0x30, recordLen n type, body⟩

/-- The magic of an image header (R397). -/
def imageMagic : Nat := 0x5A484C54

/-- The bytes of an image. -/
def imageSize (rs : List ImageRec) : Nat := rs.foldl (fun n r => n + 8 + r.len) 0

/-- The context's own image (R402): the records of R397 that are the context's, and no team. -/
def Ctx.ownImage (c : Ctx) (tag : Option Tag) : List ImageRec :=
  [.header imageMagic Config.partNumber.toNat 0 0 3 0, .context c.owner c.sregs c.policy tag, .notes c.notes, .finish 3].map (imageRec 4)

/-- The bytes of a context's images, of its teams and its own. -/
def Ctx.imageBytes (c : Ctx) (tag : Option Tag) : Nat := c.images.foldl (fun n i => n + imageSize i.2) (imageSize (c.ownImage tag))

/-! ## Rounds and commands -/


/-- Once every team of the context that is stopping has been saved, the last harvest is sent, then each image and the context's
own (R402). -/
def State.lkFinish (s : State) : State :=
  let ctx := s.lkCtx
  if !s.locket.stopping || s.teams.any (fun t => t.2.ctx == ctx && t.2.holds) || s.lkTableHeld then s
  else
    let s := s.lkRead
    match s.lkRanges with
    | none => s.lkEnd 5
    | some rs =>
      if s.lkInBank rs then s.lkEnd 5
      else
        let h := s.lkHarvest rs
        let c := h.2.ctxOf ctx
        s.lkWhen (s.lkDirty rs)
          (((h.2.lkRound h.1).lkSend (List.replicate (c.images.length + 1) (0, 0, 0)) (c.imageBytes (h.2.view.map (·.2)))).updLocket
            (fun l => { l with stopping := false }))

/-- The teams of the context that is stopping are asked to stop, each once there is a slot for its image (R395, R402). -/
def State.lkStopTeams (s : State) : State :=
  let ctx := s.lkCtx
  ((s.teams.filter (fun t => t.2.ctx == ctx && t.2.holds)).foldl (fun s t => s.requestSave t.1) s).lkFinish

/-- PRE_COPY_ROUND_END: the rounds end after a small round or the last one; else the next round is sent, once it can be read (R401). A
stop-and-copy whose teams found no slots asks them again (R395). -/
def execPreCopyRoundEnd (s : State) : Res :=
  let l := s.locket
  if l.st = 3 ∧ l.stopping then .next s.lkStopTeams
  else if l.st ≠ 1 then .next s
  else if l.round ≠ 0 ∧ (l.sent ≤ field (s.preg 0x842) 31 0 ∨ field (s.preg 0x840) 7 4 ≤ l.round) then
    .next (s.updLocket (fun l => { l with st := 2 }))
  else .next s.lkNext

/-- Command 2: every team of the context is pre-empted and its launch lists stop (R402). A table that is to come back is read once they
have (R317). -/
def State.lkStop (s : State) : State :=
  if s.locket.st = 1 ∨ s.locket.st = 3 ∨ s.locket.receives then s
  else if !s.lkAttested then s.lkEnd 7
  else
    let stop (s : State) : State :=
      ((s.updCtx s.lkCtx (fun c => { c with stopped := true })).updLocket (fun l => { l with st := 3, stopping := true })).lkStopTeams
    if s.lkTableHeld then stop s
    else
      let s := s.lkRead
      match s.lkRanges with
      | none => s.lkEnd 5
      | some rs => if s.lkInBank rs then s.lkEnd 5 else stop s

/-- LOCKET_STOP_AND_COPY: a master's write of command 2. -/
def execLocketStopAndCopy (s : State) : Res := .next (s.byOwner s.writer State.lkStop)

/-- Command 3. -/
def State.lkAbort (s : State) : State := if s.locket.active then s.lkEnd 8 else s

/-- LOCKET_ABORT: a master's write of command 3. -/
def execLocketAbort (s : State) : Res := .next (s.byOwner s.writer State.lkAbort)

/-- Command 4: this end receives. -/
def State.lkReceive (s : State) : State :=
  if s.locket.st = 1 ∨ s.locket.st = 3 then s
  else if !s.lkAttested then s.lkEnd 7
  else s.updLocket (fun l => { l with st := 0, receives := true, out := [], got := [] })

/-- LOCKET_RECEIVE: a master's write of command 4. -/
def execLocketReceive (s : State) : Res := .next (s.byOwner s.writer State.lkReceive)

/-- The lines of a granule written at their homes, or none of them where one cannot be written (R403). -/
def State.lkWrite (s : State) (m : Nat) (bytes : List Byte) : Option State :=
  if (List.range 64).all (fun i => s.reach (m + 64 * i) true == .ok) then
    some ((List.range 64).foldl
      (fun s i => s.homeWrite (m + 64 * i) 0 ((List.range 64).map (fun k => (k, bytes.getD (64 * i + k) 0)))) s)
  else none

/-- A home that holds a line of a granule makes the message wait, and the transport sends it again. -/
def State.lkWaits (s : State) (m : Nat) : Bool := (List.range 64).any (fun i => s.reach (m + 64 * i) true == .wait)

/-- LOCKET_MESSAGE: at a receiver, a granule goes to its place in the receiver's own table; one that the table has not is refused,
and a tag that does not match ends the transfer with nothing written (R400, R403). Where a later round's data is there already, it
remains; the sequence number and the source address are authenticated and used for nothing else. -/
def execLocketMessage (_seq : Nat) (body : LocketBody) (s : State) : Res :=
  if !s.locket.receives then .next s
  else
    match body with
    | .badTag => .next (s.lkEnd 7)
    | .image _ => .next s
    | .granule round j off _ bytes =>
      if field (s.preg 0x841) 59 48 < j then .next (s.lkEnd 5)
      else
      match s.lkRange j with
      | none => .next (if s.lkHeld j then s else s.lkEnd 5)
      | some r =>
        let key := 4294967296 * j + off
        if r.count ≤ off then .next (s.lkEnd 5)
        else if round < Map.get 0 s.locket.got key then .next (s.lkTouch j)
        else
          let m := r.base + 4096 * off
          if s.lkWaits m then .next s
          else
            match (s.lkTouch j).lkWrite m bytes with
            | some s => .next (s.updLocket (fun l => { l with got := Map.put l.got key round }))
            | none => .next (s.lkEnd 5)

/-- LOCKET_ACKNOWLEDGEMENT: 0 acknowledges a message, and after the last one of a stop-and-copy the status is 4; 5 and 7 are the
other end's refusals (R400, R402, R403). -/
def execLocketAcknowledgement (status : Nat) (s : State) : Res :=
  let l := s.locket
  if l.st ≠ 1 ∧ l.st ≠ 2 ∧ l.st ≠ 3 then .next s
  else if status = 5 ∨ status = 7 then .next (s.lkEnd status)
  else if status ≠ 0 then .next s
  else
    let rest := l.out.tail
    .next (s.updLocket (fun l => { l with out := rest, st := if l.st = 3 && !l.stopping && rest.isEmpty then 4 else l.st }))

/-- SCALE_OUT_LINK_FAILURE: status 6 (R400). -/
def execScaleOutLinkFailure (s : State) : Res := .next (if s.locket.active then s.lkEnd 6 else s)

end Sys2Proof.Machine
end

