-- ==== Sys2Proof/Machine/Preempt.lean ====
section
/-!
DEFINITION. Sys2Proof/Machine/Preempt.lean: pre-emption (R392, R393), the drain before a save (R394), the writing of context
images (R395 to R397), what a reader accepts (R398), and restoration (R399).
-/

namespace Sys2Proof.Machine

/-! ## Requests and stops (R392, R393) -/

/-- PREEMPT_REQUEST: a team, and with it its cluster, is to be pre-empted; one without free slots is not (R392, R395). -/
def execPreemptRequest (team : Nat) (s : State) : Res :=
  let t := s.teamOf team
  .next (if Map.has s.teams team && t.status == .resident && t.ending.isNone && s.canSave team then s.requestStop team else s)

/-- FORCED_STOP: a group that has reached no safe point in time stops at its next slot boundary (R392, R393). -/
def execForcedStop (team group : Nat) (s : State) : Res :=
  let g := s.groupAt team group
  let mid := g.frags.any (fun f => !f.2.sent.isEmpty)
  .next (if Map.has s.teams team && Map.has (s.teamOf team).groups group && s.forceDue team g && !mid then s.stopGroup team group
    else s)

/-- `pdefer` (R393): before a request the latest one counts while it lasts; after a request the first one. -/
def execPdefer (s : State) : Res :=
  .next (s.slot .pdefer {} (fun s =>
    let n := (s.cur.body.extractLsb' 0 13).toNat
    let counts := s.ct.request.isNone || !s.cg.deferred
    let s := if counts then s.setG (fun g => { g with deferUntil := s.now + n, deferred := s.ct.request.isSome }) else s
    s.retire []))

/-- `halt`: the whole team stops at an implicit safe point, and its image is to be written as halted (R390). -/
def execHalt (s : State) : Res :=
  .next (s.slot .halt {} (fun s => (s.retire []).endTeam s.cur.ref.team 1 0))

/-! ## The drain (R394) -/

/-- The group has stopped, or has nothing left to stop. -/
def Group.stopped (g : Group) : Bool := g.stop.isSome || g.frags.isEmpty

/-- The teams whose images are written with a team's: the halves of a halted or faulted one, else those of its cluster. -/
def State.savedWith (s : State) (team : Nat) : List Nat :=
  if (s.teamOf team).ending.isSome then s.halves team else s.running team

/-- Everything that a team issued is complete (R394, 1 to 3). -/
def State.settled (s : State) (team : Nat) : Bool :=
  let t := s.teamOf team
  t.groups.all (fun g => g.2.stopped && g.2.inflight.isEmpty && g.2.frags.all (fun f => f.2.sent.isEmpty) && s.remoteDone team g.1)
    && t.landings.isEmpty && t.entryWait.all (fun w => w.2.isNone)

/-- The copies and collectives of a team's cluster have drained (R394, 4). -/
def State.copiesDone (s : State) (team : Nat) : Bool :=
  let c := s.clusterOf team
  !s.copies.any (fun x => c.contains x.2.team) && !s.colls.any (fun x => c.contains x.2.team)

/-- The producer program of a team stops at a word boundary, in a state in which it can go on (R260, R394, 5). -/
def State.stopProducer (s : State) (team : Nat) : State :=
  let core := (s.teamOf team).core
  if Map.has s.producers core && (s.prod core).team == team then
    let s := if s.pushServed.contains core && (s.prod core).busy then s.pushDone core else s.withdrawPush core
    let s := s.endAsked core 0
    let s := if (s.prod core).busy then s.updProd core (fun p => { p with state := 2, why := 0 }) else s
    (s.settleTable core false).settleTable core true
  else s

/-- A table load of a team's producer is still in flight. -/
def State.producerLoads (s : State) (team : Nat) : Bool :=
  let core := (s.teamOf team).core
  Map.has s.producers core && (s.prod core).team == team && (s.prod core).loading

/-- The driver is interrupted for a halted or faulted team, once (R390, R395). -/
def State.tell (s : State) (team : Nat) : State :=
  if (s.teamOf team).told then s
  else ((s.halves team).foldl (fun s h => s.updTeam h (fun t => { t with told := true })) s).irq 3

/-- TEAM_DRAIN: the teams to be saved together have stopped, and everything they issued is complete; a halted or faulted one
that finds no free slot stays on its cores, and the driver is interrupted at once (R394, R395). -/
def execTeamDrain (team : Nat) (s : State) : Res :=
  let t := s.teamOf team
  let c := s.savedWith team
  if !Map.has s.teams team || !t.holds || t.drained || (t.ending.isNone && t.request.isNone) || !c.all s.settled
      || !s.copiesDone team then .next s
  else
    let s' := c.foldl (fun s h => s.stopProducer h) s
    if c.any s'.producerLoads then .next s
    else
      let s' := c.foldl
        (fun s h =>
          s.updTeam h (fun t => { t with drained := true, status := if t.status == .resident then .stopped else t.status })) s'
      .next (if t.ending.isSome && decide ((s'.freeImages t.ctx).length ≤ s'.imagesDue t.ctx false) then s'.tell team else s')

/-! ## Writing an image (R63, R190, R397) -/

/-- The live word of an explicit stop. -/
def Group.liveWord (g : Group) : Option (BitVec 88) := match g.stop with | some (.explicit w) => some w | _ => none

/-- Every group that has stopped did so at an explicit safe point: their live words decide what of the team is saved. -/
def liveWords (gs : List Group) : Option (List (BitVec 88)) :=
  let on := gs.filter (fun g => !g.frags.isEmpty)
  if on.isEmpty || on.any (fun g => g.liveWord.isNone) then none else some (on.filterMap (·.liveWord))

/-- A fragment as it is saved: an instruction that issues again is no longer parked (R244, R433); one that waits after its effect
still is. A launch entry whose slot has not issued keeps its check of R47, and a worker, or a `wlquiet` that waits, stays with the die
whose unit it joined, wherever its team runs next (DESIGN CHOICE, log 50). -/
def Frag.kept (f : Frag) : Frag :=
  let f := { f with line := none, refetch := false, counted := uncounted, ready := none }
  match f.park with
  | some (.again (.fence _ _)) | some (.again (.batch (some _))) => f
  | some (.lines _ _) | some (.queue _ _) | some (.again _) | some .opener | some .bankFence | some .bankTurn | some (.joining _) =>
    { f with park := none, later := [], sp := false }
  | _ => f

/-- A group as it is saved. -/
def Group.save (g : Group) : Group :=
  { g with k := [], stop := none, deferred := false, frags := Map.mapVal g.frags (fun _ f => f.kept) }

/-- What a group's live word does not mark is zero, and unmarked masks are the lanes owned (R63). -/
def Group.prune (g : Group) : Group :=
  match g.liveWord with
  | none => g
  | some w =>
    { g with
      v := g.v.filter (fun x => w.getLsbD (56 + x.1 / 64 / 8))
      s := g.s.filter (fun x => w.getLsbD (40 + x.1 / 4))
      p := g.p.filter (fun x => w.getLsbD (32 + x.1))
      frags := if w.getLsbD 39 then g.frags else Map.mapVal g.frags (fun _ f => { f with em := f.om }) }

/-- The units of tile storage that live words mark (R190). -/
def Team.liveUnits (t : Team) (ws : List (BitVec 88)) : List Nat :=
  ((List.range 16).map (fun k =>
    let x := t.tile (BitVec.ofNat 4 k)
    if x.en && ws.any (fun w => w.getLsbD k) then x.units else [])).flatten

/-- A team as it is saved, where its live words decide or none does (R63, R190, R208): a unit that is not saved reads as zeros afterwards,
also one that had failed its check. -/
def Team.save (t : Team) (live : Option (List (BitVec 88))) : Team :=
  let t := { t with
    groups := Map.mapVal t.groups (fun _ g => g.prune.save), status := .resident, ending := none, request := none
    entryWait := [], granted := [], drained := false, told := false }
  match live with
  | none => t
  | some ws =>
    let units := t.liveUnits ws
    { t with
      q := t.q.filter (fun x => ws.any (fun w => w.getLsbD (16 + x.1)))
      tiles := t.tiles.filter (fun x => units.contains (x.1 / 4096))
      badUnits := t.badUnits.filter units.contains }

/-- The bodies of a group's records (R397). -/
def Group.bodies (n : Nat) (live : BitVec 32) (g : Group) : List ImageBody :=
  [.group n { g with v := [], s := [], p := [] }, .vectors live g.v, .uniforms g.s g.p]

/-- The vector registers that a group's live word marks. -/
def Group.liveVectors (g : Group) : BitVec 32 := match g.liveWord with | none => 0xFFFFFFFF | some w => w.extractLsb' 56 32

/-- The records of a team, its halves in order (R397). -/
def State.image (s : State) (ids : List Nat) (status : Nat) (cause : BitVec 9) : List ImageRec :=
  let raw := ids.map s.teamOf
  let live := liveWords (raw.map (fun t => t.groups.map (·.2))).flatten
  let ts := raw.map (·.save live)
  let ctx := (raw.headD nullTeam).ctx
  let c := s.ctxOf ctx
  let each (f : Team → ImageBody) : List ImageBody := ts.map f
  let body :=
    [.context c.owner c.sregs c.policy (s.view.map (·.2)), .notes c.notes]
    ++ each (fun t => .team { t with
        sp := [], absent := [], tiles := [], mc := [], ts := [], bf := [], win := [], q := [], cvpol := [], groups := [] })
    ++ each (fun t => .scratch t.sp t.absent)
    ++ each (fun t => .tiles t.tiles t.mc)
    ++ each (fun t => .shapes t.ts)
    ++ each (fun t => .buffers t.bf)
    ++ each (fun t => .windows t.win)
    ++ each (fun t => .queues t.q)
    ++ ids.map (fun h =>
        let t := s.teamOf h
        .producer (if Map.has s.producers t.core && (s.prod t.core).team == h then some (s.prod t.core) else none))
    ++ each (fun t => .policies t.cvpol)
    ++ (raw.zip ts).flatMap (fun p =>
        (p.1.groups.zip p.2.groups).flatMap (fun g => g.2.2.bodies g.1.1 g.1.2.liveVectors))
    ++ [.stats]
  let n := body.length + 1
  (ImageBody.header imageMagic Config.partNumber.toNat status cause n (ids.headD 0) :: (body ++ [ImageBody.finish n])).map (imageRec (n + 1))

/-- The header of a record (R396). -/
def ImageRec.header (r : ImageRec) : DWord :=
  BitVec.ofNat 32 r.len ++ (0 : BitVec 7) ++ BitVec.ofBool r.skip ++ BitVec.ofNat 8 r.ver ++ BitVec.ofNat 16 r.type

/-- The bytes of a record, at a place in its image: R397 gives the end record's body and the header's magic, put first, and no layout of
anything else, whose bytes are free (DESIGN CHOICE, log 12). -/
def ImageRec.stored (tick place : Nat) (r : ImageRec) : List Byte :=
  let free := (List.range r.len).map (Config.imageByte tick place)
  bytesOfNat 8 r.header.toNat ++
    (match r.body with
    | .finish n => bytesOfNat 8 n
    | .header magic _ _ _ _ _ => (bytesOfNat 4 magic ++ free.drop 4).take r.len
    | _ => free)

/-- An image as bytes of its slot, which is 4 MiB. -/
def imageBytes (tick : Nat) (rs : List ImageRec) : List Byte :=
  ((rs.zipIdx.map (fun p => p.1.stored tick p.2)).flatten).take 4194304

/-- The virtual address of a save slot (R395). -/
def State.slotBase (s : State) (ctx slot : Nat) : Nat := ((s.ctxOf ctx).sreg 0x448 &&& 0x01FFFFFFFFC00000).toNat + 4194304 * slot

/-- Writes of lines by the package's own firmware; a line that cannot be written is left out (DESIGN CHOICE, log 12). -/
def State.writeLines (s : State) (ctx : Nat) (l : List (Nat × List Byte)) : State :=
  l.foldl (fun s w => match s.agentWrite ctx false w.1 w.2 with | .ok s => s | .error _ => s) s

/-- An image is written to its slot (R395). -/
def State.storeImage (s : State) (ctx slot : Nat) (rs : List ImageRec) : State :=
  let t := s.writeLines ctx (lineWrites (s.slotBase ctx slot) (imageBytes s.tick rs))
  { t with tick := s.tick + 1, teams := s.teams, ctxs := s.ctxs, waiting := s.waiting, locket := s.locket }

/-- A queue without the requests of a team. -/
def Queue.without (team : Nat) (q : Queue) : Queue :=
  let mine (r : QReq) : Bool := match r.who with | some w => w.team == team | none => false
  let first := match q.first with | some (r, _) => if r.team = team then none else q.first | none => none
  { q with pushers := q.pushers.filter (!mine ·), poppers := q.poppers.filter (!mine ·), first := first }

/-- The waits of a team's fragments that issue again leave the places where they waited. -/
def State.withdraw (s : State) (team : Nat) : State :=
  let qs (m : Map Queue) : Map Queue := Map.mapVal m (fun _ q => q.without team)
  let body (b : ImageBody) : ImageBody := match b with | .queues m => .queues (qs m) | b => b
  let kept (op : BankOp) : Bool := match op with | .read r _ _ _ => r.team != team | .fin r => r.team != team | _ => true
  { s with
    reqs := s.reqs.filter (fun r => !(r.2.fetch && r.2.ref.team == team))
    teams := Map.mapVal s.teams (fun _ t => { t with q := qs t.q })
    ctxs := Map.mapVal s.ctxs (fun _ c =>
      { c with images := Map.mapVal c.images (fun _ rs => rs.map (fun r => { r with body := body r.body })) })
    openers := s.openers.filter (fun x => x.ref.team != team)
    bankFences := s.bankFences.filter (fun x => x.ref.team != team)
    sessions := s.sessions.map (fun x => { x with queue := x.queue.filter kept }) }

/-- One team leaves its cores for a save slot, both halves in one image: a faulted one leaves its scratchpad, queues and clasps
frozen (R220), any other leaves nothing. -/
def State.saveTeam (s : State) (team : Nat) : State :=
  let ids := if (s.teamOf team).half = 1 then (s.halves team).reverse else s.halves team
  let s := ids.foldl (fun s h => s.withdraw h) s
  let t := s.teamOf team
  let e := t.ending.getD (0, 0)
  let k := pickRoom s.tick (s.freeImages t.ctx)
  let rs := s.image ids e.1 e.2
  let s := s.updCtx t.ctx (fun c => { c with images := Map.put c.images k rs })
  let s := { s with received := s.received.filter (· != (t.ctx, k)) }
  let s := if e.1 = 0 then { s with waiting := (t.ctx, k) :: s.waiting } else s.tell team
  let out (s : State) (h : Nat) : State :=
    let x := s.teamOf h
    let s := if Map.has s.producers x.core && (s.prod x.core).team == h then s.freeProducer x.core else s
    if e.1 = 2 then s.updTeam h (fun t => t.giveUp .frozen) else { s with teams := Map.erase s.teams h }
  (ids.foldl out s).storeImage t.ctx k rs

/-- IMAGE_WRITE: a drained team is saved to a free slot, once the copies that teams of its cluster issued meanwhile have drained too (R244);
the running teams of a cluster are saved together (R392, R395). A halted or
faulted team takes the first slot that is free beside those of teams asked to stop, each of which had one when it was asked. The last
team of a context that Locket stops lets its final round start (R402). -/
def execImageWrite (team : Nat) (s : State) : Res :=
  let t := s.teamOf team
  let c := s.savedWith team
  let firsts := c.filter (fun h => (s.teamOf h).half == 0)
  let others := if t.ending.isSome then s.imagesDue t.ctx false else 0
  if Map.has s.teams team && t.holds && c.all (fun h => (s.teamOf h).drained && (s.teamOf h).landings.isEmpty) && s.copiesDone team
      && decide (firsts.length + others ≤ (s.freeImages t.ctx).length) then .next (firsts.foldl (fun s h => s.saveTeam h) s).lkFinish
  else .next s

/-! ## Reading an image (R398) -/

/-- A record that this package knows: a type of R397 at version 1. -/
def ImageRec.known (r : ImageRec) : Bool := r.ver == 1 && r.body.type == some r.type

/-- A header of an image: it is known and holds the magic. -/
def ImageRec.isHeader (r : ImageRec) : Bool :=
  r.known && (match r.body with | .header magic _ _ _ _ _ => magic == imageMagic | _ => false)

/-- A reader accepts the image (R398): the header first, every record known or skippable, known ones of the length of their layout, no
length past the slot, and the right count in the end record. -/
def imageOk (rs : List ImageRec) : Bool :=
  (match rs.head? with | some r => r.isHeader | none => false)
    && rs.all (fun r => r.known || r.skip)
    && rs.all (fun r => !r.known || r.len == recordLen rs.length r.type)
    && decide (rs.foldl (fun n r => n + 8 + r.len) 0 ≤ 4194304)
    && (match rs.getLast? with | some ⟨0xFFFF, 1, _, _, .finish n⟩ => decide (n + 1 = rs.length) | _ => false)

/-- The header of an image: its status and its team's number. -/
def imageHead (rs : List ImageRec) : Option (Nat × Nat) :=
  rs.findSome? (fun r => match r.body with | .header _ _ st _ _ id => if r.known then some (st, id) else none | _ => none)

/-- A body as a known record holds it. -/
def imageBodies (rs : List ImageRec) : List ImageBody := (rs.filter (·.known)).map (·.body)

/-- The groups of an image: each takes the registers that follow it. -/
def imageGroups (bs : List ImageBody) : Map Group :=
  bs.foldl
    (fun m b =>
      match b with
      | .group n g => Map.put m n g
      | .vectors _ v => match m.getLast? with | some (n, g) => Map.put m n { g with v := v } | none => m
      | .uniforms u p => match m.getLast? with | some (n, g) => Map.put m n { g with s := u, p := p } | none => m
      | _ => m)
    []

/-- The teams of an image: one, or the two halves of a paired one, with everything but their groups. -/
def imageTeams (bs : List ImageBody) : List Team :=
  let pick {α : Type} (f : ImageBody → Option α) : List α := bs.filterMap f
  let sp := pick (fun b => match b with | .scratch x y => some (x, y) | _ => none)
  let ti := pick (fun b => match b with | .tiles x y => some (x, y) | _ => none)
  let sh := pick (fun b => match b with | .shapes x => some x | _ => none)
  let bu := pick (fun b => match b with | .buffers x => some x | _ => none)
  let wi := pick (fun b => match b with | .windows x => some x | _ => none)
  let qu := pick (fun b => match b with | .queues x => some x | _ => none)
  let po := pick (fun b => match b with | .policies x => some x | _ => none)
  (pick (fun b => match b with | .team t => some t | _ => none)).zipIdx.map (fun p =>
    let i := p.2
    { p.1 with
      sp := (sp.getD i ([], [])).1, absent := (sp.getD i ([], [])).2, tiles := (ti.getD i ([], [])).1
      mc := (ti.getD i ([], [])).2, ts := sh.getD i [], bf := bu.getD i [], win := wi.getD i [], q := qu.getD i []
      cvpol := po.getD i [] })

/-- The producers of an image's teams. -/
def imageProducers (bs : List ImageBody) : List (Option Producer) :=
  bs.filterMap (fun b => match b with | .producer p => some p | _ => none)

/-! ## Restoration (R395, R399) -/

/-- The driver resumes the team in a slot: one that is halted or faulted, or one that was received, which does not wait to be
placed already; whether its image is accepted is seen when it is read (R398). -/
def State.resume (s : State) (ctx slot : Nat) : State :=
  let c := s.ctxOf ctx
  match Map.find c.images slot with
  | none => s
  | some _ =>
    if slot < field (c.sreg 0x448) 11 0 && !s.waiting.contains (ctx, slot) then
      { s with waiting := s.waiting ++ [(ctx, slot)] }
    else s

/-- CTXRES: the driver's write of `ctxres` (R395), which only the owner's may make (R404). -/
def execCtxres (ctx : Nat) (value : DWord) (s : State) : Res := .next (s.byOwner s.writer (·.resume ctx (field value 11 0)))

/-- What a half with its groups asks of a core. -/
def Team.ask (t : Team) (gs : Map Group) : Room :=
  ⟨1, (gs.filter (fun g => !g.2.over)).length, t.entries, gs.length * t.width * 8 * t.vblocks, t.tileUnits, t.spSize, t.copyq, t.slots⟩

/-- The groups of a half. -/
def Team.share (t : Team) (m : Map Group) : Map Group :=
  let first := if t.pair then (t.groupCount + 1) / 2 else t.groupCount
  m.filter (fun g => decide (first ≤ g.1) == (t.half == 1))

/-- A half with its groups may be placed on a core (R106, R260, R399). -/
def State.seatOk (s : State) (core : Nat) (t : Team) (gs : Map Group) (prod : Bool) : Bool :=
  s.open core && t.launchRec.permits (core / 64) && ((s.used core).add (t.ask gs)).fits
    && (!prod || !Map.has s.producers core) && (t.spSize == 0 || (s.flushStop core).isNone)

/-- The origin of a cluster and its seats, laid out so that a rank's first core is `core`. -/
def seatOf (pair odd : Bool) (core rank ranks : Nat) : Option (Nat × List Seat) :=
  let off := rank / 4 * 8 + (if pair then 2 * (rank % 4) else rank % 4)
  if core < off then none
  else
    match seatsOf pair odd (core - off) ranks with
    | none => none
    | some l => if l.any (fun x => x.rank == rank && x.half == 0 && x.core == core) then some (core - off, l) else none

/-- A restored group: its root fragment takes a new stamp (R99). -/
def State.wakeGroup (s : State) (core n slot : Nat) (g : Group) : Group × State :=
  let st := s.newStamp core
  ({ g with slot := slot, frags := Map.alter g.frags n (fun f => { f with stamp := st.1 }) }, st.2)

/-- The groups of a restored half take free slots, but for those that have given theirs up (R92). -/
def State.wakeGroups (s : State) (core : Nat) : Map Group → List Nat → Map Group × State
  | [], _ => ([], s)
  | (n, g) :: rest, slots =>
    if g.over then
      let y := s.wakeGroups core rest slots
      ((n, g) :: y.1, y.2)
    else
      let x := s.wakeGroup core n (slots.headD 0) g
      let y := x.2.wakeGroups core rest slots.tail
      ((n, x.1) :: y.1, y.2)

/-- One half is placed on a core under a number; its producer's program goes on in its saved state, and an abandoned table load starts again
where the program runs (R253, R260). -/
def State.placeSaved (s : State) (core id : Nat) (partner : Option Nat) (t : Team) (gs : Map Group) (p : Option Producer) : State :=
  let free := (List.range 48).filter (fun n => !(s.slotsUsed core).contains n)
  let w := s.wakeGroups core gs (pickRooms s.tick free (gs.filter (fun g => !g.2.over)).length)
  let s := if t.spSize = 0 then w.2 else w.2.yieldL1 core
  let s := { s with
    teams := Map.put s.teams id { t with core := core, partner := partner, groups := w.1 }
    nextTeam := Nat.max s.nextTeam (id + 1)
    tick := s.tick + 1 }
  let s := s.updCtx t.ctx (fun c => if c.privates.contains t.pslot then c else { c with privates := c.privates ++ [t.pslot] })
  match p with
  | none => s
  | some p =>
    let p := if p.busy then { p with tb0 := p.tb0.restart, tb1 := p.tb1.restart } else p
    { s with producers := Map.put s.producers core { p with team := id, asked := [] } }

/-- A saved team that waits: its slot, number, halves and producers. -/
structure Saved where
  slot : Nat
  status : Nat
  id : Nat
  halves : List (Team × Map Group)
  producers : List (Option Producer)

/-- What a slot's image holds. -/
def Saved.of (slot : Nat) (rs : List ImageRec) : Option Saved :=
  match imageHead rs with
  | none => none
  | some (st, id) =>
    let bs := imageBodies rs
    let gs := imageGroups bs
    some ⟨slot, st, id, (imageTeams bs).map (fun t => (t, t.share gs)), imageProducers bs⟩

def Saved.first (x : Saved) : Team := match x.halves with | p :: _ => p.1 | [] => nullTeam

/-- The images of a context that wait to be placed. -/
def State.waits (s : State) (ctx : Nat) : List Saved :=
  s.waiting.filterMap (fun w =>
    if w.1 = ctx then
      match Map.find (s.ctxOf ctx).images w.2 with
      | some rs => if imageOk rs then Saved.of w.2 rs else none
      | none => none
    else none)

/-- The team keeps its own number, under which its in-bank sessions are (R340): it was saved here, and no other team has the number. A team that
came from outside the package is given a new one. -/
def State.keepsNumber (s : State) (x : Saved) : Bool :=
  let t := s.teamOf x.id
  !s.received.contains (x.first.ctx, x.slot) &&
    !(Map.has s.teams x.id && (t.holds || !(t.launch == x.first.launch && t.index == x.first.index)))

/-- The number of a saved team's odd half. -/
def Saved.oddId (x : Saved) : Nat := x.first.partner.getD (x.id + 1)

/-- The numbers of the teams that are restored together, as saved and as placed: their own, or fresh ones from `next` on. -/
def State.renumber (s : State) : List Saved → Nat → List (Nat × Nat)
  | [], _ => []
  | x :: xs, next =>
    let odd (n : Nat) : List (Nat × Nat) := if x.halves.length = 2 then [(x.oddId, n)] else []
    if s.keepsNumber x then (x.id, x.id) :: odd x.oddId ++ s.renumber xs next
    else (x.id, next) :: odd (next + 1) ++ s.renumber xs (next + 2)

/-- A number as it is placed. -/
def placedAs (ren : List (Nat × Nat)) (n : Nat) : Nat := match ren.find? (·.1 == n) with | some p => p.2 | none => n

/-- A wait names a team of its cluster by the number that the team has now (R219). -/
def Park.renumber (ren : List (Nat × Nat)) : Park → Park
  | .lines t l => .lines (placedAs ren t) l
  | .queue t q => .queue (placedAs ren t) q
  | .clasp t a par => .clasp (placedAs ren t) a par
  | p => p

def Group.renumber (ren : List (Nat × Nat)) (g : Group) : Group :=
  { g with frags := Map.mapVal g.frags (fun _ f => { f with park := f.park.map (·.renumber ren) }) }

/-- A saved team is placed on the seats of its rank. -/
def State.restoreTeam (s : State) (ctx : Nat) (seats : List Seat) (ren : List (Nat × Nat)) (x : Saved) : State :=
  let id := placedAs ren x.id
  let id1 := placedAs ren x.oddId
  let one (s : State) (p : (Team × Map Group) × Option Producer) : State :=
    let t := p.1.1
    let me := if t.half = 1 then id1 else id
    let other : Option Nat := if x.halves.length = 2 then some (if t.half = 1 then id else id1) else none
    match seats.find? (fun q => q.rank == t.rank && q.half == t.half) with
    | none => s
    | some q => s.placeSaved q.core me other t (Map.mapVal p.1.2 (fun _ g => g.renumber ren)) p.2
  let s := (x.halves.zip (x.producers ++ List.replicate 2 none)).foldl one s
  { s.updCtx ctx (fun c => { c with images := Map.erase c.images x.slot }) with
    received := s.received.filter (· != (ctx, x.slot)) }

/-- The dies that a cluster's sessions bind it to (R394). -/
def State.sessionDies (s : State) (ids : List Nat) : List Nat :=
  (s.sessions.filter (fun x => ids.contains x.team)).map (·.die)

/-- Restored waiters look at their clasps' phases again (R219). -/
def State.lookAgain (s : State) (teams : List Nat) : State :=
  let waits (r : FragRef) (f : Frag) : Bool :=
    teams.contains r.team && match f.park with | some (.clasp t a par) => ((s.teamOf t).clasp a).phase != par | _ => false
  let refs := s.teams.flatMap (fun t => t.2.groups.flatMap (fun g => g.2.frags.filterMap (fun f =>
    let r : FragRef := ⟨t.1, g.1, f.1⟩
    if waits r f.2 then some r else none)))
  refs.foldl (fun s r => s.wake r) s

/-- What placing a saved team with its first core at `core`, and with it the pre-empted teams of its cluster that wait too, would make of
the package, with the seats it takes; none where there is no room, or the cluster may not start there (R75, R106, R394, R399). -/
def State.restored (s : State) (ctx : Nat) (x : Saved) (core : Nat) : Option (List Seat × State) :=
  let t := x.first
  let all := if x.status = 0 then (s.waits ctx).filter (fun y => y.status == 0 && y.first.sameCluster t) else [x]
  let ids := all.map (·.id) ++ all.filterMap (fun y => y.first.partner)
  let s0 := { s with teams := s.teams.filter (fun p => !(ids.contains p.1 && !p.2.holds)) }
  let others := s0.teams.filter (fun p => p.2.sameCluster t)
  let ranks := (others.map (fun p => p.2.rank) ++ all.map (fun y => y.first.rank)).foldl Nat.max 0 + 1
  match seatOf t.pair t.partner.isSome core t.rank ranks with
  | none => none
  | some (origin, seats) =>
    let at_ (rank half : Nat) : Option Nat := (seats.find? (fun q => q.rank == rank && q.half == half)).map (·.core)
    let here := all.filter (fun y => !s.received.contains (ctx, y.slot))
    let bound := s.sessionDies (here.flatMap (fun y => y.id :: y.first.partner.toList) ++ others.map (·.1))
    let fit (p : Team) (gs : Map Group) (prod : Bool) : Bool :=
      match at_ p.rank p.half with
      | none => false
      | some c => s0.seatOk c p gs prod && bound.all (· == c / 64)
    let okNew := all.all (fun y =>
      (y.halves.zip (y.producers ++ List.replicate 2 none)).all (fun h => fit h.1.1 h.1.2 h.2.isSome))
    let stays (p : Team) : Bool := at_ p.rank p.half == some p.core
    let moves (p : Team) : Bool :=
      match at_ p.rank p.half with
      | none => false
      | some c => s0.open c && ((s0.used c).add p.room).fits && (p.spSize == 0 || (s0.flushStop c).isNone)
    if s.routed ctx t.entry origin && okNew && others.all (fun p => stays p.2 || (!p.2.holds && moves p.2)) then
      let s1 := others.foldl
        (fun s p =>
          if p.2.holds then s
          else
            let c := (at_ p.2.rank p.2.half).getD p.2.core
            (if c = p.2.core ∨ p.2.spSize = 0 then s else s.yieldL1 c).updTeam p.1 (fun q => { q with core := c })) s0
      let ren := s1.renumber all s1.nextTeam
      let s1 := all.foldl (fun s y => s.restoreTeam ctx seats ren y) s1
      let s1 := s1.lookAgain (ren.map (·.2))
      some (seats, { s1 with waiting := s1.waiting.filter (fun w => !(w.1 == ctx && all.any (fun y => y.slot == w.2))) })
    else none

/-- The image in a slot that waits to be placed, if a reader accepts it. -/
def State.savedIn (s : State) (ctx slot : Nat) : Option Saved :=
  match Map.find (s.ctxOf ctx).images slot with
  | none => none
  | some rs => if imageOk rs && !(s.ctxOf ctx).stopped then Saved.of slot rs else none

end Sys2Proof.Machine
end

