-- ==== Sys2Proof/Machine/Registers.lean ====
section
/-!
DEFINITION. Sys2Proof/Machine/Registers.lean: the special registers (R81, R30, R54, R104, R107, R169, R172, R277, R280, R283, R326,
R355, R381, R385, R387, R395, R400, R405 to R413): what each one reads as, and what a write of it does.
-/

namespace Sys2Proof.Machine

/-! ## Reading -/

/-- The user registers of the executing fragment, but for the per-lane `lane`. -/
def State.readUser (s : State) (n : Nat) : DWord :=
  let t := s.ct
  let g := s.cg
  let nat (x : Nat) : DWord := BitVec.ofNat 64 x
  match n with
  | 0x000 => s.cf.em
  | 0x001 => s.cf.om
  | 0x003 => nat t.width
  | 0x004 => nat (t.half * 256 + s.cur.ref.group)
  | 0x005 => nat ((t.csize - 1) * 2 ^ 36 + t.rank * 2 ^ 32 + t.index)
  | 0x006 => nat t.core
  | 0x007 => nat (s.now + Config.clockSkew t.core)
  | 0x008 => g.grpcnt
  | 0x018 => g.ilkcnt
  | 0x030 => nat (g.sbcnt * 2 ^ 32 + t.tileUnits)
  | n => if n < 0x018 then Map.get 0 t.cvpol (n - 0x010) else Map.get 0 t.mc (n - 0x020)

/-- The register `lane` in a lane (R82). -/
def State.readLane (s : State) (l : Nat) : Word := BitVec.ofNat 32 ((s.cur.ref.group * s.ct.width + l) * 65536 + l)

/-- The retired positions of a die (R83). -/
def State.coreMap (s : State) (die : Nat) : DWord := s.retired.extractLsb' (64 * die) 64

/-- The supervisor registers: the trap frame of the executing group, the core maps, and the context's own; a field that is only
written reads as zero. -/
def State.readSup (s : State) (n : Nat) : DWord :=
  if 0x470 ≤ n then s.cg.tfReg n else if 0x460 ≤ n then s.coreMap (n - 0x460) else s.cc.sreg n

/-- The counters that `capsize` shows: the chunks and the frames of a context (R326). -/
def State.capSize (s : State) (ctx : Nat) : Nat :=
  let fs := s.frames.filter (fun f => f.2.ctx == ctx && f.2.state != .empty)
  fs.foldl (fun n f => n + f.2.chunks) 0 * 2 ^ 32 + fs.length

/-- The lowest loadable version of firmware (R410). -/
def State.fwMin (s : State) : Nat := Nat.max (field (s.preg 0x852) 31 0) Config.fwMin.toNat

/-- The number of a kind of firmware image among the free values. -/
def FwKind.number : FwKind → Nat
  | .boot => 0
  | .runtime => 1
  | .kernels => 2

/-- The running image of a kind: the latest one that loaded, else one that the manual does not name (R410, R411). -/
def State.fwImage (s : State) (k : FwKind) : FwImage :=
  (s.firmware.find? (fun i => i.kind == k)).getD ⟨k, Config.fwVersion (FwKind.number k), Config.fwDigest (FwKind.number k)⟩

/-- The owner registers. -/
def State.readOwner (s : State) (n : Nat) : DWord :=
  let nat (x : Nat) : DWord := BitVec.ofNat 64 x
  match n with
  | 0x812 => nat (s.reserve * 2 ^ 32 + s.free)
  | 0x813 => nat (Nat.min 65535 (s.held.filter (fun h => !h.back)).length * 2 ^ 32 + s.readyQ.length)
  | 0x816 => nat (s.evUsed * 2 ^ 32 + field (s.preg 0x816) 31 0)
  | 0x81C => nat (s.capSize (field (s.preg 0x81B) 15 0))
  | 0x844 => nat (s.locket.sent * 2 ^ 32 + s.locket.round * 2 ^ 8 + s.locket.st)
  | 0x850 => nat (s.owner * 2 ^ 62) ||| s.preg 0x850
  | 0x852 => (s.fwImage .runtime).version ++ BitVec.ofNat 32 s.fwMin
  | n => s.preg n

/-- A special register as the executing slot reads it. -/
def State.readSreg (s : State) (n : Nat) : DWord :=
  if n < 0x400 then s.readUser n else if n < 0x800 then s.readSup n else s.readOwner n

/-! ## Writing -/

/-- The bits of a register that a write stores as they are. -/
def storedBits (n : Nat) : DWord :=
  if 0x400 ≤ n ∧ n ≤ 0x403 then 0x01FFFFFFFFFFFFC0
  else if 0x450 ≤ n ∧ n ≤ 0x456 then 0x01FFFFFFFFFFFFC7
  else if 0x802 ≤ n ∧ n ≤ 0x805 then 0xFFFF
  else
    match n with
    | 0x405 => 0x0000FFFFFFFFF000
    | 0x40A | 0x815 => 0x01FFFFFFFFFFF000
    | 0x40C | 0x81B | 0x843 => 0xFFFF
    | 0x440 => 0x01FFFFFFFFFFFFFF
    | 0x448 => 0x01FFFFFFFFC00FFF
    | 0x801 => 0x0000FFFFFFE00000
    | 0x810 => 0x000000FFFF800000
    | 0x819 => 0xFFFFFFFFFFFFF000
    | 0x800 | 0x814 | 0x816 | 0x820 | 0x831 | 0x833 | 0x842 => 0xFFFFFFFF
    | 0x830 => 0x0000000001FF01FF
    | 0x832 => 0x1F
    | 0x840 => 0xFFFF0000000000F0
    | 0x841 => 0x0FFFFFFFFFFFFFF0
    | 0x853 => 0xFFFFFFFF00000000
    | _ => 0xFFFFFFFFFFFFFFFF

/-- The stored bits of a register replaced. -/
def storeBits (n : Nat) (old v : DWord) : DWord := (old &&& ~~~storedBits n) ||| (v &&& storedBits n)

/-- A write of a user register by the executing slot. -/
def State.writeUser (s : State) (n : Nat) (v : DWord) : Except (BitVec 9) State :=
  let r := s.cur.ref
  match n with
  | 0x000 => .ok (s.setEm v)
  | 0x008 => .ok (s.setG (fun g => { g with grpcnt := v }))
  | 0x018 => .ok (s.setG (fun g => { g with ilkcnt := v }))
  | 0x030 => .ok (s.setG (fun g => { g with sbcnt := field v 63 32 }))
  | n =>
    if n < 0x018 then
      .ok ((s.halves r.team).foldl (fun s h => s.updTeam h (fun t => { t with cvpol := Map.set 0 t.cvpol (n - 0x010) (v &&& 0xFF) })) s)
    else
      let x := v &&& 0xFFFFFFF1
      if shapeBad x s.ct.tileUnits then .error 0x011 else .ok (s.setT (fun t => { t with mc := Map.set 0 t.mc (n - 0x020) x }))

/-- The bytes of an invalidation's scope (R277), none for the whole context. -/
def scopeBytes : Nat → Option Nat
  | 0 => some 4096
  | 1 => some 65536
  | 2 => some (2 ^ 21)
  | 3 => some (2 ^ 25)
  | 4 => some (2 ^ 30)
  | _ => none

/-- The range of a write of `tlbinv` meets `n` bytes from an address; its first address is the one written, whatever the scope. -/
def inScope (v : DWord) (va n : Nat) : Bool :=
  match scopeBytes (field v 2 0) with
  | none => true
  | some k =>
    let lo := 4096 * field v 56 12
    decide (va < lo + k) && decide (lo < va + n)

/-- An access of a context that has not completed uses a translation of the range: a copy's, or a request to a peer. -/
def State.usesRange (s : State) (ctx : Nat) (v : DWord) : Bool :=
  let mine (t : Nat) : Bool := (s.teamOf t).ctx == ctx
  s.copies.any (fun c => mine c.2.team && c.2.own.any (fun p => inScope v p.1 64))
    || s.reqs.any (fun r => mine r.2.ref.team && r.2.reply.isNone && inScope v r.2.va 64)

/-- A write of `tlbinv`: cached translations of the range are dropped, and the write is done once no outstanding access used one (R277).
Scopes 6 and 7 are refused. -/
def State.invalidate (s : State) (ctx : Nat) (v : DWord) : Except (BitVec 9) (State × Bool) :=
  if 5 < field v 2 0 then .error 0x002
  else
    .ok ({ s with tlb := s.tlb.filter (fun e => !(e.ctx == ctx && inScope v e.va e.size)) }, !s.usesRange ctx v)

/-- A write of a context's supervisor register but `tlbinv`; the trap frame belongs to a group. -/
def State.writeCtx (s : State) (ctx n : Nat) (v : DWord) : Except (BitVec 9) State :=
  let store (s : State) : State := s.updCtx ctx (fun c => c.setSreg n (storeBits n (c.sreg n) v))
  if n ≤ 0x403 then .ok ((store s).updCtx ctx (fun c => { c with unused := c.unused.filter (· != n - 0x400) }))
  else if 0x450 ≤ n then (if pcOk v then .ok (store s) else .error 0x002)
  else
    match n with
    | 0x405 => if s.nodeBad (4096 * field v 47 12) then .error 0x04D else .ok (store s)
    | 0x40B =>
      let extent := field v 63 32
      let hwm := field v 31 0
      if extent % 4 ≠ 0 ∨ hwm % 4 ≠ 0 ∨ extent < hwm then .error 0x04D else .ok (store s)
    | 0x430 => .ok (s.updCtx ctx (fun c => c.setSreg 0x430 (c.sreg 0x430 &&& ~~~v)))
    | 0x449 => .ok (s.resume ctx (field v 11 0))
    | _ => .ok (store s)

/-- A write of a supervisor register by the executing slot: `tcause.ent` and the reserved bits above it stay (R387). -/
def State.writeSup (s : State) (n : Nat) (v : DWord) : Except (BitVec 9) State :=
  if 0x470 ≤ n then
    let keep : DWord := if n = 0x470 then 0xFFFFFFFFFFFFF000 else 0
    let new : DWord := if n = 0x470 then v &&& 0xFFF else v
    .ok (s.setG (fun g => g.setTf n ((g.tfReg n &&& keep) ||| new)))
  else s.writeCtx s.ct.ctx n v

/-- A write that is done at once. -/
def doneNow (x : Except (BitVec 9) State) : Except (BitVec 9) (State × Bool) := x.map (fun s => (s, true))

/-- Frames that are plain no longer lose the stripe attribute (R315, R331). -/
def State.dropPlain (s : State) : State :=
  { s with stripe := s.stripe.filter (fun p => decide (4096 * p.1 < s.plainEnd)) }

/-- A row at or above D is under in-bank ownership. -/
def State.inBankFrom (s : State) (d : Nat) : Bool := s.rowOwner.any (fun p => p.2 && decide (2 ^ 30 * d ≤ 1024 * p.1))

/-- `capcfg` (R326): dir and ratio change only while no compressed frame is assigned; the pool is the rest of the DRAM. A new D that would leave
an in-bank row outside the plain region is refused too: such a row lies there (R332), and only a fence may hand it back (R2; DESIGN CHOICE,
log 35). -/
def State.writeCapcfg (s : State) (v : DWord) : Except (BitVec 9) State :=
  let old := s.preg 0x810
  if 1024 < field v 39 29 ∨ 16 < field v 28 24 ∨ (field v 39 24 ≠ field old 39 24 ∧ !s.frames.isEmpty) ∨ s.inBankFrom (field v 39 29) then
    .error 0x052
  else
    let s := s.setPreg 0x810 (storeBits 0x810 old v)
    .ok (if field v 39 29 = field old 39 29 then s else { s.dropPlain with free := s.poolSize - s.reserve })

/-- `fbself` (R381): writable only before the first view. -/
def State.writeFbself (s : State) (v : DWord) : Except (BitVec 9) State :=
  let size := field v 24 16
  let pkg := field v 8 0
  if size = 0 ∨ 288 < size ∨ size ≤ pkg ∨ s.view.isSome then .error 0x1C3 else .ok (s.setPreg 0x830 (v &&& storedBits 0x830))

/-- A limit that the measured power passes begins an episode, where the one before did not (R413). -/
def powerLimit (x : DWord) (limit : Nat) : DWord :=
  let begins := decide (limit < field x 15 0) && decide (field x 15 0 ≤ field x 47 32)
  setField (if begins then setField x 63 48 (field x 63 48 + 1) else x) 47 32 limit

/-- The command of `lkctl` (R400). -/
def State.lkCommand (s : State) (cmd : Nat) : State :=
  match cmd with
  | 1 => s.lkPrecopy
  | 2 => s.lkStop
  | 3 => s.lkAbort
  | 4 => s.lkReceive
  | _ => s

/-- A write of an owner register by the owner or by one of its contexts: whether it is done is false while a command waits. -/
def State.writeOwner (s : State) (n : Nat) (v : DWord) : Except (BitVec 9) (State × Bool) :=
  let store : State := s.setPreg n (storeBits n (s.preg n) v)
  let done := doneNow
  match n with
  | 0x806 => done (.ok (s.retireCore (field v 7 0)))
  | 0x810 => done (s.writeCapcfg v)
  | 0x816 => done (if field v 31 0 < s.evUsed then .error 0x052 else .ok store)
  | 0x817 => done (.ok (s.setPreg 0x817 (s.preg 0x817 &&& ~~~(v &&& 7))))
  | 0x81A => s.capCommand (field v 63 60) (field v 19 0)
  | 0x830 => done (s.writeFbself v)
  | 0x831 =>
    let tmo := field v 31 16
    let hb := field v 15 0
    done (if tmo < 10 ∨ 1000 < tmo ∨ hb = 0 ∨ tmo / 4 < hb then .error 0x1C3 else .ok store)
  | 0x832 => done (if 16 < field v 4 0 then .error 0x1C3 else .ok store)
  | 0x840 =>
    let s := if field v 7 4 = 0 then s.setPreg n (setField (s.preg n) 63 48 (field v 63 48)) else store
    done (.ok (s.lkCommand (field v 3 0)))
  | 0x850 =>
    if !v.getLsbD 61 || s.owner == 3 then done (.ok s)
    else if s.writesOpen then .ok (s, false)
    else done (.ok (s.handOver (field v 60 59)))
  | 0x851 =>
    let x := s.preg 0x851
    done (.ok (s.setIrq ((x &&& 0x1F &&& ~~~v) ||| (v &&& 0x1F00000000))))
  | 0x852 => done (.ok (if field v 31 0 < s.fwMin then s else s.setPreg 0x852 (v &&& 0xFFFFFFFF)))
  | 0x853 =>
    let limit := field v 47 32
    let x := setField (s.preg n) 63 48 (field v 63 48)
    done (.ok (s.setPreg n (if limit < 500 ∨ 3400 < limit then x else powerLimit x limit)))
  | _ => done (.ok store)

/-- A special register as the executing slot writes it. -/
def State.writeSreg (s : State) (n : Nat) (v : DWord) : Except (BitVec 9) (State × Bool) :=
  if n < 0x400 then doneNow (s.writeUser n v)
  else if n = 0x409 then s.invalidate s.ct.ctx v
  else if n < 0x800 then doneNow (s.writeSup n v)
  else s.writeOwner n v

/-- TLBINV: the driver's write of `tlbinv` for a context (R277), which only the owner's may make (R404). -/
def execTlbinv (ctx : Nat) (value : DWord) (s : State) : Res :=
  .next (s.byOwner s.writer (fun s =>
    match s.invalidate ctx value with
    | .error _ => s
    | .ok r => r.1))

end Sys2Proof.Machine
end

