-- ==== Sys2Proof/Machine/Owner.lean ====
section
/-!
DEFINITION. Sys2Proof/Machine/Owner.lean: the owner and its election (R404 to R407), host accesses and interrupts (R408, R409),
firmware and attestation (R410, R411), bring-up and reset (R412), power (R413), and what else comes from outside.
-/

namespace Sys2Proof.Machine

/-! ## Election and handover (R405 to R407) -/

/-- A claim (master, priority, nonce) that wins over another one (R406). -/
def claimBeats (a b : Nat × Nat × Nat) : Bool :=
  if a.2.1 ≠ b.2.1 then decide (b.2.1 < a.2.1)
  else if a.2.2 ≠ b.2.2 then decide (b.2.2 < a.2.2)
  else decide (a.1 < b.1)

/-- The winning claim. -/
def winner : List (Nat × Nat × Nat) → Option (Nat × Nat × Nat)
  | [] => none
  | c :: cs => match winner cs with | none => some c | some w => some (if claimBeats c w then c else w)

/-- The election's window of 100 µs has closed. -/
def State.electionOver (s : State) : Bool :=
  match s.election with | none => false | some c => decide (c + cyclesOfUs 100 ≤ s.now)

/-- At the window's close the winner becomes the owner, and `ownclaim` shows its claim (R406). -/
def State.closeElection (s : State) : State :=
  match s.electionOver, winner s.claims with
  | true, some (m, prio, nonce) =>
    { s.setPreg 0x850 (BitVec.ofNat 64 (prio * 2 ^ 32 + nonce)) with owner := m, claims := [], election := none }
  | _, _ => s

/-- A master's claim (R406): ignored while there is an owner, and before bring-up opens the election (R412 step 3); a later one of the same
master replaces it. -/
def State.claim (s : State) (m prio nonce : Nat) : State :=
  let s := s.closeElection
  if s.owner ≠ 3 ∨ s.bringUp < 3 then s
  else
    { s with
      claims := s.claims.filter (fun c => c.1 != m) ++ [(m, prio, nonce)]
      election := match s.election with | none => some s.now | some c => some c }

/-- OWNCLAIM_CLAIM -/
def execOwnclaimClaim (m : Master) (prio : BitVec 8) (nonce : BitVec 32) (s : State) : Res :=
  .next (s.claim (masterNumber m) prio.toNat nonce.toNat)

/-- ELECTION_CLOSE -/
def execElectionClose (s : State) : Res := .next s.closeElection

/-- A write of hand: only the owner's counts, any other is denied (R404, R407). It takes effect after the earlier owner-register writes. -/
def State.hand (s : State) (m succ : Nat) : State :=
  if s.owner = m then ({ s with handing := some succ } : State).settleHand else s.countErr 0

/-- OWNCLAIM_HAND -/
def execOwnclaimHand (m : Master) (succ : BitVec 2) (s : State) : Res := .next (s.hand (masterNumber m) succ.toNat)

/-- OWNER_PATH_TIMEOUT: the owner's path has stayed down for 1 s (R407). -/
def execOwnerPathTimeout (s : State) : Res :=
  match Map.find s.pathDown s.owner with
  | none => .next s
  | some c => .next (if c + cyclesOfUs 1000000 ≤ s.now then { s with owner := 3, handing := none, claims := [], election := none } else s)

/-- A master may write an owner register: it is the owner, or bring-up is at the step in which the board controller sets the frame space of
trained stacks, or the fabric manager the package number (R404, R412). -/
def State.mayWrite (s : State) (m n : Nat) : Bool :=
  s.owner == m
    || (m == 1 && n == 0x810 && (s.bringUp == 1 || s.bringUp == 2) && s.trained.contains .obhal)
    || (m == 2 && n == 0x830 && (s.bringUp == 3 || s.bringUp == 4))

/-- A step of bring-up that fails: it goes no further, and `hostirq.pkg` is set (R412). A register write that is no step of it is just
ignored. -/
def State.stepFails (s : State) (k : Nat) : State := if s.bringUp + 1 = k then s.irq 0 else s

/-- REGISTER_WRITE: a master's write through its management path. One that is not allowed is counted, and one that breaks a limit
is ignored (R404), which stops bring-up where it is a step of it (R412). -/
def execRegisterWrite (m : Master) (sreg : BitVec 12) (value : DWord) (s : State) : Res :=
  let n := sreg.toNat
  let k := masterNumber m
  if n = 0x850 then
    .next (if value.getLsbD 61 then s.hand k (field value 60 59) else s.claim k (field value 39 32) (field value 31 0))
  else if !s.mayWrite k n then .next (s.countErr 0)
  else if n < 0x800 || !writableSreg n then .next s
  else
    let step := if n = 0x810 then 2 else if n = 0x830 then 4 else 0
    match s.writeOwner n value with
    | .error _ => .next (s.stepFails step)
    | .ok r => .next (r.1.comesUp step)

/-! ## The host (R408, R409) -/

/-- A write of bytes at machine addresses, each line as one access at its home; one that a controller refuses writes nothing there. -/
def State.hostWrite (s : State) : List (Nat × List Byte) → State
  | [] => s
  | (a, b) :: rest =>
    let line := alignDown 64 a
    let bs := b.zipIdx.map (fun p => (p.2, p.1))
    (if s.reach line (b.length == 64) == .ok then s.homeWrite line (a % 64) bs else s).hostWrite rest

/-- A context as system software creates it (R10, R30), after the first view (R412 step 6). -/
def State.newContext (s : State) (id : Nat) (owner : Bool) : State :=
  if s.bringUp < 5 ∨ id = 0 ∨ 65535 < id ∨ s.teams.any (fun t => t.2.ctx == id) then s
  else
    ({ s with
      ctxs := Map.put s.ctxs id { nullCtx with owner := owner }
      launches := s.launches.filter (fun l => l.2.ctx != id)
      waiting := s.waiting.filter (fun w => w.1 != id)
      received := s.received.filter (fun w => w.1 != id)
      tlb := s.tlb.filter (fun e => e.ctx != id) } : State).comesUp 6

/-- HOST_ACCESS (R408): a write or read of device memory, a read of a register, and the work on contexts of the owner's driver, whichever
master that is. A write of a master that is not the owner is ignored and counted (R404). -/
def execHostAccess (act : HostAct) (s : State) : Res :=
  match act with
  | .memWrite a b =>
    .next (s.byOwner .host (fun s =>
      let ws := lineWrites a b
      if ws.any (fun w => s.frameEnd ≤ w.1 || s.reach (alignDown 64 w.1) (w.2.length == 64) == .wait) then s else s.hostWrite ws))
  | .memRead a n =>
    .next ((lineWrites a (List.replicate n 0)).foldl
      (fun s w => if s.reach (alignDown 64 w.1) false == .ok then (s.readLine (alignDown 64 w.1)).2 else s) s)
  | .regRead _ => .next s
  | .newContext id owner => .next (s.byOwner s.writer (·.newContext id owner))
  | .context id n v =>
    .next (s.byOwner s.writer (fun s =>
      if Map.has s.ctxs id && writableSreg n && decide (0x400 ≤ n) && decide (n < 0x470) then
        match s.writeCtx id n v with | .error _ => s | .ok s => s
      else s))
  | .policy id i v =>
    .next (s.byOwner s.writer (fun s =>
      if Map.has s.ctxs id then s.updCtx id (fun c => { c with policy := c.policy.set i (v &&& 0xFF) }) else s))

/-- HOSTIRQ_ENABLE: a master's write of the enables, which may send a message for a bit that is pending (R404, R409). -/
def execHostirqEnable (en : BitVec 5) (s : State) : Res :=
  .next (s.byOwner s.writer (fun s => s.setIrq (setField (s.preg 0x851) 36 32 en.toNat)))

/-! ## Firmware, attestation, reset, power (R410 to R413) -/

/-- FIRMWARE_LOAD: an image with both signatures and no lower version takes the place of the running one of its kind, and the boot firmware's is
the first step of bring-up; any other leaves the previous one and is counted, and bring-up does not go on (R410, R412). -/
def execFirmwareLoad (version : FwImage) (rsa slh : Bool) (s : State) : Res :=
  .next (if rsa && slh && decide (s.fwMin ≤ version.version.toNat) then
    let s := { s with firmware := version :: s.firmware.filter (fun i => i.kind != version.kind) }
    if version.kind = .boot then s.comesUp 1 else s
  else s.countErr 16)

/-- What a mutual attestation with a peer exchanges and derives (R411): all of it free values. -/
def State.exchange (s : State) (peer : AttestPeer) : Exchange :=
  ⟨peer, Config.ephemeral s.tick, Config.sessionKey peer.session, Config.sessionSalt peer.session⟩

/-- The report for a verifier's nonce (R411). -/
def State.report (s : State) (nonce : DWord) (peer : Option AttestPeer) : Report where
  nonce := nonce
  part := Config.partNumber
  identity := Config.packageId
  images := [FwKind.boot, .runtime, .kernels].map s.fwImage
  tag := s.tag
  rsa := Config.signRsa s.tick
  slh := Config.signSlh s.tick
  exchange := peer.map s.exchange

/-- ATTESTATION: a report for a verifier's nonce; in a mutual attestation, a session under its number, which `lkpeer` receives (R411). -/
def execAttestation (nonce : DWord) (peer : Option AttestPeer) (s : State) : Res :=
  let old := s.attested.filter (fun a => peer.isNone || a.session != peer.map (·.session))
  let t := { s with attested := s.report nonce peer :: old }
  .next (match peer with | some p => t.setPreg 0x843 (p.session.setWidth 64) | none => t)

/-- PACKAGE_RESET: the state right after reset; the moves to come and the step counter are the model's own. -/
def execPackageReset (s : State) : Res := .next { State.reset with agenda := s.agenda, tick := s.tick + 1 }

/-- POWER_THROTTLE: a measurement; one that passes the limit begins an episode (R413). -/
def execPowerThrottle (watts : BitVec 16) (s : State) : Res :=
  let x := s.preg 0x853
  let limit := field x 47 32
  let begins := decide (limit < watts.toNat) && decide (field x 15 0 ≤ limit)
  let x := setField x 15 0 watts.toNat
  .next (s.setPreg 0x853 (if begins then setField x 63 48 (field x 63 48 + 1) else x))

/-! ## What else comes from outside -/

/-- A session's BGU changed. -/
def State.updBgu (s : State) (team group g : Nat) (f : Bgu → Bgu) : State :=
  s.updSession team group (fun x => { x with bgus := Map.modify nullBgu x.bgus g f })

/-- An image comes into a save slot from outside (R395, R402): its team is one of this context and of no launch of this package, and holds its
private-memory slot from now on (R280). -/
def State.receiveImage (s : State) (ctx slot : Nat) (rs : List ImageRec) : State :=
  let body (b : ImageBody) : ImageBody :=
    match b with
    | .team t => .team { t with ctx := ctx, launch := (ctx + 1) * 2 ^ 64 + t.launch % 2 ^ 64 }
    | b => b
  let rs := rs.map (fun r => { r with body := body r.body })
  let slots := if imageOk rs then (imageTeams (imageBodies rs)).map (·.pslot) else []
  let s := s.updCtx ctx (fun c =>
    { c with images := Map.put c.images slot rs, privates := c.privates ++ slots.filter (fun k => !c.privates.contains k) })
  { s with received := (ctx, slot) :: s.received.filter (· != (ctx, slot)) }

/-- The stacks or links are trained, after the boot firmware or the stacks with their frame space (R412); one that fails to be stops bring-up. -/
def State.train (s : State) (what : Training) (ok : Bool) : State :=
  let from_ := match what with | .obhal => 1 | _ => 2
  if s.bringUp < from_ then s
  else if !ok then s.stepFails (from_ + 1)
  else
    let s := { s with trained := if s.trained.contains what then s.trained else what :: s.trained }
    if s.linksTrained then s.comesUp 3 else s

/-- What happens to the package that is no row of the table. -/
def State.outside (s : State) : Outside → State
  | .badLine team line =>
    if Map.has s.teams team then s.updTeam team (fun t => { t with badSp := line :: t.badSp.filter (· != line) }) else s
  | .badUnit team unit =>
    if Map.has s.teams team then s.updTeam team (fun t => { t with badUnits := unit :: t.badUnits.filter (· != unit) }) else s
  | .corrected => s.countErr 32
  | .path m up =>
    { s with
      pathDown := if up then Map.erase s.pathDown m else if Map.has s.pathDown m then s.pathDown else Map.put s.pathDown m s.now }
  | .badWord team group bgu w => s.updSession team group (fun x => { x with badWords := (bgu, w) :: x.badWords })
  | .badAcc team group bgu a => s.updBgu team group bgu (fun b => { b with bad := a :: b.bad.filter (· != a) })
  | .carried => { s with out := [] }
  | .image ctx slot rs =>
    if Map.has s.ctxs ctx && !s.waiting.contains (ctx, slot) then s.receiveImage ctx slot rs else s
  | .writer m => { s with writer := m }
  | .trained what ok => s.train what ok
  | .routes ctx entry os =>
    if Map.has s.ctxs ctx then s.updCtx ctx (fun c => { c with routes := (entry, os) :: c.routes.filter (·.1 != entry) }) else s

end Sys2Proof.Machine
end

