-- ==== Sys2Proof/Machine/Schedule.lean ====
section
/-!
DEFINITION. Sys2Proof/Machine/Schedule.lean: what the scheduler places next: the order of what waits (R103, R109), placement (R79), restoration
(R399), and the swap of a core (R103).
-/

namespace Sys2Proof.Machine

/-! ## What waits to be placed -/

/-- The priority of a team's launch (R104); the lowest for a team whose launch this package did not take (DESIGN CHOICE, log 33). -/
def State.priority (s : State) (t : Team) : Nat := match Map.find s.launches t.launch with | some l => l.list | none => 3

/-- The place of a waiter in its order: priority first; then saved teams, which return to the front of theirs; then their own order, or
the earliest record (R103, R109). -/
def State.turnOf (s : State) : Waiter → Nat × Nat × Nat
  | .image ctx slot =>
    (match s.savedIn ctx slot with | some x => s.priority x.first | none => 3, 0, s.waiting.findIdx (· == (ctx, slot)))
  | .launch id => (match Map.find s.launches id with | some l => l.list | none => 3, 1, id)

/-- One waiter comes before another: first those for which a core swapped a team out. -/
def State.sooner (s : State) (a b : Waiter) : Bool :=
  let x := s.turnOf a
  let y := s.turnOf b
  if s.swapIn.contains a != s.swapIn.contains b then s.swapIn.contains a
  else if x.1 ≠ y.1 then decide (x.1 < y.1)
  else if x.2.1 ≠ y.2.1 then decide (x.2.1 < y.2.1)
  else decide (x.2.2 < y.2.2)

/-- Everything that waits. -/
def State.waiters (s : State) : List Waiter := s.waiting.map (fun w => .image w.1 w.2) ++ s.launches.map (fun l => .launch l.1)

/-- The seats at which a waiter can be placed now, with an origin or a first core as it is named. -/
def State.seatsFor (s : State) (w : Waiter) (at_ : Nat) : Option (List Seat) :=
  match w with
  | .image ctx slot => match s.savedIn ctx slot with | some x => (s.restored ctx x at_).map (·.1) | none => none
  | .launch id => match Map.find s.launches id with | some l => s.placeable l at_ | none => none

/-- A waiter that comes before this one can be placed now: room goes to that one first (R103, R109). -/
def State.outranked (s : State) (w : Waiter) : Bool :=
  s.waiters.any (fun v => s.sooner v w && (List.range 256).any (fun o => (s.seatsFor v o).isSome))

/-! ## Placing (R79, R399) -/

/-- A launch whose context has too few private-memory slots for its next cluster, whoever holds them, is refused at placement as R109 refuses a
record (R280): it places nothing more, and its done word stays as it is. -/
def State.refuseLaunch (s : State) (launch : Nat) (l : Launch) : State :=
  let s := { s with launches := Map.erase s.launches launch, swapIn := s.swapIn.filter (· != Waiter.launch launch) }
  (s.llrefuse l.ctx l.list l.slot 0).irq 1

/-- TEAM_PLACE: the next cluster of a launch is placed at an origin, all of its teams or none (R79, R109). -/
def execTeamPlace (launch origin : Nat) (s : State) : Res :=
  match Map.find s.launches launch with
  | none => .next s
  | some l =>
    match s.placeable l origin with
    | none => .next (if l.ranks ≠ 0 ∧ (s.ctxOf l.ctx).privateCount < l.privatesDue then s.refuseLaunch launch l else s)
    | some seats =>
      if s.outranked (.launch launch) then .next s
      else
        let s := s.placeSeats launch l seats
        .next { s with
          launches := Map.alter s.launches launch (fun x => { x with next := x.next + l.ranks })
          swapIn := s.swapIn.filter (· != Waiter.launch launch) }

/-- IMAGE_RESTORE: the team in a slot that waits is placed with its first core at `core`, and so are the pre-empted teams of its
cluster that wait with it; a refused image places nothing, and the driver is interrupted (R398, R399). -/
def execImageRestore (ctx slot core : Nat) (s : State) : Res :=
  match Map.find (s.ctxOf ctx).images slot with
  | none => .next s
  | some rs =>
    if !s.waiting.contains (ctx, slot) || (s.ctxOf ctx).stopped then .next s
    else if !imageOk rs then .next (({ s with waiting := s.waiting.filter (· != (ctx, slot)) }).irq 4)
    else
      match Saved.of slot rs with
      | none => .next s
      | some x =>
        match s.restored ctx x core with
        | some (_, t) =>
          .next (if s.outranked (.image ctx slot) then s else { t with swapIn := t.swapIn.filter (· != .image ctx slot) })
        | none => .next s

/-! ## The swap (R103) -/

/-- The cycles after which a core may swap (R103, R107); none where the swap is disabled. -/
def State.swapAfter (s : State) : Option Nat :=
  match field (s.preg 0x800) 31 0 with
  | 0 => none
  | n => some (Nat.max 1024 n)

/-- Every group of a team is blocked (R97). -/
def State.blocked (s : State) (team : Nat) : Bool := (s.teamOf team).groups.all (fun g => g.2.blocked)

/-- Without the teams of a cluster. -/
def State.without (s : State) (team : Nat) : State :=
  let c := s.clusterOf team
  { s with teams := s.teams.filter (fun t => !c.contains t.1) }

/-- What waits, new or saved, would fit on a core once a team's cluster leaves. -/
def State.fitsWithout (s : State) (core team : Nat) (w : Waiter) : Bool :=
  let s := s.without team
  (List.range 256).any (fun o =>
    match s.seatsFor w o with | some seats => seats.any (fun x => x.core == core) | none => false)

/-- A waiter would fit on a core once one of the teams resident there leaves (R103). -/
def State.wouldFit (s : State) (core : Nat) (w : Waiter) : Bool :=
  s.teams.any (fun t => t.2.core == core && t.2.status == .resident && s.fitsWithout core t.1 w)

/-- The first of those that would fit: highest priority, then the earliest record. -/
def State.swapFor (s : State) (core : Nat) : Option Waiter :=
  (s.waiters.filter (s.wouldFit core)).foldl
    (fun best w => match best with | none => some w | some b => if s.sooner w b then some w else some b) none

/-- The lowest group slot of a team. -/
def Team.firstSlot (t : Team) : Nat := (t.slotted.map (·.slot)).foldl min 48

/-- The team that a core swaps out (R103): of those blocked with their clusters, whether or not the waiter fits in its place, the one that
issued longest ago, with the lowest first group slot among equals; a team without a free slot for its image is passed over (R395). -/
def State.swapChoice (s : State) (core : Nat) (room : Nat → Bool) : Option Nat :=
  let cand := (s.teams.filter (fun t =>
    t.2.core == core && t.2.status == .resident && t.2.holds && t.2.request.isNone && t.2.ending.isNone
      && (s.clusterOf t.1).all s.blocked && room t.1)).map (·.1)
  cand.foldl
    (fun best t =>
      match best with
      | none => some t
      | some b =>
        let x := s.teamOf t
        let y := s.teamOf b
        if x.issued < y.issued ∨ (x.issued = y.issued ∧ x.firstSlot < y.firstSlot) then some t else some b)
    none

/-- CORE_SWAP: a core on which no group has issued for N cycles, and on which a waiter would fit once a team leaves, swaps a blocked team's
cluster out, each group at the implicit safe point where it is (R103). -/
def execCoreSwap (core : Nat) (s : State) : Res :=
  match s.swapAfter with
  | none => .next s
  | some n =>
    if s.now < Map.get 0 s.lastIssue core + n then .next s
    else
      match s.swapFor core, s.swapChoice core s.canSave with
      | some w, some t => let s := s.requestStop t; .next { s with swapIn := s.swapIn ++ [w] }
      | _, _ => .next s

end Sys2Proof.Machine
end

