-- ==== Sys2Proof/Machine/System.lean ====
section
/-!
DEFINITION. Sys2Proof/Machine/System.lean: the system and trap instructions (R389, R390) and the end of a fragment's wait.
-/

namespace Sys2Proof.Machine

/-! ## Moves of special registers -/

/-- The register that a move names: `lane` is per lane, in a vector register (R81). -/
def moveReg (f : FmtS) : Reg := if f.sreg.toNat = 2 then .v f.a.toNat else .s f.a.toNat

/-- `mfsp` and `mfsv` (R390) -/
def State.moveFrom (s : State) (f : FmtS) : State :=
  if f.sreg.toNat = 2 then (s.setG (fun g => g.setLanes f.a.toNat s.lanes s.readLane)).retire [moveReg f]
  else s.whenActs (fun s => (s.setG (·.setU f.a.toNat (s.readSreg f.sreg.toNat))).retire [moveReg f])

/-- `mtsp` and `mtsv` (R390): a command that waits holds the slot. -/
def State.moveTo (s : State) (f : FmtS) : State :=
  s.whenActs (fun s =>
    match s.writeSreg f.sreg.toNat (s.cg.ureg f.a.toNat) with
    | .error c => s.raise c
    | .ok (s, true) => s.retire []
    | .ok (s, false) => s)

/-- `mfsp` -/
def execMfsp (f : FmtS) (s : State) : Res := .next (s.slot (.mfsp f) { writes := [moveReg f] } (fun s => s.moveFrom f))

/-- `mfsv` -/
def execMfsv (f : FmtS) (s : State) : Res := .next (s.slot (.mfsv f) { writes := [moveReg f] } (fun s => s.moveFrom f))

/-- `mtsp` -/
def execMtsp (f : FmtS) (s : State) : Res := .next (s.slot (.mtsp f) { reads := [.s f.a.toNat] } (fun s => s.moveTo f))

/-- `mtsv` -/
def execMtsv (f : FmtS) (s : State) : Res := .next (s.slot (.mtsv f) { reads := [.s f.a.toNat] } (fun s => s.moveTo f))

/-! ## Traps (R390) -/

/-- A software cause: precise, marked as software's, resuming after its instruction. -/
def State.softTrap (s : State) (code : BitVec 9) (n : DWord) : State :=
  s.takeTrap s.cur.ref
    { code, sw := true, addr := s.cf.pc, info0 := n, info3 := 0x0800000000000000, resume := nextPc s.cf.pc } s.act

/-- `trap n` -/
def execTrap (s : State) : Res :=
  .next (s.slot .trap {} (fun s =>
    s.whenActs (fun s => s.softTrap (s.cur.body.extractLsb' 0 9) ((s.cur.body.extractLsb' 0 9).setWidth 64))))

/-- `bkpt n` -/
def execBkpt (s : State) : Res :=
  .next (s.slot .bkpt {} (fun s => s.whenActs (fun s => s.softTrap 0x1D0 ((s.cur.body.extractLsb' 0 16).setWidth 64))))

/-- `tret` (R390): no handler entered, 0x00F; a malformed `tresume`, 0x003. Its target is not checked for a mark (R47). -/
def execTret (s : State) : Res :=
  .next (s.slot .tret {} (fun s =>
    let g := s.cg
    let x := g.tfReg 0x477
    if !g.ent then s.raise 0x00F
    else if !pcOk x then s.raise 0x003 none x
    else (s.track []).returnFromTrap.stopAtSafePoint s.stopAfter))

/-! ## The end of a wait (R97, R197, R211, R219, R220, R224) -/

/-- A parked fragment takes a cause at the instruction in which it is parked. -/
def State.raiseParked (s : State) (r : FragRef) (code : BitVec 9) (i0 : DWord) : State :=
  let pc := (s.fragAt r).pc
  s.takeTrap r { code, addr := pc, info0 := i0, resume := pc } (s.fragAt r).em

/-- The route of the instruction at a fragment's slot, which `tinfo0` holds (R220); none while its line must be waited for. -/
def State.routeAt (s : State) (r : FragRef) : Option DWord :=
  let f := s.fragAt r
  let route (l : BitVec 512) : DWord := ((slotBits l (slotOfPc f.pc)).extractLsb' 0 16).setWidth 64
  match f.line with
  | some (_, l) => some (route l)
  | none =>
    match s.fetch r (s.teamOf r.team).ctx (!(s.groupAt r.team r.group).sys) (lineOfPc f.pc) with
    | .ok (l, _) => some (route l)
    | .error .wait => none
    | .error _ => some 0

/-- A wait on another team's scratchpad, queue or clasp ends with 0x10A once that team is frozen (R220). -/
def State.orFrozen (s : State) (r : FragRef) (team : Nat) (k : State) : State :=
  if team != r.team && (s.teamOf team).status == .frozen then
    let s' :=
      match s.routeAt r with
      | some x => s.raiseParked r 0x10A x
      | none => s.fetchAsk r (s.teamOf r.team).ctx (!(s.groupAt r.team r.group).sys) (lineOfPc (s.fragAt r).pc)
    let mine (x : QReq) : Bool := x.who == some r
    if (s'.fragAt r).park.isSome then s'
    else s'.updTeam team (fun t =>
      { t with q := Map.mapVal t.q (fun _ q =>
          { q with pushers := q.pushers.filter (!mine ·), poppers := q.poppers.filter (!mine ·) }) })
  else k

/-- What a fragment is parked for has come: its instruction issues again, or it goes on after it, with the register that the
wait delivers. A wait on another team's queue or clasp ends with 0x10A where that team is frozen (R220); a wait on a clasp ends else with the
update that flips its phase, and not when a `cinit` or a store changes the phase (R216, R218). -/
def State.unpark (s : State) (r : FragRef) : State :=
  let t := s.teamOf r.team
  match (s.fragAt r).park with
  | none => s
  | some p =>
    match p with
    | .lines team lines =>
      if ((s.teamOf team).absentOf lines).isEmpty then s.again r else s
    | .queue team q => s.orFrozen r team (s.serveAll team q)
    | .clasp team _ _ =>
      s.orFrozen r team s
    | .got d x => (s.updGroupAt r.team r.group (·.setU d x)).wake r
    | .again why =>
      match why with
      | .entry => if t.granted.contains r then s.again r else s
      | .window w => if (t.window w).state != 2 then s.again r else s
      | .fence nc sys =>
        if !s.fenceDone r.team r.group nc sys then s
        else if !nc then s.wake r
        else if (s.flushStop t.core).isSome then s.again r
        else (s.flushNc t.core).wake r
      | .batch n =>
        let k := (s.openBatches r.team r.group (s.groupAt r.team r.group).batch).length
        match n with
        | none => if k < 16 then s.again r else s
        | some n => if k ≤ n then s.wake r else s
      | .producer => if !Map.has s.producers t.core then s.again r else s
      | .note => if !(s.ctxOf t.ctx).notes.isEmpty then s.again r else s
      | .memory => s.again r
    | .join | .nap _ | .quiet _ _ _ | .opener | .bankFence | .bankTurn | .joining _ => s

/-- FRAGMENT_UNPARK -/
def execFragmentUnpark (r : FragRef) (s : State) : Res :=
  .next (if s.live r && (s.groupAt r.team r.group).stop.isNone && (s.teamOf r.team).status == .resident then s.unpark r else s)

end Sys2Proof.Machine
end

