-- ==== Sys2Proof/Machine/Dispatch.lean ====
section
/-!
DEFINITION. Sys2Proof/Machine/Dispatch.lean: one arm for each instruction, micro-operation and event: a direct call of its
meaning.
-/

namespace Sys2Proof.Machine

def exec (i : Instr) (s : State) : Host.Outcome State Fault Refusal :=
  match i with
  | .bra f => Sys2Proof.Machine.execBra f s
  | .braU f => Sys2Proof.Machine.execBraU f s
  | .jmp f => Sys2Proof.Machine.execJmp f s
  | .jmpi f => Sys2Proof.Machine.execJmpi f s
  | .call f => Sys2Proof.Machine.execCall f s
  | .ret f => Sys2Proof.Machine.execRet f s
  | .loop f => Sys2Proof.Machine.execLoop f s
  | .mfem f => Sys2Proof.Machine.execMfem f s
  | .mtem f => Sys2Proof.Machine.execMtem f s
  | .mfom f => Sys2Proof.Machine.execMfom f s
  | .nap f => Sys2Proof.Machine.execNap f s
  | .spawn f => Sys2Proof.Machine.execSpawn f s
  | .add f => Sys2Proof.Machine.execAdd f s
  | .sub f => Sys2Proof.Machine.execSub f s
  | .addc f => Sys2Proof.Machine.execAddc f s
  | .subb f => Sys2Proof.Machine.execSubb f s
  | .min f => Sys2Proof.Machine.execMin f s
  | .max f => Sys2Proof.Machine.execMax f s
  | .abs f => Sys2Proof.Machine.execAbs f s
  | .neg f => Sys2Proof.Machine.execNeg f s
  | .mul f => Sys2Proof.Machine.execMul f s
  | .mulh f => Sys2Proof.Machine.execMulh f s
  | .mulhu f => Sys2Proof.Machine.execMulhu f s
  | .mad f => Sys2Proof.Machine.execMad f s
  | .madw f => Sys2Proof.Machine.execMadw f s
  | .div f => Sys2Proof.Machine.execDiv f s
  | .divu f => Sys2Proof.Machine.execDivu f s
  | .rem f => Sys2Proof.Machine.execRem f s
  | .remu f => Sys2Proof.Machine.execRemu f s
  | .and f => Sys2Proof.Machine.execAnd f s
  | .or f => Sys2Proof.Machine.execOr f s
  | .xor f => Sys2Proof.Machine.execXor f s
  | .not f => Sys2Proof.Machine.execNot f s
  | .andn f => Sys2Proof.Machine.execAndn f s
  | .lop3 f => Sys2Proof.Machine.execLop3 f s
  | .shl f => Sys2Proof.Machine.execShl f s
  | .shr f => Sys2Proof.Machine.execShr f s
  | .sra f => Sys2Proof.Machine.execSra f s
  | .rol f => Sys2Proof.Machine.execRol f s
  | .ror f => Sys2Proof.Machine.execRor f s
  | .bfx f => Sys2Proof.Machine.execBfx f s
  | .bfi f => Sys2Proof.Machine.execBfi f s
  | .popc f => Sys2Proof.Machine.execPopc f s
  | .clz f => Sys2Proof.Machine.execClz f s
  | .ctz f => Sys2Proof.Machine.execCtz f s
  | .brev f => Sys2Proof.Machine.execBrev f s
  | .bperm f => Sys2Proof.Machine.execBperm f s
  | .cmp c f => Sys2Proof.Machine.execCmp c f s
  | .mov f => Sys2Proof.Machine.execMov f s
  | .movi f => Sys2Proof.Machine.execMovi f s
  | .sel f => Sys2Proof.Machine.execSel f s
  | .sext f => Sys2Proof.Machine.execSext f s
  | .zext f => Sys2Proof.Machine.execZext f s
  | .lea f => Sys2Proof.Machine.execLea f s
  | .pand f => Sys2Proof.Machine.execPand f s
  | .por f => Sys2Proof.Machine.execPor f s
  | .pxor f => Sys2Proof.Machine.execPxor f s
  | .pnot f => Sys2Proof.Machine.execPnot f s
  | .pmfs f => Sys2Proof.Machine.execPmfs f s
  | .pmts f => Sys2Proof.Machine.execPmts f s
  | .shfl m f => Sys2Proof.Machine.execShfl m f s
  | .vany f => Sys2Proof.Machine.execVany f s
  | .vall f => Sys2Proof.Machine.execVall f s
  | .vbal f => Sys2Proof.Machine.execVbal f s
  | .vred op f => Sys2Proof.Machine.execVred op f s
  | .vscan excl op f => Sys2Proof.Machine.execVscan excl op f s
  | .vcomp f => Sys2Proof.Machine.execVcomp f s
  | .mfl f => Sys2Proof.Machine.execMfl f s
  | .mtl f => Sys2Proof.Machine.execMtl f s
  | .uadd f => Sys2Proof.Machine.execUadd f s
  | .usub f => Sys2Proof.Machine.execUsub f s
  | .umin f => Sys2Proof.Machine.execUmin f s
  | .umax f => Sys2Proof.Machine.execUmax f s
  | .umul f => Sys2Proof.Machine.execUmul f s
  | .umad f => Sys2Proof.Machine.execUmad f s
  | .uand f => Sys2Proof.Machine.execUand f s
  | .uor f => Sys2Proof.Machine.execUor f s
  | .uxor f => Sys2Proof.Machine.execUxor f s
  | .ushl f => Sys2Proof.Machine.execUshl f s
  | .ushr f => Sys2Proof.Machine.execUshr f s
  | .usra f => Sys2Proof.Machine.execUsra f s
  | .ubfx f => Sys2Proof.Machine.execUbfx f s
  | .ubfi f => Sys2Proof.Machine.execUbfi f s
  | .upopc f => Sys2Proof.Machine.execUpopc f s
  | .ucmp c f => Sys2Proof.Machine.execUcmp c f s
  | .umov f => Sys2Proof.Machine.execUmov f s
  | .umovi f => Sys2Proof.Machine.execUmovi f s
  | .ulea f => Sys2Proof.Machine.execUlea f s
  | .fadd f => Sys2Proof.Machine.execFadd f s
  | .fsub f => Sys2Proof.Machine.execFsub f s
  | .fmul f => Sys2Proof.Machine.execFmul f s
  | .ffma f => Sys2Proof.Machine.execFfma f s
  | .ffms f => Sys2Proof.Machine.execFfms f s
  | .fnma f => Sys2Proof.Machine.execFnma f s
  | .fmin f => Sys2Proof.Machine.execFmin f s
  | .fmax f => Sys2Proof.Machine.execFmax f s
  | .fcmp c f => Sys2Proof.Machine.execFcmp c f s
  | .fdiv f => Sys2Proof.Machine.execFdiv f s
  | .fsqrt f => Sys2Proof.Machine.execFsqrt f s
  | .frcp f => Sys2Proof.Machine.execFrcp f s
  | .frsq f => Sys2Proof.Machine.execFrsq f s
  | .fex2 f => Sys2Proof.Machine.execFex2 f s
  | .flg2 f => Sys2Proof.Machine.execFlg2 f s
  | .fsin f => Sys2Proof.Machine.execFsin f s
  | .fcos f => Sys2Proof.Machine.execFcos f s
  | .ftanh f => Sys2Proof.Machine.execFtanh f s
  | .frnd f => Sys2Proof.Machine.execFrnd f s
  | .ffrac f => Sys2Proof.Machine.execFfrac f s
  | .fclass f => Sys2Proof.Machine.execFclass f s
  | .fscale f => Sys2Proof.Machine.execFscale f s
  | .hadd2 f => Sys2Proof.Machine.execHadd2 f s
  | .hmul2 f => Sys2Proof.Machine.execHmul2 f s
  | .hfma2 f => Sys2Proof.Machine.execHfma2 f s
  | .hmin2 f => Sys2Proof.Machine.execHmin2 f s
  | .hmax2 f => Sys2Proof.Machine.execHmax2 f s
  | .cvt f => Sys2Proof.Machine.execCvt f s
  | .cvtpk f => Sys2Proof.Machine.execCvtpk f s
  | .cvtun f => Sys2Proof.Machine.execCvtun f s
  | .dp2Bf16 f => Sys2Proof.Machine.execDp2Bf16 f s
  | .dp2F16 f => Sys2Proof.Machine.execDp2F16 f s
  | .dp4E4m3 f => Sys2Proof.Machine.execDp4E4m3 f s
  | .dp4E5m2 f => Sys2Proof.Machine.execDp4E5m2 f s
  | .dp4Hs8 f => Sys2Proof.Machine.execDp4Hs8 f s
  | .dp8Hs4 f => Sys2Proof.Machine.execDp8Hs4 f s
  | .dp8E2m1 f => Sys2Proof.Machine.execDp8E2m1 f s
  | .dp4I8 f => Sys2Proof.Machine.execDp4I8 f s
  | .dp4N8 f => Sys2Proof.Machine.execDp4N8 f s
  | .mxs f => Sys2Proof.Machine.execMxs f s
  | .mzero f => Sys2Proof.Machine.execMzero f s
  | .mld f => Sys2Proof.Machine.execMld f s
  | .mst f => Sys2Proof.Machine.execMst f s
  | .mlaneGet f => Sys2Proof.Machine.execMlaneGet f s
  | .mlanePut f => Sys2Proof.Machine.execMlanePut f s
  | .mxlaneGet f => Sys2Proof.Machine.execMxlaneGet f s
  | .mxlanePut f => Sys2Proof.Machine.execMxlanePut f s
  | .mma f => Sys2Proof.Machine.execMma f s
  | .mmas f => Sys2Proof.Machine.execMmas f s
  | .mgath f => Sys2Proof.Machine.execMgath f s
  | .mcvt f => Sys2Proof.Machine.execMcvt f s
  | .madd f => Sys2Proof.Machine.execMadd f s
  | .mtr f => Sys2Proof.Machine.execMtr f s
  | .mrel f => Sys2Proof.Machine.execMrel f s
  | .lds f => Sys2Proof.Machine.execLds f s
  | .sts f => Sys2Proof.Machine.execSts f s
  | .atms op f => Sys2Proof.Machine.execAtms op f s
  | .pld f => Sys2Proof.Machine.execPld f s
  | .pst f => Sys2Proof.Machine.execPst f s
  | .wbind f => Sys2Proof.Machine.execWbind f s
  | .wtouch f => Sys2Proof.Machine.execWtouch f s
  | .wstat f => Sys2Proof.Machine.execWstat f s
  | .wunbind f => Sys2Proof.Machine.execWunbind f s
  | .qcfg f => Sys2Proof.Machine.execQcfg f s
  | .qpush f => Sys2Proof.Machine.execQpush f s
  | .qpushU f => Sys2Proof.Machine.execQpushU f s
  | .qpushTry f => Sys2Proof.Machine.execQpushTry f s
  | .qpop f => Sys2Proof.Machine.execQpop f s
  | .qpopU f => Sys2Proof.Machine.execQpopU f s
  | .qpopTry f => Sys2Proof.Machine.execQpopTry f s
  | .qclose f => Sys2Proof.Machine.execQclose f s
  | .qstat f => Sys2Proof.Machine.execQstat f s
  | .cinit f => Sys2Proof.Machine.execCinit f s
  | .carrive f => Sys2Proof.Machine.execCarrive f s
  | .carriveWait f => Sys2Proof.Machine.execCarriveWait f s
  | .cexpect f => Sys2Proof.Machine.execCexpect f s
  | .cwait f => Sys2Proof.Machine.execCwait f s
  | .ctest f => Sys2Proof.Machine.execCtest f s
  | .ld f => Sys2Proof.Machine.execLd f s
  | .st f => Sys2Proof.Machine.execSt f s
  | .ldu f => Sys2Proof.Machine.execLdu f s
  | .stu f => Sys2Proof.Machine.execStu f s
  | .pfh f => Sys2Proof.Machine.execPfh f s
  | .ldbf f => Sys2Proof.Machine.execLdbf f s
  | .mkbf f => Sys2Proof.Machine.execMkbf f s
  | .bfq f => Sys2Proof.Machine.execBfq f s
  | .wbl f => Sys2Proof.Machine.execWbl f s
  | .invl f => Sys2Proof.Machine.execInvl f s
  | .dharv f => Sys2Proof.Machine.execDharv f s
  | .rngw f => Sys2Proof.Machine.execRngw f s
  | .atm op f => Sys2Proof.Machine.execAtm op f s
  | .red op f => Sys2Proof.Machine.execRed op f s
  | .ldv f => Sys2Proof.Machine.execLdv f s
  | .verq f => Sys2Proof.Machine.execVerq f s
  | .casv f => Sys2Proof.Machine.execCasv f s
  | .vaddU f => Sys2Proof.Machine.execVaddU f s
  | .vadd f => Sys2Proof.Machine.execVadd f s
  | .vstc f => Sys2Proof.Machine.execVstc f s
  | .vcommit f => Sys2Proof.Machine.execVcommit f s
  | .tsload f => Sys2Proof.Machine.execTsload f s
  | .tsevict f => Sys2Proof.Machine.execTsevict f s
  | .cpyld f => Sys2Proof.Machine.execCpyld f s
  | .cpyst f => Sys2Proof.Machine.execCpyst f s
  | .cpyred op f => Sys2Proof.Machine.execCpyred op f s
  | .cpymc f => Sys2Proof.Machine.execCpymc f s
  | .cpyg f => Sys2Proof.Machine.execCpyg f s
  | .cpystripe f => Sys2Proof.Machine.execCpystripe f s
  | .cseal f => Sys2Proof.Machine.execCseal f s
  | .cwaitb f => Sys2Proof.Machine.execCwaitb f s
  | .cstat f => Sys2Proof.Machine.execCstat f s
  | .pdload f => Sys2Proof.Machine.execPdload f s
  | .pdloadTry f => Sys2Proof.Machine.execPdloadTry f s
  | .pdstart f => Sys2Proof.Machine.execPdstart f s
  | .pdstartCont f => Sys2Proof.Machine.execPdstartCont f s
  | .pdstat f => Sys2Proof.Machine.execPdstat f s
  | .endp mask => Sys2Proof.Machine.execEndp mask s
  | .rd d st n => Sys2Proof.Machine.execRd d st n s
  | .unp d st k => Sys2Proof.Machine.execUnp d st k s
  | .lut d a tb => Sys2Proof.Machine.execLut d a tb s
  | .tld tb st e => Sys2Proof.Machine.execTld tb st e s
  | .streamCvt d a dty sty pol rm => Sys2Proof.Machine.execStreamCvt d a dty sty pol rm s
  | .scl d a b rm => Sys2Proof.Machine.execScl d a b rm s
  | .push a land q => Sys2Proof.Machine.execPush a land q s
  | .waitc par addr => Sys2Proof.Machine.execWaitc par addr s
  | .streamLoop a target => Sys2Proof.Machine.execStreamLoop a target s
  | .streamAddShift d a b sh => Sys2Proof.Machine.execStreamAddShift d a b sh s
  | .streamAddImm d a imm => Sys2Proof.Machine.execStreamAddImm d a imm s
  | .wlapp f => Sys2Proof.Machine.execWlapp f s
  | .wlpop f => Sys2Proof.Machine.execWlpop f s
  | .wlquiet f => Sys2Proof.Machine.execWlquiet f s
  | .ibsess f => Sys2Proof.Machine.execIbsess f s
  | .ibsessTry f => Sys2Proof.Machine.execIbsessTry f s
  | .ibprog f => Sys2Proof.Machine.execIbprog f s
  | .ibvec f => Sys2Proof.Machine.execIbvec f s
  | .ibscale f => Sys2Proof.Machine.execIbscale f s
  | .ibscaleU f => Sys2Proof.Machine.execIbscaleU f s
  | .ibstep f => Sys2Proof.Machine.execIbstep f s
  | .ibstepReg f => Sys2Proof.Machine.execIbstepReg f s
  | .ibread f => Sys2Proof.Machine.execIbread f s
  | .ibfenceIn f => Sys2Proof.Machine.execIbfenceIn f s
  | .ibfenceOut f => Sys2Proof.Machine.execIbfenceOut f s
  | .ibstat f => Sys2Proof.Machine.execIbstat f s
  | .collAllred f => Sys2Proof.Machine.execCollAllred f s
  | .collRedscat f => Sys2Proof.Machine.execCollRedscat f s
  | .collAllgath f => Sys2Proof.Machine.execCollAllgath f s
  | .collBcast f => Sys2Proof.Machine.execCollBcast f s
  | .collBarrier f => Sys2Proof.Machine.execCollBarrier f s
  | .vwq f => Sys2Proof.Machine.execVwq f s
  | .vjoin f => Sys2Proof.Machine.execVjoin f s
  | .fnote f => Sys2Proof.Machine.execFnote f s
  | .fwait f => Sys2Proof.Machine.execFwait f s
  | .fwaitTry f => Sys2Proof.Machine.execFwaitTry f s
  | .mfsp f => Sys2Proof.Machine.execMfsp f s
  | .mtsp f => Sys2Proof.Machine.execMtsp f s
  | .mfsv f => Sys2Proof.Machine.execMfsv f s
  | .mtsv f => Sys2Proof.Machine.execMtsv f s
  | .nop => Sys2Proof.Machine.execNop s
  | .liveWord => Sys2Proof.Machine.execLiveWord s
  | .join => Sys2Proof.Machine.execJoin s
  | .exit => Sys2Proof.Machine.execExit s
  | .yield => Sys2Proof.Machine.execYield s
  | .frply => Sys2Proof.Machine.execFrply s
  | .vclr => Sys2Proof.Machine.execVclr s
  | .fenceDom => Sys2Proof.Machine.execFenceDom s
  | .fenceNc => Sys2Proof.Machine.execFenceNc s
  | .fenceSys => Sys2Proof.Machine.execFenceSys s
  | .pdstop => Sys2Proof.Machine.execPdstop s
  | .pdstopRel => Sys2Proof.Machine.execPdstopRel s
  | .wlquietReg => Sys2Proof.Machine.execWlquietReg s
  | .wlquietUnreg => Sys2Proof.Machine.execWlquietUnreg s
  | .ibend => Sys2Proof.Machine.execIbend s
  | .vack => Sys2Proof.Machine.execVack s
  | .trap => Sys2Proof.Machine.execTrap s
  | .tret => Sys2Proof.Machine.execTret s
  | .bkpt => Sys2Proof.Machine.execBkpt s
  | .halt => Sys2Proof.Machine.execHalt s
  | .pdefer => Sys2Proof.Machine.execPdefer s
  | .fragmentFuse r => Sys2Proof.Machine.execFragmentFuse r s
  | .napExpire r => Sys2Proof.Machine.execNapExpire r s
  | .windowCopyLanded team w => Sys2Proof.Machine.execWindowCopyLanded team w s
  | .claspUpdate team addr => Sys2Proof.Machine.execClaspUpdate team addr s
  | .homeLineAccess line act => Sys2Proof.Machine.execHomeLineAccess line act s
  | .redArrival die line op ty offset operand => Sys2Proof.Machine.execRedArrival die line op ty offset operand s
  | .signatureSquash core line => Sys2Proof.Machine.execSignatureSquash core line s
  | .l1Eviction core line => Sys2Proof.Machine.execL1Eviction core line s
  | .requestReplay requester seq => Sys2Proof.Machine.execRequestReplay requester seq s
  | .cachePowerGate core => Sys2Proof.Machine.execCachePowerGate core s
  | .cacheWake core => Sys2Proof.Machine.execCacheWake core s
  | .copyEntryGrant team => Sys2Proof.Machine.execCopyEntryGrant team s
  | .copyLineTransfer copy unit => Sys2Proof.Machine.execCopyLineTransfer copy unit s
  | .fragmentUnpark r => Sys2Proof.Machine.execFragmentUnpark r s
  | .copyComplete copy => Sys2Proof.Machine.execCopyComplete copy s
  | .copyFault copy cause addr => Sys2Proof.Machine.execCopyFault copy cause addr s
  | .tableLanded core tb => Sys2Proof.Machine.execTableLanded core tb s
  | .producerFault core cause addr => Sys2Proof.Machine.execProducerFault core cause addr s
  | .worklistQuiescent die => Sys2Proof.Machine.execWorklistQuiescent die s
  | .sessionGrant die => Sys2Proof.Machine.execSessionGrant die s
  | .ibfenceInFlip r => Sys2Proof.Machine.execIbfenceInFlip r s
  | .ibfenceOutFlip r => Sys2Proof.Machine.execIbfenceOutFlip r s
  | .sessionEnd team group => Sys2Proof.Machine.execSessionEnd team group s
  | .ibStep team group => Sys2Proof.Machine.execIbStep team group s
  | .ibWatchdogExpiry team group channel => Sys2Proof.Machine.execIbWatchdogExpiry team group channel s
  | .collectiveMessage coll sender tag body => Sys2Proof.Machine.execCollectiveMessage coll sender tag body s
  | .collectiveStragglerTimeout coll => Sys2Proof.Machine.execCollectiveStragglerTimeout coll s
  | .collectiveComplete coll => Sys2Proof.Machine.execCollectiveComplete coll s
  | .notificationArrival sender fctx tag value => Sys2Proof.Machine.execNotificationArrival sender fctx tag value s
  | .remoteRequestArrival sender seq tag line kind => Sys2Proof.Machine.execRemoteRequestArrival sender seq tag line kind s
  | .remoteReplyArrival req tag reply => Sys2Proof.Machine.execRemoteReplyArrival req tag reply s
  | .flitCrcReplay port => Sys2Proof.Machine.execFlitCrcReplay port s
  | .requestRetransmit req => Sys2Proof.Machine.execRequestRetransmit req s
  | .linkDown port => Sys2Proof.Machine.execLinkDown port s
  | .linkTraining port extensions full => Sys2Proof.Machine.execLinkTraining port extensions full s
  | .heartbeatSend => Sys2Proof.Machine.execHeartbeatSend s
  | .heartbeatReceive sender => Sys2Proof.Machine.execHeartbeatReceive sender s
  | .memberSuspect member => Sys2Proof.Machine.execMemberSuspect member s
  | .suspicion sender suspects => Sys2Proof.Machine.execSuspicion sender suspects s
  | .proposal sender members count => Sys2Proof.Machine.execProposal sender members count s
  | .accept sender count => Sys2Proof.Machine.execAccept sender count s
  | .commit sender members count => Sys2Proof.Machine.execCommit sender members count s
  | .exclusionTimeout => Sys2Proof.Machine.execExclusionTimeout s
  | .joinRequest sender session => Sys2Proof.Machine.execJoinRequest sender session s
  | .trapEntry r cause mask info => Sys2Proof.Machine.execTrapEntry r cause mask info s
  | .impreciseCauseDelivery r => Sys2Proof.Machine.execImpreciseCauseDelivery r s
  | .contextFaultTrap r => Sys2Proof.Machine.execContextFaultTrap r s
  | .fetchLine r flip => Sys2Proof.Machine.execFetchLine r flip s
  | .fetchLineRefetch r flip => Sys2Proof.Machine.execFetchLineRefetch r flip s
  | .portIssue core port => Sys2Proof.Machine.execPortIssue core port s
  | .instructionComplete team group id => Sys2Proof.Machine.execInstructionComplete team group id s
  | .fragmentPromote r => Sys2Proof.Machine.execFragmentPromote r s
  | .coreSwap core => Sys2Proof.Machine.execCoreSwap core s
  | .launchRecordTake ctx list => Sys2Proof.Machine.execLaunchRecordTake ctx list s
  | .teamPlace launch origin => Sys2Proof.Machine.execTeamPlace launch origin s
  | .teamRetire team => Sys2Proof.Machine.execTeamRetire team s
  | .launchComplete launch => Sys2Proof.Machine.execLaunchComplete launch s
  | .cretire core => Sys2Proof.Machine.execCretire core s
  | .coreRetireEffect core => Sys2Proof.Machine.execCoreRetireEffect core s
  | .tlbinv ctx value => Sys2Proof.Machine.execTlbinv ctx value s
  | .preemptRequest team => Sys2Proof.Machine.execPreemptRequest team s
  | .forcedStop team group => Sys2Proof.Machine.execForcedStop team group s
  | .teamDrain team => Sys2Proof.Machine.execTeamDrain team s
  | .imageWrite team => Sys2Proof.Machine.execImageWrite team s
  | .ctxres ctx value => Sys2Proof.Machine.execCtxres ctx value s
  | .imageRestore ctx slot core => Sys2Proof.Machine.execImageRestore ctx slot core s
  | .heldWritePlace => Sys2Proof.Machine.execHeldWritePlace s
  | .balloonReclaim => Sys2Proof.Machine.execBalloonReclaim s
  | .clockSweep => Sys2Proof.Machine.execClockSweep s
  | .evictedFrameReturn frame => Sys2Proof.Machine.execEvictedFrameReturn frame s
  | .reclaimTimeout => Sys2Proof.Machine.execReclaimTimeout s
  | .capcmdAssign count => Sys2Proof.Machine.execCapcmdAssign count s
  | .capcmdReturn count => Sys2Proof.Machine.execCapcmdReturn count s
  | .capcmdPin count => Sys2Proof.Machine.execCapcmdPin count s
  | .capcmdUnpin count => Sys2Proof.Machine.execCapcmdUnpin count s
  | .capcmdStripeOn count => Sys2Proof.Machine.execCapcmdStripeOn count s
  | .capcmdStripeOff count => Sys2Proof.Machine.execCapcmdStripeOff count s
  | .locketPrecopy => Sys2Proof.Machine.execLocketPrecopy s
  | .locketStopAndCopy => Sys2Proof.Machine.execLocketStopAndCopy s
  | .locketAbort => Sys2Proof.Machine.execLocketAbort s
  | .locketReceive => Sys2Proof.Machine.execLocketReceive s
  | .locketMessage seq body => Sys2Proof.Machine.execLocketMessage seq body s
  | .ownclaimClaim m prio nonce => Sys2Proof.Machine.execOwnclaimClaim m prio nonce s
  | .electionClose => Sys2Proof.Machine.execElectionClose s
  | .ownclaimHand m succ => Sys2Proof.Machine.execOwnclaimHand m succ s
  | .ownerPathTimeout => Sys2Proof.Machine.execOwnerPathTimeout s
  | .hostirqEnable en => Sys2Proof.Machine.execHostirqEnable en s
  | .hostAccess act => Sys2Proof.Machine.execHostAccess act s
  | .firmwareLoad version rsa slh => Sys2Proof.Machine.execFirmwareLoad version rsa slh s
  | .attestation nonce peer => Sys2Proof.Machine.execAttestation nonce peer s
  | .packageReset => Sys2Proof.Machine.execPackageReset s
  | .powerThrottle watts => Sys2Proof.Machine.execPowerThrottle watts s
  | .registerWrite m sreg value => Sys2Proof.Machine.execRegisterWrite m sreg value s
  | .locketAcknowledgement status => Sys2Proof.Machine.execLocketAcknowledgement status s
  | .preCopyRoundEnd => Sys2Proof.Machine.execPreCopyRoundEnd s
  | .scaleOutLinkFailure => Sys2Proof.Machine.execScaleOutLinkFailure s
  | .hostStoreAcknowledgement => Sys2Proof.Machine.execHostStoreAcknowledgement s
  | .joinRefusal sender => Sys2Proof.Machine.execJoinRefusal sender s

end Sys2Proof.Machine
end

