-- ==== Sys2Proof/Machine/Moves.lean ====
section
/-!
DEFINITION. Sys2Proof/Machine/Moves.lean: the moves that the machine can make of itself, which a free value picks from when the
agenda is empty; the turns of the agenda; and where a word lies that is to be fetched next.
-/

namespace Sys2Proof.Machine

/-- A move of the machine's own units. What the outside world does comes from the agenda alone. -/
inductive Move where
  | port (core port : Nat)
  | fetch (r : FragRef)
  | finish (r : FragRef)
  | producer (core : Nat)
  | table (core : Nat) (tb : Bool)
  | tableFault (core : Nat) (tb : Bool)
  | complete (team group id : Nat)
  | fuse (r : FragRef)
  | nap (r : FragRef)
  | unpark (r : FragRef)
  | promote (r : FragRef)
  | contextFault (r : FragRef)
  | clasp (team addr : Nat)
  | grantEntry (team : Nat)
  | copyLine (copy unit : Nat)
  | copyDone (copy : Nat)
  | copyFault (copy : Nat)
  | windowLanded (team w : Nat)
  | bankStep (team group : Nat)
  | bankEnd (team group : Nat)
  | watchdog (team group channel : Nat)
  | bankGrant (die : Nat)
  | fenceIn (r : FragRef)
  | fenceOut (r : FragRef)
  | quiet (die : Nat)
  | evict (core line : Nat)
  | collective (coll : Nat)
  | straggler (coll : Nat)
  | suspect (member : Nat)
  | propose
  | install
  | exclude
  | resend (req : Nat)
  | heartbeat
  /-- requests of peers that waited at their homes -/
  | peers
  | heldWrite
  | balloon
  | sweep
  | frameBack (frame : Nat)
  | reclaimTimeout
  | record (ctx list : Nat)
  | place (launch origin : Nat)
  | retire (team : Nat)
  | launchDone (launch : Nat)
  | coreRetire (core : Nat)
  | swap (core : Nat)
  | forced (team group : Nat)
  | drain (team : Nat)
  | save (team : Nat)
  | restore (ctx slot core : Nat)
  | election
  | ownerTimeout
  | locketRound
deriving DecidableEq, Repr

/-- Every fragment on the cores. -/
def State.refs (s : State) : List FragRef :=
  s.teams.flatMap (fun t => t.2.groups.flatMap (fun g => g.2.frags.map (fun f => ⟨t.1, g.1, f.1⟩)))

/-- The moves of issue, of groups and of copies. -/
def State.groupMoves (s : State) : List Move :=
  let cores := sortNats (s.teams.map (fun t => t.2.core))
  cores.flatMap (fun c => (List.range 4).map (Move.port c))
    ++ s.refs.flatMap (fun r => [.fetch r, .finish r, .fuse r, .nap r, .unpark r, .promote r, .contextFault r])
    ++ s.teams.flatMap (fun t => t.2.groups.flatMap (fun g => g.2.inflight.map (fun i => .complete t.1 g.1 i.1)))
    ++ s.teams.flatMap (fun t => .grantEntry t.1 :: t.2.landings.map (fun l => .clasp t.1 l.addr))
    ++ s.copies.flatMap (fun c =>
      [.copyDone c.1, .copyFault c.1] ++ c.2.todo.map (Move.copyLine c.1)
        ++ (match c.2.kind with | .window w => [.windowLanded c.2.team w] | _ => []))
    ++ s.producers.flatMap (fun p =>
      [.producer p.1, .table p.1 false, .table p.1 true, .tableFault p.1 false, .tableFault p.1 true])

/-- The moves of sessions, fences, worklists, caches and the fabric. -/
def State.unitMoves (s : State) : List Move :=
  s.sessions.flatMap (fun x => [.bankStep x.team x.group, .bankEnd x.team x.group]
      ++ (channelsOf x.mask).map (fun i => .watchdog x.team x.group (i / 2)))
    ++ (List.range 4).flatMap (fun d => [.bankGrant d, .quiet d])
    ++ s.bankFences.flatMap (fun f => [.fenceIn f.ref, .fenceOut f.ref])
    ++ s.nc.flatMap (fun c => c.2.map (fun l => .evict c.1 l.1))
    ++ s.colls.flatMap (fun c => [.collective c.1, .straggler c.1])
    ++ (membersOf s.members).map Move.suspect
    ++ s.reqs.map (fun r => .resend r.1)
    ++ [.propose, .install, .exclude, .heartbeat, .peers, .heldWrite, .balloon, .sweep, .reclaimTimeout, .election, .ownerTimeout, .locketRound]
    ++ (s.frames.filter (fun f => f.2.state == .evicted)).map (fun f => .frameBack f.1)

/-- The moves of the scheduler. -/
def State.schedulerMoves (s : State) : List Move :=
  s.ctxs.flatMap (fun c => (List.range 4).map (Move.record c.1))
    ++ s.launches.flatMap (fun l => .launchDone l.1 :: (List.range 256).map (Move.place l.1))
    ++ s.teams.flatMap (fun t => [.retire t.1, .drain t.1, .save t.1] ++ t.2.groups.map (fun g => .forced t.1 g.1))
    ++ s.retiring.map Move.coreRetire
    ++ (sortNats (s.teams.map (fun t => t.2.core))).map Move.swap
    ++ s.waiting.flatMap (fun w => (List.range 256).map (Move.restore w.1 w.2))

/-- A cause that a copy meets, and its address: at a line to move, at a source line to read, or in a peer's refusal. -/
def State.copyStop (s : State) (id : Nat) : Option (BitVec 9 × Nat) :=
  let c := s.copyOf id
  let stop : CopyStep → Option (BitVec 9 × Nat)
    | .fault k a => some (k, a)
    | _ => none
  match c.todo.findSome? (fun u => stop (s.copyUnit id u)) with
  | some x => some x
  | none =>
    match s.copyRefused id with
    | some x => some x
    | none =>
      if c.kind.fromSp && c.todo.isEmpty then stop (s.readSources id ((List.range c.boxLines).map (· + c.sp / 128))) else none

/-- The meaning of a move. -/
def State.move (s : State) : Move → Res
  | .port c p => execPortIssue c p s
  | .fetch r => if (s.fragAt r).refetch then execFetchLineRefetch r 0 s else execFetchLine r 0 s
  | .finish r => if s.finishes r then s.issueSlot exec r else .next s
  | .producer c => s.producerTurn exec c
  | .table c b => execTableLanded c b s
  | .tableFault c b =>
    match s.loadTable c b with
    | .fault k a => execProducerFault c k.toNat a.toNat s
    | _ => .next s
  | .complete t g i => execInstructionComplete t g i s
  | .fuse r => execFragmentFuse r s
  | .nap r => execNapExpire r s
  | .unpark r => execFragmentUnpark r s
  | .promote r => execFragmentPromote r s
  | .contextFault r => execContextFaultTrap r s
  | .clasp t a => execClaspUpdate t a s
  | .grantEntry t => execCopyEntryGrant t s
  | .copyLine c u => execCopyLineTransfer c u s
  | .copyDone c => execCopyComplete c s
  | .copyFault c => match s.copyStop c with | some x => execCopyFault c x.1.toNat x.2 s | none => .next s
  | .windowLanded t w => execWindowCopyLanded t w s
  | .bankStep t g => execIbStep t g s
  | .bankEnd t g => execSessionEnd t g s
  | .watchdog t g c => execIbWatchdogExpiry t g c s
  | .bankGrant d => execSessionGrant d s
  | .fenceIn r => execIbfenceInFlip r s
  | .fenceOut r => execIbfenceOutFlip r s
  | .quiet d => execWorklistQuiescent d s
  | .evict c l => execL1Eviction c l s
  | .collective c => execCollectiveComplete c s
  | .straggler c => execCollectiveStragglerTimeout c s
  | .suspect m => execMemberSuspect m s
  | .propose =>
    let x := s.nextView
    if (s.proposing.map (·.1)) = some ⟨s.selfPkg, x.1, x.2⟩ then .next s else execProposal s.selfPkg x.1 x.2 s
  | .install => match s.proposing with | some p => execCommit s.selfPkg p.1.members p.1.count s | none => .next s
  | .exclude => execExclusionTimeout s
  | .resend r => execRequestRetransmit r s
  | .heartbeat => execHeartbeatSend s
  | .peers => .next s.retryRequests
  | .heldWrite => execHeldWritePlace s
  | .balloon => execBalloonReclaim s
  | .sweep => execClockSweep s
  | .frameBack f => execEvictedFrameReturn f s
  | .reclaimTimeout => execReclaimTimeout s
  | .record c l => execLaunchRecordTake c l s
  | .place l o => execTeamPlace l o s
  | .retire t => execTeamRetire t s
  | .launchDone l => execLaunchComplete l s
  | .coreRetire c => execCoreRetireEffect (BitVec.ofNat 8 c) s
  | .swap c => execCoreSwap c s
  | .forced t g => execForcedStop t g s
  | .drain t => execTeamDrain t s
  | .save t => execImageWrite t s
  | .restore c k o => execImageRestore c k o s
  | .election => execElectionClose s
  | .ownerTimeout => execOwnerPathTimeout s
  | .locketRound => execPreCopyRoundEnd s

/-- The moves among which a free value picks. -/
def State.moves (s : State) : List Move := s.groupMoves ++ s.unitMoves ++ s.schedulerMoves

/-- The move that a free value picks (DESIGN CHOICE, log 2). -/
def State.picked (s : State) : Res :=
  let l := s.moves
  match l[Config.pick s.tick % l.length]? with
  | none => .next s
  | some m => s.move m

/-- A turn of the agenda. -/
def State.turn (s : State) : Turn → Res
  | .outside x => .next (s.outside x)
  | .slot r => s.issueSlot exec r
  | .producer core => s.producerTurn exec core
  | .event i => if i.isEvent then exec i s else .fault .badTurn

/-! ## A word to be fetched next -/

/-- A fetch line that holds a slot, a live word after it and zero slots, with every slot marked, flagA 1 and flagB 2, no wait and
both parity bits right (R43, R44). -/
def lineWith (w : BitVec 96) : BitVec 512 :=
  let low : BitVec 31 := 0x000043E0 ||| 0x00000800
  let p1 := oddParity (w ++ (0 : BitVec 96) ++ (0xFF0000000000000000000000 : BitVec 96)).toNat
  let p0 := oddParity low.toNat
  let word : BitVec 32 := low.setWidth 32 ||| (if p1 then 0x80000000 else 0) ||| (if p0 then 0x40000000 else 0)
  word ++ (0 : BitVec 288) ++ (0xFF0000000000000000000000 : BitVec 96) ++ w

/-- The page tables of a context that maps the first GiB of addresses to the same machine addresses, for every access. -/
def placeTables (m : Map Byte) : Map Byte :=
  let put (m : Map Byte) (a x : Nat) : Map Byte := Map.setBytes m a (bytesOfNat 8 x)
  put (put (put m 0x20000 0x21001) 0x21000 0x22001) 0x22000 0x1F

/-- A team with one group of 32 lanes whose fragment is about to fetch the line at 0x10000. -/
def readyTeam (core : Nat) : Team :=
  let f : Frag := { nullFrag with om := 0xFFFFFFFF, em := 0xFFFFFFFF, pc := 0x10000 }
  let g : Group := { nullGroup with owned := 0xFFFFFFFF, sys := true, frags := [(0, f)] }
  { nullTeam with
    ctx := 1, core := core, lanes := 32, groupCount := 1, vblocks := 32, uregs := 64, tileUnits := 16, spSize := 32768
    entries := 8, copyq := 8, slots := 8, launchRec := { nullRecord with entry := 0x10000 }, groups := [(0, g)] }

/-- The package with a context, its tables and a team on core 0, all memory plain, as a loader would leave it. -/
def State.loaded (s : State) : State :=
  let c : Ctx := { nullCtx with owner := true, sregs := [(0x404, 0xFFFFFFFFFFFFFFFF), (0x405, 0x20000)] }
  { s.setPreg 0x810 0x0000008000000000 with
    ctxs := Map.put s.ctxs 1 c
    mem := placeTables s.mem
    teams := Map.put s.teams s.nextTeam (readyTeam 0)
    nextTeam := s.nextTeam + 1 }

/-- A 96-bit slot in a fetch line that the next step fetches; a 32-bit micro-operation as the program of core 0's producer. -/
def State.withWord (s : State) (nbits w : Nat) : State :=
  let t := s.loaded
  if nbits ≤ 32 then
    let p : Producer := { nullProducer with team := s.nextTeam, store := Map.put [] 0 (BitVec.ofNat 32 w), n := 1, state := 2 }
    { t with producers := Map.put t.producers 0 p, agenda := [(.producer 0, 0)] }
  else
    { t with
      mem := Map.setBytes t.mem 0x10000 (bytesOfNat 64 (lineWith (BitVec.ofNat 96 w)).toNat)
      agenda := [(.slot ⟨s.nextTeam, 0, 0⟩, 0)] }

end Sys2Proof.Machine
end

