-- ==== Sys2Proof/Machine/Step.lean ====
section
/-!
DEFINITION. Sys2Proof/Machine/Step.lean: one step of the package. The agenda says what moves next, and after how many core cycles;
when it is empty, free values say both.
-/

namespace Sys2Proof.Machine

/-- One step. -/
def step (s : State) : Res :=
  match s.agenda with
  | [] => State.picked { s with now := s.now + Config.elapsed s.tick, tick := s.tick + 1 }
  | (t, dt) :: rest => State.turn { s with agenda := rest, now := s.now + dt, tick := s.tick + 1 } t

/-- The state in which an instruction with these bits is what the next step fetches and runs. -/
def State.withFetchWord (s : State) (nbits w : Nat) : State := s.withWord nbits w

end Sys2Proof.Machine
end

