-- ==== Sys2Proof/Safety.lean ====
section
/-!
DEFINITION. Sys2Proof/Safety.lean: the terms in which claims speak: the canonical form of memory, when a slot passes its checks and
takes effect, what a register holds after it, and what it leaves alone.
-/

namespace Sys2Proof.Machine

/-- The canonical form of memory: addresses strictly rising and no entry equal to what an unlisted byte reads as (DESIGN CHOICE, log 1). -/
def Memory.wf (m : Map Byte) : Bool := Map.wf 0 m

/-- One byte of machine memory. -/
def State.byteAt (s : State) (a : Nat) : Byte := Map.get 0 s.mem a

/-- The invariant that every step keeps: equal contents of memory are equal data. -/
def State.Canonical (s : State) : Prop := Memory.wf s.mem = true

/-- The executing slot takes effect: it passes the checks of R65 and R121 and the allotment of R120, its flag does not hold 63
(R51), no register that it reads or writes is pending (R53) and no shape slot that it reads is being loaded (R229). `u` is what the instruction reads and writes. -/
structure State.Issues (s : State) (i : Instr) (u : Uses) : Prop where
  checks : s.slotCause i = none
  allotted : s.ct.firstBeyond u = none
  room : s.flagFull = false
  free : s.cg.interlocked s.cur.hdr u = false
  shapes : s.ct.shapeHeld u = false

/-- No pre-emption stops the group after this slot: it is no safe point (R61, R64), or none is requested. -/
def State.GoesOn (s : State) : Prop := s.stopAfter = none ∨ s.ct.request = none

/-- A result of a type in a lane (R122): a pair for a 64-bit type, else 32 bits extended from the type's width by its sign. -/
def Group.Holds (g : Group) (t : Ty) (d l x : Nat) : Prop :=
  if Ty.bits t = 64 then g.vpair d l = BitVec.ofNat 64 x else g.vreg d l = BitVec.ofInt 32 (Ty.intOf t x)

/-- A group without what a slot that writes registers may change: its registers and predicates, its flags and in-flight records,
its entries and its stop. -/
def Group.rest (g : Group) : Group := { g with v := [], s := [], p := [], k := [], inflight := [], frags := [], stop := none }

/-- A team without its groups. -/
def Team.rest (t : Team) : Team := { t with groups := [] }

/-- The package without its teams. -/
def State.rest (s : State) : State := { s with teams := [] }

/-- Nothing outside the executing group changes: no other group, team, register of the package, or byte of memory. -/
structure GroupOnly (s t : State) : Prop where
  outside : t.rest = s.rest
  memory : ∀ a, t.byteAt a = s.byteAt a
  otherTeams : ∀ k, k ≠ s.cur.ref.team → t.teamOf k = s.teamOf k
  team : t.ct.rest = s.ct.rest
  otherGroups : ∀ k, k ≠ s.cur.ref.group → t.ct.groupOf k = s.ct.groupOf k

/-- What a slot that writes only registers leaves alone: nothing outside its group changes, no register but those named, and
those only in the lanes named; the fragment goes on at a slot; the flag attached to counts one more; the registers written
are pending (R49, R53, R57). -/
structure RegsOnly (s t : State) (lanes : List Nat) (written : List Reg) (pc : CodePtr) : Prop where
  only : GroupOnly s t
  group : t.cg.rest = s.cg.rest
  vectors : ∀ r l, l < 64 → (Reg.v r ∉ written ∨ l ∉ lanes) → t.cg.vreg r l = s.cg.vreg r l
  uniforms : ∀ r, Reg.s r ∉ written → t.cg.ureg r = s.cg.ureg r
  predicates : ∀ k l, k < 7 → l < 64 → (Reg.p k ∉ written ∨ l ∉ lanes) →
    (t.cg.pred k).getLsbD l = (s.cg.pred k).getLsbD l
  flags : s.GoesOn → ∀ k, t.cg.flag k = s.cg.flag k + (if s.attached = some k then 1 else 0)
  pending : s.GoesOn → ∀ r ∈ written, r ∈ t.cg.pendingRegs
  goesOn : s.GoesOn → t.cg.stop = s.cg.stop
  otherFrags : ∀ e, e ≠ s.cur.ref.entry → t.cg.fragOf e = s.cg.fragOf e
  fragment : t.cf = s.cf.goTo pc

/-- A slot that changes no register, and the fragment goes on in sequence. -/
def NothingElse (s t : State) : Prop := RegsOnly s t [] [] (nextPc s.cf.pc)

end Sys2Proof.Machine
end

