-- ==== Sys2Proof/Certificates/Slice0/Obligations.lean ====
section
/-!
DEFINITION. Sys2Proof/Certificates/Slice0/Obligations.lean: the statements for the provers, from the numbered rules of the manual, in
the terms of Sys2Proof/Safety.lean.
-/

namespace Sys2Proof.Machine.Claims

/-! ## Forms of statements -/

/-- The registers that a result of a type covers: a pair for a 64-bit type (R15, R121). -/
def dest (t : Ty) (d : BitVec 8) : List Reg := vregs d.toNat (if Ty.bits t = 64 then 2 else 1)

/-- A slot that takes effect completes with a result of a type in every participating lane, and changes nothing else (R122, R124). -/
def LaneResult (s : State) (i : Instr) (u : Uses) (t : Ty) (d : BitVec 8) (x : Nat → Nat) : Prop :=
  s.Issues i u → ∃ t', exec i s = .next t' ∧ RegsOnly s t' s.lanes (dest t d) (nextPc s.cf.pc) ∧
    ∀ l ∈ s.lanes, t'.cg.Holds t d.toNat l (x l)

/-- A slot that takes effect completes with a predicate in every participating lane, and changes nothing else (R57, R117). -/
def PredResult (s : State) (i : Instr) (u : Uses) (d : BitVec 8) (p : Nat → Bool) : Prop :=
  s.Issues i u → ∃ t', exec i s = .next t' ∧ RegsOnly s t' s.lanes (predReg d) (nextPc s.cf.pc) ∧
    ∀ l ∈ s.lanes, (t'.cg.pred d.toNat).getLsbD l = p l

/-- A slot that takes effect completes with a value in a uniform register, and changes nothing else. -/
def UniformResult (s : State) (i : Instr) (u : Uses) (d : BitVec 8) (x : DWord) : Prop :=
  s.Issues i u → ∃ t', exec i s = .next t' ∧ RegsOnly s t' [] [.s d.toNat] (nextPc s.cf.pc) ∧ t'.cg.ureg d.toNat = x

/-- The same for an instruction marked *any* (R93): where no lane takes part under a predicate, the fragment goes on and nothing
else changes. -/
def AnyUniformResult (s : State) (i : Instr) (u : Uses) (d : BitVec 8) (x : DWord) : Prop :=
  s.Issues i u → ∃ t', exec i s = .next t' ∧
    if s.actsAny then RegsOnly s t' [] [.s d.toNat] (nextPc s.cf.pc) ∧ t'.cg.ureg d.toNat = x else NothingElse s t'

/-! ## Operands as numbers (R122) -/

/-- A, B and C of a lane as patterns of the instruction's type. -/
def a (s : State) (f : FmtA) (l : Nat) : Nat := s.cg.regI f.ty f.a.toNat l
def b (s : State) (f : FmtA) (l : Nat) : Nat := s.cg.srcI f l
def c (s : State) (f : FmtA) (l : Nat) : Nat := s.cg.regI f.ty f.c.toNat l

/-- The b operand where it is one 32-bit value whatever the type (R121). -/
def n (s : State) (f : FmtA) (l : Nat) : Nat := s.cg.src32 f l

/-- A, B and C as integers of the instruction's type. -/
def A (s : State) (f : FmtA) (l : Nat) : Int := Ty.intOf f.ty (a s f l)
def B (s : State) (f : FmtA) (l : Nat) : Int := Ty.intOf f.ty (b s f l)
def C (s : State) (f : FmtA) (l : Nat) : Int := Ty.intOf f.ty (c s f l)

/-- A source predicate of a lane, exclusive-or its md bit; 7 is true in every lane (R117). -/
def P (s : State) (r : BitVec 8) (neg : Bool) (l : Nat) : Bool := (s.cg.pred r.toNat).getLsbD l != neg

/-- w: the width of the instruction's type. -/
def w (f : FmtA) : Nat := Ty.bits f.ty

end Sys2Proof.Machine.Claims

open Sys2Proof Sys2Proof.Machine Sys2Proof.Machine.Claims

/-! ## Integer lanes (R125 to R136) -/

/-- R125: the exact sum, difference, smaller, larger, absolute value and negation, made to fit.
R126: the carry comes in from c, exclusive-or nc, and goes out to it uninverted; c = 7 gives none and takes none. -/
def Obligations.SumsAndCarries : Prop :=
  (∀ (s : State) (f : FmtA),
      LaneResult s (.add f) (usesDAB f) f.ty f.d (fun l => Ty.fit f.ty f.sat (A s f l + B s f l)) ∧
      LaneResult s (.sub f) (usesDAB f) f.ty f.d (fun l => Ty.fit f.ty f.sat (A s f l - B s f l)) ∧
      LaneResult s (.min f) (usesDAB f) f.ty f.d (fun l => Ty.wrap f.ty (min (A s f l) (B s f l))) ∧
      LaneResult s (.max f) (usesDAB f) f.ty f.d (fun l => Ty.wrap f.ty (max (A s f l) (B s f l))) ∧
      LaneResult s (.abs f) (usesDA f) f.ty f.d (fun l => Ty.fit f.ty f.sat (A s f l).natAbs) ∧
      LaneResult s (.neg f) (usesDA f) f.ty f.d (fun l => Ty.fit f.ty f.sat (- A s f l))) ∧
  (∀ (s : State) (f : FmtA),
      let cin := fun l => if f.c.toNat = 7 then (0 : Nat) else (P s f.c f.nc l).toNat
      let u := (usesDAB f).and (predReg f.c) (predReg f.c)
      (s.Issues (.addc f) u → ∃ t, exec (.addc f) s = .next t ∧
        RegsOnly s t s.lanes (dest f.ty f.d ++ predReg f.c) (nextPc s.cf.pc) ∧
        ∀ l ∈ s.lanes,
          t.cg.Holds f.ty f.d.toNat l ((a s f l + b s f l + cin l) % 2 ^ w f) ∧
          (f.c.toNat < 7 → (t.cg.pred f.c.toNat).getLsbD l = decide (2 ^ w f ≤ a s f l + b s f l + cin l))) ∧
      (s.Issues (.subb f) u → ∃ t, exec (.subb f) s = .next t ∧
        RegsOnly s t s.lanes (dest f.ty f.d ++ predReg f.c) (nextPc s.cf.pc) ∧
        ∀ l ∈ s.lanes,
          t.cg.Holds f.ty f.d.toNat l ((2 ^ (w f + 1) + a s f l - b s f l - cin l) % 2 ^ w f) ∧
          (f.c.toNat < 7 → (t.cg.pred f.c.toNat).getLsbD l = decide (a s f l < b s f l + cin l))))

/-- R127: products, high halves, sums of products, and the widening one; each exact before it is made to fit.
R128: division truncates toward zero; by zero the quotient is all ones and the remainder is the dividend; the most negative
number divided by -1 gives itself or, with sat, the greatest number, and remainder 0. -/
def Obligations.ProductsAndQuotients : Prop :=
  (∀ (s : State) (f : FmtA),
      let wide : Ty := if Ty.signed f.ty then .i64 else .n64
      LaneResult s (.mul f) (usesDAB f) f.ty f.d (fun l => Ty.fit f.ty f.sat (A s f l * B s f l)) ∧
      LaneResult s (.mulh f) (usesDAB f) f.ty f.d (fun l => Ty.wrap f.ty (A s f l * B s f l / 2 ^ w f)) ∧
      LaneResult s (.mulhu f) (usesDAB f) f.ty f.d (fun l => Ty.wrap f.ty (A s f l * B s f l / 2 ^ w f)) ∧
      LaneResult s (.mad f) ((usesDAB f).and (regsOf f.ty f.c) []) f.ty f.d
        (fun l => Ty.fit f.ty f.sat (A s f l * B s f l + C s f l)) ∧
      LaneResult s (.madw f) { reads := .v f.a.toNat :: useB f false ++ vregs f.c.toNat 2, writes := vregs f.d.toNat 2 } wide f.d
        (fun l => Ty.fit wide f.sat (A s f l * B s f l + Ty.intOf wide (s.cg.vpair f.c.toNat l).toNat))) ∧
  (∀ (s : State) (f : FmtA),
      let edge := fun l => Ty.signed f.ty = true ∧ A s f l = Ty.minInt f.ty ∧ B s f l = -1
      let q := fun (sat : Bool) (l : Nat) =>
        if b s f l = 0 then 2 ^ w f - 1
        else if edge l then Ty.wrap f.ty (if sat then Ty.maxInt f.ty else Ty.minInt f.ty)
        else Ty.wrap f.ty ((A s f l).tdiv (B s f l))
      let r := fun l => if b s f l = 0 then a s f l else if edge l then 0 else Ty.wrap f.ty ((A s f l).tmod (B s f l))
      LaneResult s (.div f) (usesDAB f) f.ty f.d (q f.sat) ∧ LaneResult s (.divu f) (usesDAB f) f.ty f.d (q false) ∧
      LaneResult s (.rem f) (usesDAB f) f.ty f.d r ∧ LaneResult s (.remu f) (usesDAB f) f.ty f.d r)

/-- R129, R130, R131: logic by bits; `lop3` reads its table at the row A + 2 B + 4 C of each bit; shifts and rotations by the
unsigned 32-bit count, with the widths that R131 gives counts of w and more. -/
def Obligations.LaneLogicAndShifts : Prop :=
  ∀ (s : State) (f : FmtA), ∃ x : Instr → Nat → Nat,
    LaneResult s (.and f) (usesDAB f) f.ty f.d (x (.and f)) ∧
    LaneResult s (.or f) (usesDAB f) f.ty f.d (x (.or f)) ∧
    LaneResult s (.xor f) (usesDAB f) f.ty f.d (x (.xor f)) ∧
    LaneResult s (.not f) (usesDA f) f.ty f.d (x (.not f)) ∧
    LaneResult s (.andn f) (usesDAB f) f.ty f.d (x (.andn f)) ∧
    LaneResult s (.lop3 f) ((usesDAB f).and (regsOf f.ty f.c) []) f.ty f.d (x (.lop3 f)) ∧
    LaneResult s (.shl f) (usesDAb f) f.ty f.d (x (.shl f)) ∧
    LaneResult s (.shr f) (usesDAb f) f.ty f.d (x (.shr f)) ∧
    LaneResult s (.sra f) (usesDAb f) f.ty f.d (x (.sra f)) ∧
    LaneResult s (.rol f) (usesDAb f) f.ty f.d (x (.rol f)) ∧
    LaneResult s (.ror f) (usesDAb f) f.ty f.d (x (.ror f)) ∧
    ∀ l i, i < w f →
      let p := fun j => (a s f l).testBit j
      let q := (b s f l).testBit i
      let r := (c s f l).testBit i
      let k := n s f l
      (x (.and f) l).testBit i = (p i && q) ∧ (x (.or f) l).testBit i = (p i || q) ∧
      (x (.xor f) l).testBit i = (p i != q) ∧ (x (.not f) l).testBit i = !p i ∧
      (x (.andn f) l).testBit i = (p i && !q) ∧
      (x (.lop3 f) l).testBit i = f.imm.getLsbD ((p i).toNat + 2 * q.toNat + 4 * r.toNat) ∧
      (x (.shl f) l).testBit i = (decide (k ≤ i) && p (i - k)) ∧
      (x (.shr f) l).testBit i = (decide (i + k < w f) && p (i + k)) ∧
      (x (.sra f) l).testBit i = p (if i + k < w f then i + k else w f - 1) ∧
      (x (.rol f) l).testBit i = p ((i + w f - k % w f) % w f) ∧
      (x (.ror f) l).testBit i = p ((i + k % w f) % w f)

/-- R132, R133: the field of `bfx` and `bfi` lies from pos = B[7:0] for len = B[15:8] bits, cut at the width, and is empty where
len is 0 or pos is w or more; counts of bits go to one register; `bperm` chooses each byte by its control byte. -/
def Obligations.LaneBitFields : Prop :=
  ∀ (s : State) (f : FmtA),
    let pos := fun l => n s f l % 256
    let len := fun l => if pos l < w f then min (n s f l / 256 % 256) (w f - pos l) else 0
    let fld := fun l => a s f l / 2 ^ pos l % 2 ^ len l
    LaneResult s (.bfx f) (usesDAb f) f.ty f.d (fun l =>
      if len l = 0 then 0
      else if Ty.signed f.ty = true ∧ (fld l).testBit (len l - 1) = true then fld l + 2 ^ w f - 2 ^ len l
      else fld l) ∧
    LaneResult s (.bfi f) ((usesDAb f).and (regsOf f.ty f.c) []) f.ty f.d (fun l =>
      if len l = 0 then a s f l
      else a s f l - fld l * 2 ^ pos l + c s f l % 2 ^ len l * 2 ^ pos l) ∧
    LaneResult s (.popc f) (usesCount f) .n32 f.d (fun l => ((List.range (w f)).filter (a s f l).testBit).length) ∧
    LaneResult s (.clz f) (usesCount f) .n32 f.d (fun l => if a s f l = 0 then w f else w f - 1 - Nat.log2 (a s f l)) ∧
    LaneResult s (.ctz f) (usesCount f) .n32 f.d (fun l => ((List.range (w f)).find? (a s f l).testBit).getD (w f)) ∧
    (∃ x : Nat → Nat, LaneResult s (.brev f) (usesDA f) f.ty f.d x ∧
      ∀ l i, i < w f → (x l).testBit i = (a s f l).testBit (w f - 1 - i)) ∧
    (f.ty = .n32 → ∃ x : Nat → Nat, LaneResult s (.bperm f) ((usesDAB f).and (regsOf f.ty f.c) []) f.ty f.d x ∧
      ∀ l i, i < 4 →
        let ctl := b s f l / 256 ^ i % 256
        let src := (a s f l + 2 ^ 32 * c s f l) / 256 ^ (ctl % 8) % 256
        x l / 256 ^ i % 256 =
          match ctl / 8 % 4 with
          | 0 => src
          | 1 => 0
          | 2 => if src < 128 then 0 else 255
          | _ => 255 - src)

/-- R134, R135: comparisons write a predicate, and with another one; moves, the choice by a predicate, extensions and the scaled sum.
R136: predicate logic, and all predicates to and from a vector register. -/
def Obligations.CompareMoveAndPredicates : Prop :=
  (∀ (s : State) (f : FmtA),
      let ext : Ty := if Ty.bits f.ty = 32 then (if Ty.signed f.ty then .i64 else .n64) else f.ty
      let cmp := fun (k : Cond) (l : Nat) =>
        match k with
        | .eq => decide (A s f l = B s f l)
        | .ne => decide (A s f l ≠ B s f l)
        | .lt => decide (A s f l < B s f l)
        | .le => decide (A s f l ≤ B s f l)
        | .gt => decide (A s f l > B s f l)
        | .ge => decide (A s f l ≥ B s f l)
      (∀ k, f.d.toNat < 7 →
        PredResult s (.cmp k f) { reads := regsOf f.ty f.a ++ useB f (Ty.bits f.ty == 64) ++ predReg f.c, writes := predReg f.d } f.d
          (fun l => cmp k l && P s f.c f.nc l)) ∧
      LaneResult s (.mov f) { reads := useB f (Ty.bits f.ty == 64), writes := regsOf f.ty f.d } f.ty f.d (b s f) ∧
      LaneResult s (.movi f) { writes := regsOf f.ty f.d } f.ty f.d (b s f) ∧
      LaneResult s (.sel f) ((usesDAB f).and (predReg f.c) []) f.ty f.d (fun l => if P s f.c f.nc l then a s f l else b s f l) ∧
      LaneResult s (.sext f) { reads := [.v f.a.toNat], writes := extRegs f } ext f.d (fun l => Ty.wrap ext (A s f l)) ∧
      LaneResult s (.zext f) { reads := [.v f.a.toNat], writes := extRegs f } ext f.d (fun l => Ty.wrap ext (A s f l)) ∧
      LaneResult s (.lea f) (usesDAb f) f.ty f.d (fun l =>
        Ty.wrap f.ty (A s f l + (if Ty.signed f.ty then Ty.intOf .i32 (n s f l) else (n s f l : Int)) * 2 ^ f.c.toNat))) ∧
  (∀ (s : State) (f : FmtA),
      (f.d.toNat < 7 →
        PredResult s (.pand f) (usesPP f) f.d (fun l => P s f.a f.na l && P s f.b f.nb l) ∧
        PredResult s (.por f) (usesPP f) f.d (fun l => P s f.a f.na l || P s f.b f.nb l) ∧
        PredResult s (.pxor f) (usesPP f) f.d (fun l => P s f.a f.na l != P s f.b f.nb l) ∧
        PredResult s (.pnot f) { reads := predReg f.a, writes := predReg f.d } f.d (fun l => !P s f.a f.na l)) ∧
      (∃ x : Nat → Nat, LaneResult s (.pmfs f) { reads := allPreds, writes := [.v f.d.toNat] } .n32 f.d x ∧
        ∀ l, x l < 2 ^ 7 ∧ ∀ k < 7, (x l).testBit k = (s.cg.pred k).getLsbD l) ∧
      (s.Issues (.pmts f) { reads := [.v f.a.toNat], writes := (maskPreds f).map .p } →
        ∃ t, exec (.pmts f) s = .next t ∧ RegsOnly s t s.lanes ((maskPreds f).map .p) (nextPc s.cf.pc) ∧
          ∀ l ∈ s.lanes, ∀ k < 7, f.imm.getLsbD k = true → (t.cg.pred k).getLsbD l = (s.cg.vreg f.a.toNat l).getLsbD k))

/-! ## Cross-lane work (R137 to R142) -/

/-- R138: `shfl` reads A from the lane its mode gives, where that lane is below the width and takes part, else from its own.
R139 to R141: votes over the participating lanes, reductions and scans in ascending order (`add` made to fit from the exact
sum), and compaction with its count.
R142: one lane's register to and from a uniform register, acting once in the *any* sense; the lane must be in `om` and below
the width. -/
def Obligations.CrossLaneWork : Prop :=
  (∀ (s : State) (m : ShflMode) (f : FmtA),
      let j : Nat → Int := fun l =>
        let k : Int := (b s f l % 2 ^ 32 : Nat)
        match m with
        | .idx => k
        | .up => (l : Int) - k
        | .down => l + k
        | .xor => ((l ^^^ (b s f l % 2 ^ 32) : Nat) : Int)
      let ok := fun l => decide (0 ≤ j l ∧ j l < s.ct.width ∧ (j l).toNat ∈ s.lanes)
      s.Issues (.shfl m f) ((usesDAB f).and [] (predReg f.c)) →
        ∃ t, exec (.shfl m f) s = .next t ∧ RegsOnly s t s.lanes (dest f.ty f.d ++ predReg f.c) (nextPc s.cf.pc) ∧
          ∀ l ∈ s.lanes,
            t.cg.Holds f.ty f.d.toNat l (a s f (if ok l then (j l).toNat else l)) ∧
            (f.c.toNat < 7 → (t.cg.pred f.c.toNat).getLsbD l = ok l)) ∧
  (∀ (s : State) (f : FmtA),
      let vote := s.lanes.filter (P s f.a f.na)
      let red := fun (op : RedOp) (ls : List Nat) =>
        match op with
        | .add => Ty.fit f.ty f.sat (ls.map (A s f)).sum
        | .min => Ty.wrap f.ty ((ls.map (A s f)).foldl min (Ty.maxInt f.ty))
        | .max => Ty.wrap f.ty ((ls.map (A s f)).foldl max (Ty.minInt f.ty))
        | .and => (ls.map (a s f)).foldl (· &&& ·) (2 ^ w f - 1)
        | .or => (ls.map (a s f)).foldl (· ||| ·) 0
        | .xor => (ls.map (a s f)).foldl (· ^^^ ·) 0
      (f.d.toNat < 7 →
        PredResult s (.vany f) (usesVote f) f.d (fun _ => !vote.isEmpty) ∧
        PredResult s (.vall f) (usesVote f) f.d (fun _ => decide (vote = s.lanes))) ∧
      (s.Issues (.vbal f) { reads := predReg f.a, writes := [.s f.d.toNat] } →
        ∃ t, exec (.vbal f) s = .next t ∧ RegsOnly s t [] [.s f.d.toNat] (nextPc s.cf.pc) ∧
          ∀ l < 64, (t.cg.ureg f.d.toNat).getLsbD l = decide (l ∈ vote)) ∧
      (∀ op, UniformResult s (.vred op f) { reads := regsOf f.ty f.a, writes := [.s f.d.toNat] } f.d
        (BitVec.ofInt 64 (Ty.intOf f.ty (red op s.lanes)))) ∧
      (∀ excl op, LaneResult s (.vscan excl op f) (usesDA f) f.ty f.d
        (fun l => red op (s.lanes.filter (fun j => if excl then j < l else j ≤ l)))) ∧
      (s.Issues (.vcomp f) ((usesDA f).and (predReg f.c) [.s f.b.toNat]) →
        ∃ t, exec (.vcomp f) s = .next t ∧ RegsOnly s t s.lanes (dest f.ty f.d ++ [.s f.b.toNat]) (nextPc s.cf.pc) ∧
          let chosen := s.lanes.filter (P s f.c f.nc)
          (∀ k l j : Nat, s.lanes[k]? = some l → chosen[k]? = some j → t.cg.Holds f.ty f.d.toNat l (a s f j)) ∧
          (∀ k l r : Nat, s.lanes[k]? = some l → chosen.length ≤ k → t.cg.vreg r l = s.cg.vreg r l) ∧
          t.cg.ureg f.b.toNat = BitVec.ofNat 64 chosen.length)) ∧
  (∀ (s : State) (f : FmtA),
      let j := (s.cg.srcB f 0 false false).toNat
      j < s.ct.width → s.cf.om.getLsbD j = true →
        AnyUniformResult s (.mfl f) { reads := regsOf f.ty f.a ++ useB f false, writes := [.s f.d.toNat] } f.d
          (BitVec.ofNat 64 (a s f j)) ∧
        (s.Issues (.mtl f) { reads := .s f.a.toNat :: useB f false, writes := regsOf f.ty f.d } →
          ∃ t, exec (.mtl f) s = .next t ∧
            if s.actsAny then RegsOnly s t [j] (dest f.ty f.d) (nextPc s.cf.pc) ∧
              t.cg.Holds f.ty f.d.toNat j ((s.cg.ureg f.a.toNat).toNat % 2 ^ w f)
            else NothingElse s t))

/-! ## Uniform instructions (R143, R144) -/

/-- R143, R144: each acts once in the *any* sense, with the value of its per-lane instruction on uniform registers, written
sign-extended for i32 and zero-extended for n32.
That *any* holds where a lane takes part or the predicate field is 7 is the model's reading (log 15). -/
def Obligations.UniformResults : Prop :=
  ∀ (s : State) (f : FmtA),
    let ua := (s.cg.ureg f.a.toNat).toNat % 2 ^ w f
    let uc := (s.cg.ureg f.c.toNat).toNat % 2 ^ w f
    let ub := b s f 0
    let x := Ty.intOf f.ty ua
    let y := Ty.intOf f.ty ub
    let z := Ty.intOf f.ty uc
    let k := n s f 0
    let pos := k % 256
    let len := if pos < w f then min (k / 256 % 256) (w f - pos) else 0
    let fld := ua / 2 ^ pos % 2 ^ len
    let out := fun (v : Nat) => BitVec.ofInt 64 (Ty.intOf f.ty v)
    AnyUniformResult s (.uadd f) (usesUAB f) f.d (out (Ty.fit f.ty f.sat (x + y))) ∧
    AnyUniformResult s (.usub f) (usesUAB f) f.d (out (Ty.fit f.ty f.sat (x - y))) ∧
    AnyUniformResult s (.umin f) (usesUAB f) f.d (out (Ty.wrap f.ty (min x y))) ∧
    AnyUniformResult s (.umax f) (usesUAB f) f.d (out (Ty.wrap f.ty (max x y))) ∧
    AnyUniformResult s (.umul f) (usesUAB f) f.d (out (Ty.fit f.ty f.sat (x * y))) ∧
    AnyUniformResult s (.umad f) ((usesUAB f).and [.s f.c.toNat] []) f.d (out (Ty.fit f.ty f.sat (x * y + z))) ∧
    AnyUniformResult s (.uand f) (usesUAB f) f.d (out (ua &&& ub)) ∧
    AnyUniformResult s (.uor f) (usesUAB f) f.d (out (ua ||| ub)) ∧
    AnyUniformResult s (.uxor f) (usesUAB f) f.d (out (ua ^^^ ub)) ∧
    AnyUniformResult s (.ushl f) (usesUAB f) f.d (out (if k < w f then ua * 2 ^ k % 2 ^ w f else 0)) ∧
    AnyUniformResult s (.ushr f) (usesUAB f) f.d (out (ua / 2 ^ k)) ∧
    AnyUniformResult s (.usra f) (usesUAB f) f.d (out (Ty.wrap f.ty ((BitVec.ofNat (w f) ua).toInt / 2 ^ k))) ∧
    AnyUniformResult s (.ubfx f) (usesUAB f) f.d (out
      (if len = 0 then 0
       else if Ty.signed f.ty = true ∧ fld.testBit (len - 1) = true then fld + 2 ^ w f - 2 ^ len
       else fld)) ∧
    AnyUniformResult s (.ubfi f) ((usesUAB f).and [.s f.c.toNat] []) f.d (out
      (if len = 0 then ua else ua - fld * 2 ^ pos + uc % 2 ^ len * 2 ^ pos)) ∧
    AnyUniformResult s (.upopc f) (usesUA f) f.d (out ((List.range (w f)).filter ua.testBit).length) ∧
    (∀ cond, f.d.toNat < 7 →
      s.Issues (.ucmp cond f) { reads := .s f.a.toNat :: useB f false ++ predReg f.c, writes := predReg f.d } →
      ∃ t, exec (.ucmp cond f) s = .next t ∧
        if s.actsAny then RegsOnly s t s.lanes (predReg f.d) (nextPc s.cf.pc) ∧
          ∀ l ∈ s.lanes, (t.cg.pred f.d.toNat).getLsbD l = (condInt cond x y && P s f.c f.nc l)
        else NothingElse s t) ∧
    AnyUniformResult s (.umov f) { reads := useB f false, writes := [.s f.d.toNat] } f.d (out ub) ∧
    AnyUniformResult s (.umovi f) { writes := [.s f.d.toNat] } f.d (out ub) ∧
    AnyUniformResult s (.ulea f) (usesUAB f) f.d
      (out (Ty.wrap f.ty (x + (if Ty.signed f.ty then Ty.intOf .i32 k else (k : Int)) * 2 ^ f.c.toNat)))

/-! ## Control (R86 to R100) -/

namespace Sys2Proof.Machine.Claims

/-- A transfer to a code pointer is taken (R47, R94): it continues to the next slot, or it enters a marked slot of a line that can
be fetched, or the line's own cause will be taken at the target slot. -/
def Enters (s : State) (pc : CodePtr) : Prop :=
  pc = nextPc s.cf.pc ∨
    match s.fetch s.cur.ref s.ct.ctx (!s.cg.sys) (lineOfPc pc) with
    | .ok (line, _) => slotMarked line (slotOfPc pc) = true
    | .error .wait => False
    | .error _ => True

/-- The line address of a direct target, computed exactly, and the target as a code pointer (R59, R94). -/
def targetLine (s : State) (f : FmtB) : Int := (lineOfPc s.cf.pc : Int) + 64 * f.tline.toInt
def target (s : State) (f : FmtB) : CodePtr := BitVec.ofInt 64 (targetLine s f) + BitVec.ofNat 64 f.tslot.toNat

/-- A direct transfer is taken: its target lies in the address width (R94) and can be entered. -/
def Direct (s : State) (f : FmtB) : Prop := 0 ≤ targetLine s f ∧ targetLine s f < 2 ^ 57 ∧ Enters s (target s f)

/-- A transfer that is taken but enters no slot (R47): its target is not the next slot and is not marked. -/
def NoEntry (s : State) (pc : CodePtr) : Prop :=
  pc ≠ nextPc s.cf.pc ∧
    ∃ line u, s.fetch s.cur.ref s.ct.ctx (!s.cg.sys) (lineOfPc pc) = .ok (line, u) ∧ slotMarked line (slotOfPc pc) = false

/-- A direct transfer that is taken but enters no slot: its target lies outside the address width, or cannot be entered (R47, R94). -/
def NoTarget (s : State) (f : FmtB) : Prop := targetLine s f < 0 ∨ 2 ^ 57 ≤ targetLine s f ∨ NoEntry s (target s f)

/-- The line of the n-th place of the executing group's spill area (R90, R107). -/
def spillLine (s : State) (n : Nat) : Nat := alignDown 64 (s.spillAt s.ct.core s.cg.slot n)

/-- A slot that takes effect completes with no change but the fragment's move to a slot. -/
def MovesTo (s : State) (i : Instr) (u : Uses) (pc : CodePtr) : Prop :=
  s.Issues i u → ∃ t, exec i s = .next t ∧ RegsOnly s t [] [] pc

/-- The executing group keeps its registers, and nothing outside it changes. -/
structure KeepsRegs (s t : State) : Prop where
  only : GroupOnly s t
  v : t.cg.v = s.cg.v
  u : t.cg.s = s.cg.s
  p : t.cg.p = s.cg.p

/-- A slot whose work is done when it issues (R86, R349): the fragment goes on in sequence with the registers named written, and no
flag counts it and no register is pending for it. -/
structure Completed (s t : State) (written : List Reg) : Prop where
  only : GroupOnly s t
  group : t.cg.rest = s.cg.rest
  vectors : ∀ r l, l < 64 → Reg.v r ∉ written → t.cg.vreg r l = s.cg.vreg r l
  uniforms : ∀ r, Reg.s r ∉ written → t.cg.ureg r = s.cg.ureg r
  predicates : t.cg.p = s.cg.p
  records : s.GoesOn → t.cg.inflight = s.cg.inflight ∧ t.cg.k = s.cg.k ∧ t.cg.stop = s.cg.stop
  otherFrags : ∀ e, e ≠ s.cur.ref.entry → t.cg.fragOf e = s.cg.fragOf e
  fragment : t.cf = s.cf.goTo (nextPc s.cf.pc)

/-- Fragments of the executing group but for those named keep everything. -/
def OtherFrags (s t : State) (es : List Nat) : Prop := ∀ e, e ∉ es → t.cg.fragOf e = s.cg.fragOf e

end Sys2Proof.Machine.Claims

/-- R89, R90: `bra` goes on where no lane is taken, goes to its target where all are, splits the fragment where an entry is free, and
else keeps the other side as a pending record and runs the taken one: a second record on an entry goes out to the group's spill area, 32
bytes of memory, and where that is absent or full the cause is 0x009. R3, R325: a spill line whose home waits holds the slot, and one that it
refuses gives its cause.
R47, R94: a target outside the address width, one that is not marked and not the next slot, and a malformed pointer take 0x003.
R93: the other transfers. `call` writes the next slot's code pointer to the pair of every lane of `em`; `ret` needs one pointer in
all of them; `loop` counts down and goes on at 0.
That `ret` with no lane in `em` takes 0x008 with an empty `tmask` is the model's reading (log 43), and so are the number of the entry
that a split takes and its 0x003 before the 0x009 (log 48), the spilled record that stays in the fragment's list with free values for its
32 bytes and the address of a refused spill line (log 47), and a mark that is read before its line's parity is checked (log 51). -/
def Obligations.BranchesAndTransfers : Prop :=
  (∀ (s : State) (f : FmtB),
      let F := s.cf
      let a := s.act
      let b := F.em &&& ~~~a
      let T := target s f
      let J := s.joinOf f
      let N := s.ct.freeEntry
      let at_ := s.spillAt s.ct.core s.cg.slot s.cg.spilled
      let overflown := fun (t : State) =>
        OtherFrags s t [s.cur.ref.entry] ∧ t.cf.om = a ∧ t.cf.em = a ∧ t.cf.join = some J ∧ t.cf.pc = T ∧
          t.cf.pend = ⟨b, nextPc F.pc, J, F.om, F.em, F.join, false⟩ :: F.pend ∧
          field t.cg.grpcnt 31 0 = (field s.cg.grpcnt 31 0 + 1) % 2 ^ 32 ∧
          field t.cg.grpcnt 63 32 = field s.cg.grpcnt 63 32
      s.Issues (.bra f) {} →
        (a ≠ 0 → NoTarget s f → exec (.bra f) s = .next (s.raise 0x003 none T)) ∧
        (a = 0 → ∃ t, exec (.bra f) s = .next t ∧ NothingElse s t) ∧
        (a ≠ 0 → b = 0 → Direct s f → ∃ t, exec (.bra f) s = .next t ∧ RegsOnly s t [] [] T) ∧
        (a ≠ 0 → b ≠ 0 → Direct s f → s.ct.usedEntries < s.ct.entries → N ≠ s.cur.ref.entry →
          ∃ t, exec (.bra f) s = .next t ∧ KeepsRegs s t ∧ OtherFrags s t [s.cur.ref.entry, N] ∧
            t.cf.om = b ∧ t.cf.em = b ∧ t.cf.join = some J ∧ t.cf.sib = some N ∧ t.cf.pc = nextPc F.pc ∧ t.cf.pend = F.pend ∧
            let n := t.cg.fragOf N
            n.om = a ∧ n.em = a ∧ n.pc = T ∧ n.join = some J ∧ n.sib = some s.cur.ref.entry ∧
            n.parent = some s.cur.ref.entry ∧ n.save = some ⟨F.om, F.em, F.join, F.sib⟩ ∧ n.stamp = F.stamp ∧
            n.pend = [] ∧ n.park = none) ∧
        (a ≠ 0 → b ≠ 0 → Direct s f → s.ct.entries ≤ s.ct.usedEntries →
          (F.pend = [] → ∃ t, exec (.bra f) s = .next t ∧ KeepsRegs s t ∧ overflown t) ∧
          (F.pend ≠ [] → field (s.preg 0x801) 47 21 = 0 ∨ 64 ≤ s.cg.spilled → exec (.bra f) s = .next (s.raise 0x009)) ∧
          (F.pend ≠ [] → field (s.preg 0x801) 47 21 ≠ 0 → s.cg.spilled < 64 →
            let L := spillLine s s.cg.spilled
            (s.reach L false = .wait → exec (.bra f) s = .next s) ∧
            ∀ c, (s.reach L false).cause = some c → exec (.bra f) s = .next (s.raise c none (BitVec.ofNat 64 L))) ∧
          (F.pend ≠ [] → field (s.preg 0x801) 47 21 ≠ 0 → s.cg.spilled < 64 → s.reach (spillLine s s.cg.spilled) false = .ok →
            s.compressed (spillLine s s.cg.spilled) = false → Map.find s.cLines (spillLine s s.cg.spilled / 64) = none →
            ∃ t, exec (.bra f) s = .next t ∧ overflown t ∧
              t.cg.v = s.cg.v ∧ t.cg.s = s.cg.s ∧ t.cg.p = s.cg.p ∧ t.ct.rest = s.ct.rest ∧
              (∀ k, k ≠ s.cur.ref.team → t.teamOf k = s.teamOf k) ∧
              (∀ k, k ≠ s.cur.ref.group → t.ct.groupOf k = s.ct.groupOf k) ∧
              ∀ x, x < at_ ∨ at_ + 32 ≤ x → t.byteAt x = s.byteAt x))) ∧
  (∀ (s : State) (f : FmtB),
      (Direct s f → s.actsAny = true → MovesTo s (.braU f) {} (target s f)) ∧
      (s.actsAny = false → MovesTo s (.braU f) {} (nextPc s.cf.pc)) ∧
      (Direct s f → MovesTo s (.jmp f) {} (target s f)) ∧
      (let x := s.cg.ureg f.a.toNat
       pcOk x = true → Enters s x → MovesTo s (.jmpi f) { reads := [.s f.a.toNat] } x) ∧
      (NoTarget s f →
        (s.actsAny = true → s.Issues (.braU f) {} → exec (.braU f) s = .next (s.raise 0x003 none (target s f))) ∧
        (s.Issues (.jmp f) {} → exec (.jmp f) s = .next (s.raise 0x003 none (target s f))) ∧
        (s.Issues (.call f) { writes := vregs f.a.toNat 2 } → exec (.call f) s = .next (s.raise 0x003 none (target s f))) ∧
        (s.actsAny = true → s.cg.ureg f.a.toNat ≠ 1 → s.Issues (.loop f) { reads := [.s f.a.toNat], writes := [.s f.a.toNat] } →
          exec (.loop f) s = .next (s.raise 0x003 none (target s f)))) ∧
      (let x := s.cg.ureg f.a.toNat
       pcOk x = false ∨ NoEntry s x → s.Issues (.jmpi f) { reads := [.s f.a.toNat] } →
        exec (.jmpi f) s = .next (s.raise 0x003 none x)) ∧
      (∀ x, s.cf.em ≠ 0 → (∀ l, s.cf.em.getLsbD l = true → s.cg.vpair f.a.toNat l = x) → pcOk x = false ∨ NoEntry s x →
        s.Issues (.ret f) { reads := vregs f.a.toNat 2 } → exec (.ret f) s = .next (s.raise 0x003 none x)) ∧
      (Direct s f → s.Issues (.call f) { writes := vregs f.a.toNat 2 } →
        ∃ t, exec (.call f) s = .next t ∧ RegsOnly s t (bitsOf s.cf.em) (vregs f.a.toNat 2) (target s f) ∧
          ∀ l, s.cf.em.getLsbD l = true → t.cg.vpair f.a.toNat l = nextPc s.cf.pc) ∧
      (∀ x, s.cf.em ≠ 0 → (∀ l, s.cf.em.getLsbD l = true → s.cg.vpair f.a.toNat l = x) → pcOk x = true → Enters s x →
        MovesTo s (.ret f) { reads := vregs f.a.toNat 2 } x) ∧
      (s.cf.em = 0 → s.Issues (.ret f) { reads := vregs f.a.toNat 2 } → exec (.ret f) s = .next (s.raise 0x008 (some 0))) ∧
      (let x := s.cg.ureg f.a.toNat - 1
       let u : Uses := { reads := [.s f.a.toNat], writes := [.s f.a.toNat] }
       (s.actsAny = false → MovesTo s (.loop f) u (nextPc s.cf.pc)) ∧
       (s.actsAny = true → x = 0 ∨ Direct s f → s.Issues (.loop f) u →
         ∃ t, exec (.loop f) s = .next t ∧
           RegsOnly s t [] [.s f.a.toNat] (if x = 0 then nextPc s.cf.pc else target s f) ∧ t.cg.ureg f.a.toNat = x)))

/-- R86, R96, R68, R62: masks to and from uniform registers, complete when they issue; `nop` and a live word only go on; `yield` takes
the newest stamp of the core; `nap` parks until cycle now + n + 1.
R96, R61, R100: a fragment whose nap is over goes on after its instruction, and its group stops there where that was an explicit safe
point and pre-emption is requested; one ready and not chosen for 1,024 cycles is promoted, and `grpcnt.prom` counts it. -/
def Obligations.MasksParkingAndNaps : Prop :=
  (∀ (s : State),
      (∀ f, s.Issues (.mfem f) { writes := [.s f.d.toNat] } →
        ∃ t, exec (.mfem f) s = .next t ∧ Completed s t [.s f.d.toNat] ∧ t.cg.ureg f.d.toNat = s.cf.em) ∧
      (∀ f, s.Issues (.mfom f) { writes := [.s f.d.toNat] } →
        ∃ t, exec (.mfom f) s = .next t ∧ Completed s t [.s f.d.toNat] ∧ t.cg.ureg f.d.toNat = s.cf.om) ∧
      (∀ f, s.Issues (.mtem f) { reads := useB f false } →
        ∃ t, exec (.mtem f) s = .next t ∧ KeepsRegs s t ∧ OtherFrags s t [s.cur.ref.entry] ∧
          t.cf.em = s.cg.srcB f 0 false false &&& s.cf.om ∧ t.cf.om = s.cf.om ∧ t.cf.pc = nextPc s.cf.pc ∧
          (s.GoesOn → t.cg.inflight = s.cg.inflight ∧ t.cg.k = s.cg.k)) ∧
      (∃ t, exec .nop s = .next t ∧ KeepsRegs s t ∧ t.cg.rest = s.cg.rest ∧ t.cf = s.cf.goTo (nextPc s.cf.pc)) ∧
      (∃ t, exec .liveWord s = .next t ∧ KeepsRegs s t ∧ t.cg.rest = s.cg.rest ∧ t.cf = s.cf.goTo (nextPc s.cf.pc)) ∧
      (s.Issues .yield {} → ∃ t, exec .yield s = .next t ∧
        if s.actsAny then
          t.cf.stamp = Map.get 0 s.stamps s.ct.core ∧ Map.get 0 t.stamps s.ct.core = Map.get 0 s.stamps s.ct.core + 1 ∧
            (∀ k, k ≠ s.ct.core → Map.get 0 t.stamps k = Map.get 0 s.stamps k) ∧ t.cf.pc = nextPc s.cf.pc ∧
            { t with teams := s.teams, stamps := s.stamps } = s
        else NothingElse s t) ∧
      (∀ f, s.actsAny = true → f.imm.extractLsb' 0 16 ≠ 0 → s.Issues (.nap f) {} →
        ∃ t, exec (.nap f) s = .next t ∧ KeepsRegs s t ∧ t.cf.pc = s.cf.pc ∧
          t.cf.park = some (.nap (s.now + (f.imm.extractLsb' 0 16).toNat + 1)))) ∧
  (∀ (s : State) (r : FragRef), s.live r = true →
      (∀ wake, (s.groupAt r.team r.group).stop = none → (s.fragAt r).park = some (.nap wake) → wake ≤ s.now →
        ∃ t, exec (.napExpire r) s = .next t ∧ t.rest = s.rest ∧
          (t.fragAt r).park = none ∧ (t.fragAt r).pc = nextPc (s.fragAt r).pc ∧
          ((s.fragAt r).sp = false ∨ (s.teamOf r.team).request = none →
            (t.groupAt r.team r.group).stop = none ∧ ∀ r', r' ≠ r → t.fragAt r' = s.fragAt r') ∧
          ((s.fragAt r).sp = true → (s.teamOf r.team).request ≠ none → (t.groupAt r.team r.group).stop ≠ none)) ∧
      (∀ c, (s.fragAt r).promoted = false → s.ready r = true → (s.fragAt r).ready = some c → c + 1024 ≤ s.now →
        ∃ t, exec (.fragmentPromote r) s = .next t ∧ t.rest = s.rest ∧ (t.fragAt r).promoted = true ∧
          (t.fragAt r).pc = (s.fragAt r).pc ∧
          field (t.groupAt r.team r.group).grpcnt 63 32 = (field (s.groupAt r.team r.group).grpcnt 63 32 + 1) % 2 ^ 32 ∧
          ∀ r', r' ≠ r → t.fragAt r' = s.fragAt r'))

/-- R91: `join` at another join's address goes on; at the fragment's own join it takes the pending side, then restores what the branch
saved, waits for a sibling, or goes on. R90, R3: a pop that leaves a record in the spill area reads its line there, whose home may hold or
refuse it (log 47: the record itself stays in the fragment's list).
R91: two waiting siblings fuse into the older one, with the masks the split saved.
R61, R64: a fusion at an explicit safe point, and an exit or a fusion that leaves every fragment of the group parked, stop the group
where pre-emption is requested.
R92, R93: the lanes that take part in `exit` leave `om` and `em` for good; a fragment left with none ends, or waits as arrived for
its sibling (where the group has no arrival record and no group is a registered worker, so that nothing else is completed). -/
def Obligations.JoinsAndExits : Prop :=
  (∀ (s : State),
      (let F := s.cf
       let X := F.pc
       s.Issues .join {} → ∀ line, F.line = some (lineOfPc X, line) →
        (F.join ≠ some X → ∃ t, exec .join s = .next t ∧ NothingElse s t) ∧
        (F.join = some X → slotMarked line (slotOfPc X) = true →
          (F.pend = [] → F.sib = none → ∃ t, exec .join s = .next t ∧ NothingElse s t) ∧
          (F.pend = [] → F.sib ≠ none → ∃ t, exec .join s = .next t ∧ KeepsRegs s t ∧ OtherFrags s t [s.cur.ref.entry] ∧
            t.cf.wait = true ∧ t.cf.park = some .join ∧ t.cf.pc = X ∧ t.cf.om = F.om ∧ t.cf.em = F.em) ∧
          (∀ p rest, F.pend = p :: rest → p.join = X → p.phase = false → p.mask &&& ~~~s.cg.exited ≠ 0 →
            ∃ t, exec .join s = .next t ∧ KeepsRegs s t ∧ OtherFrags s t [s.cur.ref.entry] ∧
              t.cf.om = p.mask &&& ~~~s.cg.exited ∧ t.cf.em = p.mask &&& ~~~s.cg.exited ∧ t.cf.pc = p.pc ∧
              t.cf.join = F.join ∧ t.cf.pend = { p with phase := true } :: rest) ∧
          (∀ p rest, F.pend = p :: rest → rest ≠ [] → p.join = X → p.phase = true →
            let L := spillLine s (s.cg.spilled - 1)
            (s.reach L false = .wait → exec .join s = .next s) ∧
            ∀ c, (s.reach L false).cause = some c → exec .join s = .next (s.raise c none (BitVec.ofNat 64 L))) ∧
          (∀ p rest, F.pend = p :: rest → p.join = X → p.phase = true → p.om &&& ~~~s.cg.exited ≠ 0 →
            (rest ≠ [] → let L := spillLine s (s.cg.spilled - 1)
              s.reach L false = .ok ∧ s.compressed L = false ∧ Map.find s.cLines (L / 64) = none ∧
                Map.get none s.lineOwner (L / 64) = none) →
            ∃ t, exec .join s = .next t ∧ KeepsRegs s t ∧ OtherFrags s t [s.cur.ref.entry] ∧
              t.cf.om = p.om &&& ~~~s.cg.exited ∧ t.cf.em = p.em &&& ~~~s.cg.exited ∧ t.cf.pc = nextPc X ∧
              t.cf.join = p.ojoin ∧ t.cf.pend = rest))) ∧
      (∀ (r : FragRef) (child parent : Nat) (sv : SplitSave) (x : CodePtr),
        let g := s.groupAt r.team r.group
        s.live r = true → g.stop = none → g.fusePair r.entry = some (child, parent) → child ≠ parent →
        (g.fragOf child).save = some sv → (g.fragOf child).join = some x → sv.om &&& ~~~g.exited ≠ 0 →
        ∃ t, exec (.fragmentFuse r) s = .next t ∧ t.rest = s.rest ∧
          let h := t.groupAt r.team r.group
          ((s.teamOf r.team).request = none → h.stop = none) ∧
          ((s.teamOf r.team).request ≠ none →
            (g.fragOf child).sp = true ∨ (g.fragOf parent).sp = true ∨ h.blocked = true → h.stop = some .implicit) ∧
          Map.has h.frags child = false ∧
          (h.fragOf parent).om = sv.om &&& ~~~g.exited ∧ (h.fragOf parent).em = sv.em &&& ~~~g.exited ∧
          (h.fragOf parent).join = sv.join ∧ (h.fragOf parent).sib = sv.sib ∧ (h.fragOf parent).wait = false ∧
          (h.fragOf parent).park = none ∧ (h.fragOf parent).pc = nextPc x ∧
          ∀ e, e ≠ child → e ≠ parent → h.fragOf e = g.fragOf e)) ∧
  (∀ (s : State), s.cg.arr = none → s.allGroups.filterMap (·.worker) = [] → s.Issues .exit {} →
      ∃ t, exec .exit s = .next t ∧ KeepsRegs s t ∧ OtherFrags s t [s.cur.ref.entry] ∧
        t.cg.exited = s.cg.exited ||| s.act ∧
        (s.ct.request ≠ none → t.cg.blocked = true → t.cg.frags ≠ [] → t.cg.stop ≠ none) ∧
        let om := s.cf.om &&& ~~~s.act
        (om ≠ 0 → t.cf.om = om ∧ t.cf.em = s.cf.em &&& ~~~s.act ∧ t.cf.pc = nextPc s.cf.pc) ∧
        (om = 0 → s.cf.pend = [] → s.cf.sib = none → Map.has t.cg.frags s.cur.ref.entry = false) ∧
        (om = 0 → s.cf.pend = [] → s.cf.sib ≠ none →
          t.cf.wait = true ∧ t.cf.park = some .join ∧ t.cf.om = 0 ∧ t.cf.join = s.cf.join))

/-! ## Taking an exception and returning (R385 to R390) -/

namespace Sys2Proof.Machine.Claims

/-- The vector of a cause in the context of a fragment's team (R385). -/
def vector (s : State) (r : FragRef) (c : Cause) : CodePtr :=
  (s.ctxOf (s.teamOf r.team).ctx).sreg (vectorSreg c.code)

/-- A handler can be entered: none is, nothing that the entry waits for is open, and the vector is a marked slot of a line that can
be fetched, which leaves the state `u`. -/
structure CanEnter (s : State) (r : FragRef) (c : Cause) (u : State) : Prop where
  idle : (s.groupAt r.team r.group).ent = false
  now : s.trapWaits r c = false
  marked : ∃ line, s.fetch r (s.teamOf r.team).ctx false (lineOfPc (vector s r c)) = .ok (line, u) ∧
    slotMarked line (slotOfPc (vector s r c)) = true

/-- What entry leaves (R386, R387), beside the state after the fetch of the vector's line. -/
structure Entered (u t : State) (r : FragRef) (c : Cause) (act : Mask) (vec : CodePtr) : Prop where
  elsewhere : t.rest = u.rest ∧ (∀ k, k ≠ r.team → t.teamOf k = u.teamOf k) ∧ (t.teamOf r.team).rest = (u.teamOf r.team).rest ∧
    ∀ k, k ≠ r.group → t.groupAt r.team k = u.groupAt r.team k
  registers : let g := u.groupAt r.team r.group
    let h := t.groupAt r.team r.group
    h.v = g.v ∧ h.s = g.s ∧ h.p = g.p ∧ h.owned = g.owned ∧ h.exited = g.exited
  cause : let x := (t.groupAt r.team r.group).tfReg 0x470
    field x 8 0 = c.code.toNat ∧ x.getLsbD 9 = c.precise ∧ x.getLsbD 10 = (u.groupAt r.team r.group).sys ∧
      x.getLsbD 11 = c.sw ∧ x.getLsbD 12 = true ∧ field x 63 13 = 0
  frame : let h := t.groupAt r.team r.group
    h.tfReg 0x471 = c.addr ∧ h.tfReg 0x472 = trapMask c (u.fragAt r) act ∧ h.tfReg 0x473 = c.info0 ∧ h.tfReg 0x474 = c.info1 ∧
      h.tfReg 0x475 = c.info2 ∧ h.tfReg 0x476 = c.info3 ∧ h.tfReg 0x477 = c.resume ∧ h.tfReg 0x478 = (u.fragAt r).em ∧
      h.tfReg 0x479 = (u.groupAt r.team r.group).tfReg 0x479 ∧ h.tfReg 0x47A = (u.groupAt r.team r.group).tfReg 0x47A
  system : (t.groupAt r.team r.group).sys = true
  handler : (t.groupAt r.team r.group).trapEntry = some r.entry
  fragment : (let m := trapMask c (u.fragAt r) act &&& (u.fragAt r).om
      (t.fragAt r).em = if m = 0 then (u.fragAt r).om else m) ∧ (t.fragAt r).om = (u.fragAt r).om ∧
    (t.fragAt r).pc = vec ∧ (t.fragAt r).park = none
  others : ∀ e, e ≠ r.entry → t.fragAt ⟨r.team, r.group, e⟩ = u.fragAt ⟨r.team, r.group, e⟩

end Sys2Proof.Machine.Claims

/-- R385 to R387: the entry into a handler, as every cause takes it: what is saved, the mode, the lanes, and where the fragment goes;
the mask that a cause's rule does not set is that of the lanes taking part, of `em`, or of `om`. Every flag is then clear (R55).
That the fragment keeps all of `om` where none of the masked lanes is in it is the model's reading of "never starts with no lanes" (log 43). -/
def Obligations.TrapEntryWritesFrame : Prop :=
  ∀ (s u : State) (r : FragRef) (c : Cause) (act : Mask), CanEnter s r c u →
    (u.groupAt r.team r.group).inflight.all (fun x => x.2.req.isNone) = true →
    Entered u (s.takeTrap r c act) r c act (vector s r c) ∧
      (∀ k, ((s.takeTrap r c act).groupAt r.team r.group).flag k = 0) ∧
      (c.mask = none →
        trapMask c (u.fragAt r) act =
          (let m := if c.precise then act else (u.fragAt r).em
           if m = 0 then (u.fragAt r).om else m)) ∧
      (∀ m, c.mask = some m → trapMask c (u.fragAt r) act = m)

/-- R386, R390: TRAP_ENTRY takes the cause of a fragment that runs; `trap` and `bkpt` take theirs as software's, precise, with the
number in `tinfo0`, bit 59 of `tinfo3`, and `tresume` at the next slot.
R390: `tret` in a handler gives back the mode, `em` within `om`, and the code pointer; without a handler it takes 0x00F, with a
malformed pointer 0x003 with that value in `tinfo0`. -/
def Obligations.SoftwareTrapsAndReturn : Prop :=
  (∀ (s u : State),
      (∀ (r : FragRef) (cause : BitVec 9) (mask : Mask) (info : DWord),
        let pc := (s.fragAt r).pc
        let c : Cause := { code := cause, mask := some mask, addr := pc, info0 := info, resume := pc }
        s.runs r = true → s.finishes r = false → CanEnter s r c u →
        ∃ t, exec (.trapEntry r cause mask info) s = .next t ∧ Entered u t r c 0 (vector s r c)) ∧
      (let soft := fun (code : BitVec 9) (x : DWord) =>
         ({ code := code, sw := true, addr := s.cf.pc, info0 := x, info3 := 0x0800000000000000, resume := nextPc s.cf.pc } : Cause)
       let n := s.cur.body.extractLsb' 0 9
       let k := s.cur.body.extractLsb' 0 16
       (s.actsAny = true → s.Issues .trap {} → CanEnter s s.cur.ref (soft n (n.setWidth 64)) u →
         ∃ t, exec .trap s = .next t ∧
           Entered u t s.cur.ref (soft n (n.setWidth 64)) s.act (vector s s.cur.ref (soft n (n.setWidth 64)))) ∧
       (s.actsAny = true → s.Issues .bkpt {} → CanEnter s s.cur.ref (soft 0x1D0 (k.setWidth 64)) u →
         ∃ t, exec .bkpt s = .next t ∧
           Entered u t s.cur.ref (soft 0x1D0 (k.setWidth 64)) s.act (vector s s.cur.ref (soft 0x1D0 (k.setWidth 64)))) ∧
       (s.actsAny = false → s.Issues .trap {} → ∃ t, exec .trap s = .next t ∧ NothingElse s t) ∧
       (s.actsAny = false → s.Issues .bkpt {} → ∃ t, exec .bkpt s = .next t ∧ NothingElse s t))) ∧
  (∀ (s : State), s.Issues .tret {} →
      let g := s.cg
      (g.ent = true → pcOk (g.tfReg 0x477) = true →
        ∃ t, exec .tret s = .next t ∧ KeepsRegs s t ∧ OtherFrags s t [s.cur.ref.entry] ∧
          t.cg.sys = (g.tfReg 0x470).getLsbD 10 ∧ t.cg.ent = false ∧
          (∀ i, i ≠ 12 → (t.cg.tfReg 0x470).getLsbD i = (g.tfReg 0x470).getLsbD i) ∧
          (∀ n, n ≠ 0x470 → t.cg.tfReg n = g.tfReg n) ∧
          t.cf.pc = g.tfReg 0x477 ∧ t.cf.em = g.tfReg 0x478 &&& s.cf.om ∧ t.cf.om = s.cf.om) ∧
      (g.ent = false → exec .tret s = .next (s.raise 0x00F)) ∧
      (g.ent = true → pcOk (g.tfReg 0x477) = false → exec .tret s = .next (s.raise 0x003 none (g.tfReg 0x477))))

/-- R388: a precise cause while a handler is entered, or one whose vector is no marked slot, ends the team with 0x1D3, to be saved as
faulted; no handler is entered and no register, frame or memory changes.
R340, R246: the in-bank sessions of the team end, those that wait to open one wait no more, and its producer program stops and closes the
queues that it pushes to. R220: what has landed for its clasps is discarded.
That the group stops at once is the model's reading (log 39). -/
def Obligations.DoubleFaultEndsTeam : Prop :=
  ∀ (s : State) (r : FragRef) (c : Cause) (act : Mask),
    (c.precise = true ∧ (s.groupAt r.team r.group).ent = true ∨
      (s.trapWaits r c = false ∧ ∀ line u, s.fetch r (s.teamOf r.team).ctx false (lineOfPc (vector s r c)) = .ok (line, u) →
        slotMarked line (slotOfPc (vector s r c)) = false)) →
    let t := s.takeTrap r c act
    t.mem = s.mem ∧ t.pregs = s.pregs ∧ t.ctxs = s.ctxs ∧ t.copies = s.copies ∧
      t.sessions = s.sessions.filter (fun x => !(s.halves r.team).contains x.team) ∧
      t.openers = s.openers.filter (fun x => !(s.halves r.team).contains x.ref.team) ∧ (t.teamOf r.team).landings = [] ∧
      (∀ p, Map.find s.producers (s.teamOf r.team).core = some p → p.team = r.team →
        Map.has t.producers (s.teamOf r.team).core = false ∧
        ∀ q ∈ p.pushed, ∀ x, Map.find (s.teamOf r.team).q q = some x → x.cfg = true → (Map.find (t.teamOf r.team).q q).map (·.closed) = some true) ∧
      (t.teamOf r.team).ending = some (2, 0x1D3) ∧ (t.teamOf r.team).status = .frozen ∧
      (∀ g ∈ (t.teamOf r.team).groups, g.2.stop = some .implicit) ∧
      (∀ g, (t.groupAt r.team g).tf = (s.groupAt r.team g).tf ∧ (t.groupAt r.team g).v = (s.groupAt r.team g).v ∧
        (t.groupAt r.team g).s = (s.groupAt r.team g).s ∧ (t.groupAt r.team g).sys = (s.groupAt r.team g).sys) ∧
      (t.teamOf r.team).sp = (s.teamOf r.team).sp ∧
      ∀ k, k ∉ s.halves r.team → t.teamOf k = s.teamOf k

/-! ## From a line to an instruction (R43 to R50, R65) -/

/-- The step runs the instruction that the decoder reads at the fragment's slot: the agenda's turn, the fragment running and not parked
with its line there, nothing imprecise due, no forced stop, the line's wait mask satisfied, and the word decoded. The step moves
past the agenda's entry, counts itself, and marks the team's and the core's latest issue where the slot issued (R103).
The agenda, the counters of the step, and the mark by which it tells that a slot issued are the model's own (log 2). -/
def Obligations.StepRunsDecodedInstruction : Prop :=
  ∀ (s : State) (r : FragRef) (dt : Nat) (rest : List (Turn × Nat)) (line : BitVec 512) (slot : Slot),
    s.agenda = (.slot r, dt) :: rest →
    let s0 := { s with agenda := rest, now := s.now + dt, tick := s.tick + 1 }
    let g := s.groupAt r.team r.group
    let f := s.fragAt r
    s.live r = true → g.stop = none → (s.teamOf r.team).status = .resident → s.powered r = true → f.park = none → f.sent = [] →
    s0.forceDue r.team g = false → (g.held = [] ∨ g.ent = true) → g.ctxFault = none → f.here = some line →
    ¬ (slotOfPc f.pc = 0 ∧ g.waitsOn line = true) → (f.fresh = false ∨ slotMarked line (slotOfPc f.pc) = true) →
    decodeRaw (slotBits line (slotOfPc f.pc)) = .ok slot →
    let core := (s.teamOf r.team).core
    let at_ := { s0.updFragAt r (fun f => { f with went := false }) with cur := ⟨r, slot.hdr, slot.body, core⟩ }
    (∀ t, exec slot.ins at_ = .next t →
      (t.live r = true → (t.fragAt r).went = false → step s = .next t) ∧
      (t.live r = false ∨ (t.fragAt r).went = true →
        step s = .next { t with
          teams := Map.alter t.teams r.team (fun x => { x with issued := t.now }), lastIssue := Map.set 0 t.lastIssue core t.now })) ∧
    (∀ e, exec slot.ins at_ = .fault e → step s = .fault e) ∧ (∀ e, exec slot.ins at_ = .refused e → step s = .refused e)

namespace Sys2Proof.Machine.Claims

/-- Instructions of each shape with the registers that they read and write. -/
def ClaimedUses (i : Instr) (u : Uses) : Prop :=
  (∃ f : FmtA,
    (u = usesDAB f ∧
      i ∈ [.add f, .sub f, .min f, .max f, .mul f, .mulh f, .mulhu f, .div f, .divu f, .rem f, .remu f, .and f, .or f, .xor f, .andn f]) ∨
    (u = usesDA f ∧ i ∈ [.abs f, .neg f, .not f, .brev f]) ∨
    (u = usesDAb f ∧ i ∈ [.shl f, .shr f, .sra f, .rol f, .ror f, .bfx f, .lea f]) ∨
    (u = usesUAB f ∧ i ∈ [.uadd f, .usub f, .umin f, .umax f, .umul f, .uand f, .uor f, .uxor f, .ushl f, .ushr f, .usra f])) ∨
  (∃ f : FmtB,
    (u = { reads := [.s f.a.toNat] } ∧ i = .jmpi f) ∨ (u = { writes := vregs f.a.toNat 2 } ∧ i = .call f) ∨
    (u = { reads := vregs f.a.toNat 2 } ∧ i = .ret f)) ∨
  (∃ f : FmtE,
    (u = { reads := [.v f.a.toNat], writes := spRegs f.sub f.d } ∧ i ∈ [.lds f, .pld f]) ∨
    (u = { reads := .v f.a.toNat :: spRegs f.sub f.b } ∧ i ∈ [.sts f, .pst f]) ∨
    (u = { reads := [.s f.a.toNat], writes := [.s f.d.toNat] } ∧ i ∈ [.spawn f, .carrive f, .carriveWait f]) ∨
    (u = { reads := pushReads f false } ∧ i = .qpush f) ∨ (u = { writes := popWrites f false } ∧ i = .qpop f)) ∨
  (∃ f : FmtS, (u = { writes := [moveReg f] } ∧ i ∈ [.mfsp f, .mfsv f]) ∨ (u = { reads := [.s f.a.toNat] } ∧ i ∈ [.mtsp f, .mtsv f]))

end Sys2Proof.Machine.Claims

/-- R65, R120, R121: an instruction of a fetch line that fails a check takes that cause and does nothing else; one that fails none but
names a register beyond its allotment takes 0x00D.
R59, R68, R389: a supervisor instruction in user mode takes 0x006, and so does a move of a supervisor register in user mode or of
an owner register outside an owner context, whatever else is wrong with it.
R51, R53: a slot whose flag holds 63, or that names a pending register, does not issue: its fragment stays at it, no register and
no byte of memory changes, and each of the two stalls is counted once, in its field of `ilkcnt`.
Both hold for each of the instructions listed: lanes of every shape, uniform ones, transfers, memory, scratchpad, queues, clasps and
special registers.
R65, checks 1 and 2: a word with no instruction takes 0x001, one whose body must be zero and is not takes 0x002; on the same
conditions as the step that runs an instruction.
Which of several registers is named first, and the low eight bits of a number past 255, are the model's readings (logs 41 and 54), and so is
the 0x006 of a special register before every 0x002 (log 51). -/
def Obligations.FailedChecksTakeTheirCause : Prop :=
  (∀ (s : State) (i : Instr) (c : BitVec 9),
      i.isEvent = false → encodeStream i = none → i ≠ .nop → i ≠ .liveWord → s.slotCause i = some c →
      exec i s = .next (s.raise c)) ∧
  (∀ (s : State),
      (∀ i : Instr, i.supervisor = true → s.cg.sys = false → exec i s = .next (s.raise 0x006)) ∧
      (∀ f : FmtS, (0x400 ≤ f.sreg.toNat ∧ s.cg.sys = false) ∨ (0x800 ≤ f.sreg.toNat ∧ s.cc.owner = false) →
        exec (.mfsp f) s = .next (s.raise 0x006) ∧ exec (.mtsp f) s = .next (s.raise 0x006) ∧
        exec (.mfsv f) s = .next (s.raise 0x006) ∧ exec (.mtsv f) s = .next (s.raise 0x006))) ∧
  (∀ (s : State) (i : Instr) (u : Uses) (n : DWord),
      ClaimedUses i u → s.slotCause i = none → s.ct.firstBeyond u = some n → exec i s = .next (s.raise 0x00D none n)) ∧
  (∀ (t : Team) (u : Uses) (n : DWord), t.firstBeyond u = some n →
      ∃ r ∈ u.writes ++ u.reads,
        (∃ k, r = .v k ∧ 8 * t.vblocks ≤ k ∧ n = BitVec.ofNat 64 (k % 256)) ∨
        (∃ k, r = .s k ∧ t.uregs ≤ k ∧ n = BitVec.ofNat 64 (2 ^ 8 + k % 256))) ∧
  (∀ (t : Team) (u : Uses), t.firstBeyond u = none →
      ∀ r ∈ u.writes ++ u.reads, (∀ k, r = .v k → k < 8 * t.vblocks) ∧ ∀ k, r = .s k → k < t.uregs) ∧
  (∀ (s : State) (i : Instr) (u : Uses),
      ClaimedUses i u → s.slotCause i = none → s.ct.firstBeyond u = none →
      s.flagFull = true ∨ s.cg.interlocked s.cur.hdr u = true →
      ∃ t, exec i s = .next t ∧ KeepsRegs s t ∧ t.cf.pc = s.cf.pc ∧
        (s.flagFull = true → t.cf.counted = { s.cf.counted with full := true } ∧ (s.cf.counted.full = true → t = s) ∧
          (s.cf.counted.full = false →
            field t.cg.ilkcnt 63 32 = (field s.cg.ilkcnt 63 32 + 1) % 2 ^ 32 ∧ field t.cg.ilkcnt 31 0 = field s.cg.ilkcnt 31 0)) ∧
        (s.flagFull = false → t.cf.counted = { s.cf.counted with pending := true } ∧ (s.cf.counted.pending = true → t = s) ∧
          (s.cf.counted.pending = false →
            field t.cg.ilkcnt 31 0 = (field s.cg.ilkcnt 31 0 + 1) % 2 ^ 32 ∧ field t.cg.ilkcnt 63 32 = field s.cg.ilkcnt 63 32))) ∧
  (∀ (s : State) (r : FragRef) (line : BitVec 512),
      let g := s.groupAt r.team r.group
      let f := s.fragAt r
      let w := slotBits line (slotOfPc f.pc)
      let s' := { s with cur := ⟨r, ⟨false, 7, false, 0⟩, 0, (s.teamOf r.team).core⟩ }
      s.runs r = true → f.park = none → f.sent = [] →
      s.forceDue r.team g = false → (g.held = [] ∨ g.ent = true) → g.ctxFault = none → f.here = some line →
      ¬ (slotOfPc f.pc = 0 ∧ g.waitsOn line = true) → (f.fresh = false ∨ slotMarked line (slotOfPc f.pc) = true) →
      (decodeRaw w = .error .unassigned → s.issueSlot exec r = .next (s'.raise 0x001)) ∧
      (decodeRaw w = .error .reserved → s.issueSlot exec r = .next (s'.raise 0x002)))

/-- R45, R46, R49, R99, R100: a fetched line whose parity and flag numbers are right is the fragment's; one with bad parity is counted
and fetched once more, and a second one takes 0x004; a port chooses one ready fragment, whose slot comes next and whose wait is over;
every other fragment of its groups that is ready has waited since the first cycle in which it was passed over, and one that is not ready
waits anew; an instruction that completes gives back its flag's increment and its record.
That a bad copy is an operand of the fetch, and that effects happen at issue, are the model's choices (logs 16 and 45). -/
def Obligations.FetchAndIssueEvents : Prop :=
  ∀ (s : State),
    (∀ (r : FragRef) (flip line : BitVec 512) (u : State),
      let f := s.fragAt r
      let va := lineOfPc f.pc
      s.runs r = true → f.park = none → f.here = none →
      s.fetch r (s.teamOf r.team).ctx (!(s.groupAt r.team r.group).sys) va = .ok (line, u) →
      (f.refetch = false → ∃ t, exec (.fetchLine r flip) s = .next t ∧
        (parityOk (line ^^^ flip) = true → flagsReserved (line ^^^ flip) = false →
          (t.fragAt r).line = some (va, line ^^^ flip) ∧ t.rest = u.rest) ∧
        (parityOk (line ^^^ flip) = false → (t.fragAt r).refetch = true ∧ (t.fragAt r).line = (u.fragAt r).line ∧
          field (t.preg 0x854) 63 48 = (field (u.preg 0x854) 63 48 + 1) % 2 ^ 16)) ∧
      (f.refetch = true → ∃ t, exec (.fetchLineRefetch r flip) s = .next t ∧
        (parityOk (line ^^^ flip) = true → flagsReserved (line ^^^ flip) = false →
          (t.fragAt r).line = some (va, line ^^^ flip) ∧ (t.fragAt r).refetch = false ∧ t.rest = u.rest) ∧
        (parityOk (line ^^^ flip) = false →
          t = (u.updFragAt r (fun f => { f with refetch := false })).lineCause r 0x004))) ∧
    (∀ core port r, s.choose core port = some r →
      r ∈ s.portFrags core port ∧ s.ready r = true ∧
      ∃ t, exec (.portIssue core port) s = .next t ∧ t.agenda = (.slot r, 0) :: s.agenda ∧ t.mem = s.mem ∧
        t.fragAt r = { s.fragAt r with ready := none } ∧ t.now = s.now ∧
        ∀ r' ∈ s.portFrags core port, r' ≠ r →
          (t.fragAt r').ready = if s.ready r' = true then some ((s.fragAt r').ready.getD s.now) else none) ∧
    (∀ team group id x,
      let g := s.groupAt team group
      Map.has s.teams team = true → Map.has (s.teamOf team).groups group = true → Map.find g.inflight id = some x →
      x.req = none → (s.teamOf team).tileHeld x.time x.tile = false →
      ∃ t, exec (.instructionComplete team group id) s = .next t ∧ t.rest = s.rest ∧
        let h := t.groupAt team group
        Map.has h.inflight id = false ∧ h.v = g.v ∧ h.frags = g.frags ∧
        ∀ k, h.flag k = g.flag k - (if x.flag = some k then 1 else 0))

/-- R324, R388: a held imprecise cause is taken by a fragment at its next slot, and an armed 0x051 at a fence or an explicit safe
point, or where the fragment is parked: the entry is the handler's, with `tresume` at the unissued slot, and the cause is no longer
held; while a handler is entered, causes stay held, and an armed 0x051 that becomes due is held with them. -/
def Obligations.ImpreciseCausesEnterHandler : Prop :=
  ∀ (s u : State) (r : FragRef),
    let g := s.groupAt r.team r.group
    let f := s.fragAt r
    s.runs r = true → s.finishes r = false →
    (∀ h rest, g.held.filterMap (s.heldNow g) = h :: rest → f.park = none →
      let s' := s.updGroupAt r.team r.group (fun g => { g with held := rest })
      let c := h.toCause f.pc
      (g.ent = true → exec (.impreciseCauseDelivery r) s = .next s) ∧
      (s.trapWaits r c = false → CanEnter s' r c u → c.precise = false ∧ c.resume = f.pc ∧
        ∃ t, exec (.impreciseCauseDelivery r) s = .next t ∧ Entered u t r c 0 (vector s' r c))) ∧
    (∀ line n, g.ctxFault = some (line, n) →
      (f.park ≠ none ∨ ∃ l, f.here = some l ∧ fenceOrSafe (slotBits l (slotOfPc f.pc)) = true) →
      let s' := s.updGroupAt r.team r.group (fun g => { g with ctxFault := none })
      let c : Cause :=
        { code := 0x051, precise := false, addr := f.pc, info0 := BitVec.ofNat 64 line, info1 := BitVec.ofNat 64 n, resume := f.pc }
      (g.ent = true → exec (.contextFaultTrap r) s =
        .next (s.updGroupAt r.team r.group (fun g => { g with ctxFault := none }.hold (faultHeld line n)))) ∧
      (s.trapWaits r c = false → CanEnter s' r c u →
        ∃ t, exec (.contextFaultTrap r) s = .next t ∧ Entered u t r c 0 (vector s' r c)))

/-! ## Special registers (R81, R387, R389, R390) -/

/-- R390: a move from a special register writes its value to the uniform register, or for `lane` to a vector register in each lane;
a move to one has the register's effect, or takes the cause that its rule names, or holds its slot while a command of it waits; to the
registers of the trap frame it completes always.
R81, R82, R86, R387: what reads of the user registers give, and the trap frame as a handler reads and writes it: `tcause.ent` and
its reserved bits take no write, and a write of a frame register changes no other one.
R385: a vector register takes a code pointer in the layout of R87, and reads as it; any other value takes 0x002 and is ignored;
reserved bits of a vector register never become one.
That a write-only field reads as 0, and how much a core's clock differs, are the model's choices (logs 13 and 19). -/
def Obligations.SpecialRegisters : Prop :=
  (∀ (s : State) (f : FmtS),
      let n := f.sreg.toNat
      let x := s.cg.ureg f.a.toNat
      (n ≠ 2 → AnyUniformResult s (.mfsp f) { writes := [moveReg f] } f.a (s.readSreg n) ∧
        AnyUniformResult s (.mfsv f) { writes := [moveReg f] } f.a (s.readSreg n)) ∧
      (n = 2 → LaneResult s (.mfsp f) { writes := [moveReg f] } .n32 f.a (fun l => (s.readLane l).toNat)) ∧
      (∀ i, (i = .mtsp f ∨ i = .mtsv f) → s.Issues i { reads := [.s f.a.toNat] } →
        (s.actsAny = false → ∃ t, exec i s = .next t ∧ NothingElse s t) ∧
        (s.actsAny = true →
          (∀ c, s.writeSreg n x = .error c → exec i s = .next (s.raise c)) ∧
          (∀ u, s.writeSreg n x = .ok (u, true) → exec i s = .next (u.retire [])) ∧
          (∀ u, s.writeSreg n x = .ok (u, false) → exec i s = .next u) ∧
          (0x470 < n → n ≤ 0x47A → ∃ t, exec i s = .next t ∧ KeepsRegs s t ∧ OtherFrags s t [s.cur.ref.entry] ∧
            t.cf.pc = nextPc s.cf.pc ∧ t.cg.tfReg n = x ∧ ∀ j, j ≠ n → t.cg.tfReg j = s.cg.tfReg j)))) ∧
  (∀ (s : State),
      s.readSreg 0 = s.cf.em ∧ s.readSreg 1 = s.cf.om ∧ s.readSreg 3 = BitVec.ofNat 64 s.ct.width ∧
      s.readSreg 6 = BitVec.ofNat 64 s.ct.core ∧ s.readSreg 8 = s.cg.grpcnt ∧ s.readSreg 0x18 = s.cg.ilkcnt ∧
      (∀ k < 8, s.readSreg (0x10 + k) = Map.get 0 s.ct.cvpol k) ∧
      (∀ k < 16, s.readSreg (0x20 + k) = Map.get 0 s.ct.mc k) ∧
      (∀ k, 0x470 ≤ k → k ≤ 0x47A → s.readSreg k = s.cg.tfReg k) ∧
      (∀ k, 0x450 ≤ k → k ≤ 0x456 → s.readSreg k = s.cc.sreg k) ∧
      (∀ k v, 0x470 ≤ k → k ≤ 0x47A → ∃ t, s.writeSreg k v = .ok (t, true) ∧ KeepsRegs s t ∧ t.cg.frags = s.cg.frags ∧
        t.cg.inflight = s.cg.inflight ∧ t.cg.k = s.cg.k ∧ t.cg.stop = s.cg.stop ∧ { t.cg.rest with tf := s.cg.tf } = s.cg.rest ∧
        (∀ j, j ≠ k → t.cg.tfReg j = s.cg.tfReg j) ∧
        (k ≠ 0x470 → t.readSreg k = v) ∧
        (k = 0x470 → t.cg.ent = s.cg.ent ∧
          ∀ i, (t.readSreg k).getLsbD i = if i < 12 then v.getLsbD i else (s.readSreg k).getLsbD i)) ∧
      (∀ k < 16, ∀ v, shapeBad (v &&& 0xFFFFFFF1) s.ct.tileUnits = true → s.writeSreg (0x20 + k) v = .error 0x011) ∧
      (∀ v, ∃ t, s.writeSreg 0 v = .ok (t, true) ∧ t.cf.em = v &&& s.cf.om ∧ t.cf.om = s.cf.om ∧ GroupOnly s t)) ∧
  (∀ (s : State) (n : Nat) (v : DWord), 0x450 ≤ n → n ≤ 0x456 →
      (pcOk v = true → (s.cc.sreg n &&& ~~~0x01FFFFFFFFFFFFC7) = 0 →
        ∃ t, s.writeSreg n v = .ok (t, true) ∧ t.readSreg n = v ∧ t.teams = s.teams ∧ t.mem = s.mem ∧ t.pregs = s.pregs ∧
          ∀ k, k ≠ s.ct.ctx → t.ctxOf k = s.ctxOf k) ∧
      (pcOk v = false → s.writeSreg n v = .error 0x002))

/-! ## Pre-emption and images (R392 to R399) -/

/-- R392, R393: a request reaches every running team of the cluster, and a group that is parked stops at once; a group that reaches no
safe point in time stops at its slot boundary, its flags clear and nothing else of it changes; `pdefer n` moves that time to n
cycles from now.
R390, R395: `halt` stops every group of the team, and its image is to be written as halted; the team's registers and memory stay. -/
def Obligations.PreemptionAndHalt : Prop :=
  (∀ (s : State),
      (∀ team, Map.has s.teams team = true → (s.teamOf team).status = .resident → (s.teamOf team).ending = none →
        s.canSave team = true →
        ∃ t, exec (.preemptRequest team) s = .next t ∧ t.rest = s.rest ∧
          (∀ h, h ∉ s.clusterOf team → t.teamOf h = s.teamOf h) ∧
          ∀ h ∈ s.clusterOf team, (s.teamOf h).request = none → (s.teamOf h).ending = none → (s.teamOf h).status = .resident →
            (t.teamOf h).request = some s.now ∧
            ∀ g, (t.groupAt h g).v = (s.groupAt h g).v ∧
              (t.groupAt h g).stop =
                (if (s.groupAt h g).blocked && (s.groupAt h g).stop.isNone && !(s.groupAt h g).frags.isEmpty then some .implicit
                 else (s.groupAt h g).stop)) ∧
      (∀ team group,
        let g := s.groupAt team group
        Map.has s.teams team = true → Map.has (s.teamOf team).groups group = true → s.forceDue team g = true →
        g.frags.all (fun f => f.2.sent.isEmpty) = true → g.stop = none → g.frags ≠ [] →
        ∃ t, exec (.forcedStop team group) s = .next t ∧ t.rest = s.rest ∧
          (∀ k, k ≠ team → t.teamOf k = s.teamOf k) ∧ (∀ k, k ≠ group → t.groupAt team k = s.groupAt team k) ∧
          let h := t.groupAt team group
          h.stop = some .implicit ∧ h.frags = g.frags ∧ h.v = g.v ∧ h.s = g.s ∧ h.p = g.p ∧ h.tf = g.tf ∧
            (g.inflight.all (fun x => x.2.req.isNone) = true → ∀ k, h.flag k = 0)) ∧
      (s.Issues .pdefer {} → ∃ t, exec .pdefer s = .next t ∧ KeepsRegs s t ∧ t.cf.pc = nextPc s.cf.pc ∧
        t.cg.deferUntil =
          (if s.ct.request = none ∨ s.cg.deferred = false then s.now + (s.cur.body.extractLsb' 0 13).toNat else s.cg.deferUntil))) ∧
  (∀ (s : State), s.Issues .halt {} →
      ∃ t, exec .halt s = .next t ∧ t.rest = s.rest ∧ t.cf.pc = nextPc s.cf.pc ∧
        (∀ h ∈ s.halves s.cur.ref.team, (t.teamOf h).ending = some (1, 0) ∧ (t.teamOf h).status = (s.teamOf h).status ∧
          (t.teamOf h).sp = (s.teamOf h).sp ∧ ∀ g ∈ (t.teamOf h).groups, g.2.stop = some .implicit) ∧
        (∀ h g, (t.groupAt h g).v = (s.groupAt h g).v ∧ (t.groupAt h g).s = (s.groupAt h g).s ∧ (t.groupAt h g).p = (s.groupAt h g).p) ∧
        ∀ h, h ∉ s.halves s.cur.ref.team → t.teamOf h = s.teamOf h)

/-- R394 to R397: a stopped team whose work is complete drains and leaves the issue; a drained team that is no cluster of several is
written to a free slot once the copies of its cluster have drained too (R244), a halted or faulted one to a slot that no team asked to
stop is to take, with its status and cause in the header, and leaves its cores, or, faulted, leaves its scratchpad frozen; one saved for
pre-emption waits to be placed again.
The typed records of an image, and which free slot is taken, are the model's choices (logs 9, 12 and 36). -/
def Obligations.DrainAndSave : Prop :=
  ∀ (s : State) (team : Nat),
    let t0 := s.teamOf team
    let c := s.savedWith team
    Map.has s.teams team = true → t0.groups ≠ [] → team ∈ c →
    (t0.drained = false → (t0.ending ≠ none ∨ t0.request ≠ none) → c.all s.settled = true → s.copiesDone team = true →
      let s' := c.foldl (fun s h => s.stopProducer h) s
      c.any s'.producerLoads = false →
      ∃ t, exec (.teamDrain team) s = .next t ∧ t.mem = s'.mem ∧
        ∀ h ∈ c, (t.teamOf h).drained = true ∧
          (t.teamOf h).status = (if (s'.teamOf h).status = .resident then .stopped else (s'.teamOf h).status) ∧
          (t.teamOf h).groups = (s'.teamOf h).groups) ∧
    (t0.drained = true → c = [team] → t0.half = 0 → t0.partner = none → s.locket.stopping = false →
      (if t0.ending = none then 0 else s.imagesDue t0.ctx false) < (s.freeImages t0.ctx).length →
      t0.landings = [] → s.copiesDone team = true →
      ∃ t k rs, exec (.imageWrite team) s = .next t ∧ k ∈ s.freeImages t0.ctx ∧
        Map.find (t.ctxOf t0.ctx).images k = some rs ∧
        imageHead rs = some ((t0.ending.getD (0, 0)).1, team) ∧
        (∃ part count, rs.head?.map (·.body) =
          some (.header 0x5A484C54 part (t0.ending.getD (0, 0)).1 (t0.ending.getD (0, 0)).2 count team)) ∧
        (∀ x, t0.ending = some (1, x) → Map.has t.teams team = false ∧ t.waiting = s.waiting) ∧
        (t0.ending = none → Map.has t.teams team = false ∧ (t0.ctx, k) ∈ t.waiting) ∧
        (∀ x, t0.ending = some (2, x) → (t.teamOf team).status = .frozen ∧ (t.teamOf team).groups = [] ∧
          (t.teamOf team).sp = t0.sp ∧ t.waiting = s.waiting))

/-- R396 to R398: the header of a record holds its length, skip bit, version and type; a reader accepts the image that this package
writes of a team; one whose first record is not a known header with its magic, or with an unknown record that may not be skipped, or
whose lengths pass the slot's 4 MiB, or whose end counts wrongly, it refuses.
R395, R398, R399: the owner's `ctxres` on a slot below n with an image makes its team wait, another master's is ignored (R404); a
waiting image that a reader refuses places nothing, and `hostirq.image` becomes pending; a team saved alone is placed on a core with
room, with the scratchpad, tiles and registers of its image; under its own number where it was saved here, and under a new one where its
image came from outside (R340).
The typed records of an image, and which core is taken, are the model's choices (logs 9, 12 and 36). -/
def Obligations.ImagesResumeAndRestore : Prop :=
  ((∀ r : ImageRec, r.len < 2 ^ 32 → r.ver < 256 → r.type < 2 ^ 16 →
      field r.header 63 32 = r.len ∧ field r.header 31 25 = 0 ∧ r.header.getLsbD 24 = r.skip ∧ field r.header 23 16 = r.ver ∧
        field r.header 15 0 = r.type) ∧
    (∀ (s : State) (ids : List Nat) (status : Nat) (cause : BitVec 9), (s.image ids status cause).length ≤ 262144 →
      imageOk (s.image ids status cause) = true) ∧
    ∀ rs : List ImageRec,
      (∀ r, rs.head? = some r → (r.known && r.type == 1) = false → imageOk rs = false) ∧
      (∀ r magic part status cause count id, rs.head? = some r → r.body = .header magic part status cause count id →
        magic ≠ 0x5A484C54 → imageOk rs = false) ∧
      (∀ r ∈ rs, r.known = false → r.skip = false → imageOk rs = false) ∧
      (4194304 < (rs.map (fun r => 8 + r.len)).sum → imageOk rs = false) ∧
      (∀ n len skip, rs.getLast? = some ⟨0xFFFF, 1, skip, len, .finish n⟩ → n + 1 ≠ rs.length → imageOk rs = false)) ∧
  (∀ (s : State) (ctx slot : Nat) (rs : List ImageRec), Map.find (s.ctxOf ctx).images slot = some rs →
      (∀ value : DWord, field value 11 0 = slot → slot < field ((s.ctxOf ctx).sreg 0x448) 11 0 →
        (ctx, slot) ∉ s.waiting →
        ∃ t, exec (.ctxres ctx value) s = .next t ∧ t.teams = s.teams ∧ t.ctxs = s.ctxs ∧
          t.waiting = (if s.owner = masterNumber s.writer then s.waiting ++ [(ctx, slot)] else s.waiting)) ∧
      (∀ core, (ctx, slot) ∈ s.waiting → (s.ctxOf ctx).stopped = false → imageOk rs = false →
        ∃ t, exec (.imageRestore ctx slot core) s = .next t ∧ t.teams = s.teams ∧ (ctx, slot) ∉ t.waiting ∧
          (t.preg 0x851).getLsbD 4 = true) ∧
      (∀ core x tm gs, core < 256 → (ctx, slot) ∈ s.waiting → (s.ctxOf ctx).stopped = false → imageOk rs = true →
        Saved.of slot rs = some x → x.halves = [(tm, gs)] → x.status ≠ 0 → tm.half = 0 → tm.pair = false → tm.partner = none →
        tm.rank = 0 → s.teams.all (fun p => !p.2.sameCluster tm) = true → Map.has s.teams x.id = false → s.sessions = [] →
        tm.ctx = ctx → (∀ p ∈ x.producers, p = none) → s.seatOk core tm gs false = true → s.routed ctx tm.entry core = true →
        s.outranked (.image ctx slot) = false →
        let id := if (ctx, slot) ∈ s.received then s.nextTeam else x.id
        ∃ t, exec (.imageRestore ctx slot core) s = .next t ∧ Map.has t.teams id = true ∧ (t.teamOf id).core = core ∧
          (t.teamOf id).sp = tm.sp ∧ (t.teamOf id).tiles = tm.tiles ∧ (t.teamOf id).mc = tm.mc ∧
          (tm.spSize = 0 ∨ Map.get [] s.nc core = [] → t.mem = s.mem) ∧
          Map.find (t.ctxOf ctx).images slot = none ∧ (ctx, slot) ∉ t.waiting ∧
          ∀ n, (t.groupAt id n).v = (Map.get nullGroup gs n).v ∧ (t.groupAt id n).s = (Map.get nullGroup gs n).s ∧
            (t.groupAt id n).p = (Map.get nullGroup gs n).p ∧ (t.groupAt id n).tf = (Map.get nullGroup gs n).tf ∧
            (t.groupAt id n).sys = (Map.get nullGroup gs n).sys))

/-! ## Launch (R79 to R84, R103 to R110) -/

/-- R110: `spawn` on a list that is not in use or is full answers 1; on a list with room it copies the record into the tail slot with
its sequence word, moves the tail in memory, and answers 0; a record that is not aligned to 64 bytes takes 0x00C, one that passes 2^57
takes 0x04E, and where no lane takes part nothing happens (R93).
That a list whose base field is 0 is not in use, and that `spawn` reads and writes in its group's mode, are the model's readings (log 33).
R108, R109: a published record in the head slot is launched and the head moves past it; one that breaks a limit or fits nowhere
is refused: `llrefuse` names its slot and list, and `hostirq.lref` becomes pending. -/
def Obligations.RecordsAreSpawnedAndTaken : Prop :=
  (∀ (s : State) (f : FmtE) (s1 s2 s3 s4 : State) (h : ListHead) (ls : List LineReq) (xs : List (Nat × Nat × Byte)),
      let ctx := s.ct.ctx
      let user := !s.cg.sys
      let p := s.cg.ureg f.a.toNat
      let n := f.sub.toNat % 4
      let tl := (h.tail + 1) % 2 ^ 64
      s.Issues (.spawn f) { reads := [.s f.a.toNat], writes := [.s f.d.toNat] } →
      (s.actsAny = false → ∃ t, exec (.spawn f) s = .next t ∧ NothingElse s t) ∧
      (s.actsAny = true → field p 5 0 ≠ 0 → exec (.spawn f) s = .next (s.raise 0x00C none p)) ∧
      (s.actsAny = true → field p 5 0 = 0 → s.cf.sent = [] → field (s.cc.sreg (0x400 + n)) 56 6 = 0 →
        ∃ t, exec (.spawn f) s = .next t ∧ RegsOnly s t [] [.s f.d.toNat] (nextPc s.cf.pc) ∧ t.cg.ureg f.d.toNat = 1) ∧
      (s.actsAny = true → field p 5 0 = 0 → s.cf.sent = [] → field (s.cc.sreg (0x400 + n)) 56 6 ≠ 0 →
        s.listHead ctx user n = .ok (some h, s1) →
        (2 ^ h.z ≤ (h.tail + 2 ^ 64 - h.head) % 2 ^ 64 →
          ∃ t, exec (.spawn f) s = .next t ∧ t.mem = s1.mem ∧ t.cg.ureg f.d.toNat = 1) ∧
        ((h.tail + 2 ^ 64 - h.head) % 2 ^ 64 < 2 ^ h.z → 2 ^ 57 < p.toNat + 248 →
          exec (.spawn f) s = .next (s1.raise 0x04E none p)) ∧
        ((h.tail + 2 ^ 64 - h.head) % 2 ^ 64 < 2 ^ h.z → p.toNat + 248 ≤ 2 ^ 57 → s1.recordReqs p.toNat = .ok ls →
          (∀ l ∈ ls, l.place.remote = false) → s1.readReqs ls = (xs, s2) →
          let b := bytesOfNat 248 (laneNat 248 xs 0)
          s2.agentWrites ctx user (lineWrites (h.slotAt h.tail) (b ++ bytesOfNat 8 tl)) = .ok s3 →
          s3.agentWrite ctx user (h.base + 8) (bytesOfNat 8 tl) = .ok s4 →
          ∃ t, exec (.spawn f) s = .next t ∧ t.mem = s4.mem ∧ t.cg.ureg f.d.toNat = 0))) ∧
  (∀ (s s1 s2 s3 : State) (ctx list : Nat) (h : ListHead),
      Map.has s.ctxs ctx = true → list < 4 → (s.ctxOf ctx).stopped = false →
      field ((s.ctxOf ctx).sreg (0x400 + list)) 56 6 ≠ 0 → s.listHead ctx false list = .ok (some h, s1) →
      s2.agentWrite ctx false h.base (bytesOfNat 8 ((h.head + 1) % 2 ^ 64)) = .ok s3 →
      (∀ r, s1.headRecord ctx h = .launch r s2 →
        ∃ t, exec (.launchRecordTake ctx list) s = .next t ∧ t.mem = s3.mem ∧ t.teams = s3.teams ∧
          Map.find t.launches s3.nextLaunch = some ⟨ctx, list, h.head % 2 ^ h.z, r, 0, 0⟩ ∧
          ∀ k, k ≠ s3.nextLaunch → Map.find t.launches k = Map.find s3.launches k) ∧
      (s1.headRecord ctx h = .refuse s2 →
        ∃ t, exec (.launchRecordTake ctx list) s = .next t ∧ t.mem = s3.mem ∧ t.launches = s3.launches ∧
          (t.ctxOf ctx).sreg 0x404 = BitVec.ofNat 64 (list * 2 ^ 16 + h.head % 2 ^ h.z) ∧ (t.preg 0x851).getLsbD 1 = true))

/-- R84, R118, R193, R281, R30: a team placed on one core: each group owns its lanes, its root fragment stands at the entry with `om`
and `em` the lanes owned and no join, s0 holds the argument, every other register, predicate and byte of scratchpad is zero, every
window is unbound and every queue closed off, bf31 is the private record, and the policies are the context's.
R80, R83, R103, R109: a team all of whose groups have ended gives up what it holds; a launch whose teams have all retired is over; a
core that the owner retires has its team stopped where a save slot is free, and is retired once it holds none; a core where nothing has
issued for N cycles requests the stop of the blocked team that issued longest ago, while the waiting team that comes first of those that
would fit is to go there; a launch whose context has fewer private-memory slots than its next cluster takes is refused as a record is
(R280). A placement with scratchpad empties the L1 of its core, which is the model's reading of R193 (log 40).
R404: another master's write of `cretire` is ignored and counted. Which group slots are taken, and the zeros of tile storage, are the
model's choices (logs 4 and 9). -/
def Obligations.TeamsArePlacedAndRetire : Prop :=
  (∀ (s : State) (launch origin core : Nat) (l : Launch),
      Map.find s.launches launch = some l → s.placeable l origin = some [⟨0, 0, core⟩] → s.outranked (.launch launch) = false →
      l.record.pair = false →
      ∃ t k, exec (.teamPlace launch origin) s = .next t ∧ k ∈ s.freePrivates l.ctx ∧
        (l.record.scratch = 0 ∨ Map.get [] s.nc core = [] → t.mem = s.mem) ∧
        (l.record.scratch ≠ 0 → Map.get [] t.nc core = [] ∧ ∀ x, Map.get none t.lineOwner x ≠ some core) ∧
        (Map.find t.launches launch).map (·.next) = some (l.next + l.ranks) ∧
        let x := t.teamOf s.nextTeam
        let r := l.record
        x.ctx = l.ctx ∧ x.launch = launch ∧ x.index = l.next ∧ x.core = core ∧ x.width = r.width ∧ x.lanes = r.lanes ∧
          x.vblocks = r.vregs ∧ x.uregs = r.uregs ∧ x.tileUnits = r.tiles ∧ x.spSize = 32768 * r.scratch ∧ x.entries = r.frag ∧
          x.status = .resident ∧ x.sp = [] ∧ x.absent = [] ∧ x.win = [] ∧ x.q = [] ∧ x.ts = [] ∧ x.mc = [] ∧ x.pslot = k ∧
          Map.get 0 x.bf 31 = (s.ctxOf l.ctx).privateOf k ∧ (∀ j, j ≠ 31 → Map.get 0 x.bf j = 0) ∧
          (∀ j, Map.get 0 x.cvpol j = (s.ctxOf l.ctx).policy.getD j 0) ∧
          x.groups.map (·.1) = List.range r.groups ∧
          ∀ g < r.groups,
            let y := x.groupOf g
            y.owned = lowMask (min r.width (r.lanes - g * r.width)) ∧ y.exited = 0 ∧ y.sys = false ∧ y.v = [] ∧ y.p = [] ∧
              y.ureg 0 = r.args ∧ (∀ j, j ≠ 0 → y.ureg j = 0) ∧ (∀ j, y.flag j = 0) ∧ y.frags.map (·.1) = [g] ∧
              let e := y.fragOf g
              e.om = y.owned ∧ e.em = y.owned ∧ e.pc = r.entry ∧ e.join = none ∧ e.sib = none ∧ e.park = none) ∧
  (∀ (s : State),
      (∀ team, Map.has s.teams team = true → (s.teamOf team).status = .resident → (s.teamOf team).groups ≠ [] →
        (s.halves team).all s.teamDone = true →
        ∃ t, exec (.teamRetire team) s = .next t ∧ t.mem = s.mem ∧ ∀ h ∈ s.halves team, (t.teamOf h).groups = []) ∧
      (∀ launch l, Map.find s.launches launch = some l → l.retired = l.record.teams →
        s.reqs.all (fun r => !(r.2.launch == launch && r.2.reply.isNone && !r.2.fetch)) = true →
        (l.record.done = 0 → ∃ t, exec (.launchComplete launch) s = .next t ∧
          { t with launches := s.launches } = s ∧ Map.has t.launches launch = false) ∧
        (∀ b s1 s2, l.record.done ≠ 0 →
          ({ s with launches := Map.erase s.launches launch } : State).agentRead l.ctx false l.record.done 8 = .ok (b, s1) →
          s1.agentWrites l.ctx false (lineWrites l.record.done (bytesOfNat 8 (natOfBytes b + 1))) = .ok s2 →
          exec (.launchComplete launch) s = .next s2)) ∧
      (∀ core : BitVec 8,
        (s.owner ≠ masterNumber s.writer → ∃ t, exec (.cretire core) s = .next t ∧ t.mem = s.mem ∧ t.teams = s.teams ∧ t.retiring = s.retiring ∧ t.retired = s.retired ∧
          field (t.preg 0x854) 15 0 = (field (s.preg 0x854) 15 0 + 1) % 2 ^ 16) ∧
        (s.owner = masterNumber s.writer → s.retired.getLsbD core.toNat = false → core.toNat ∉ s.retiring →
          ∃ t, exec (.cretire core) s = .next t ∧ t.mem = s.mem ∧ t.retired = s.retired ∧ t.retiring = s.retiring ++ [core.toNat] ∧
            ∀ k, (s.teams.filter (fun t => t.2.core == core.toNat && t.2.holds)).map (·.1) = [k] → k ∈ s.clusterOf k →
              (s.teamOf k).ending = none → (s.teamOf k).status = .resident → (s.teamOf k).request = none →
              (s.canSave k = true → (t.teamOf k).request = some s.now) ∧ (s.canSave k = false → t.teams = s.teams))) ∧
      (∀ core : BitVec 8, core.toNat ∈ s.retiring → s.teams.all (fun t => t.2.core != core.toNat) = true →
        ∃ t, exec (.coreRetireEffect core) s = .next t ∧ t.retired.getLsbD core.toNat = true ∧ core.toNat ∉ t.retiring ∧
          t.teams = s.teams ∧ ∀ i, i ≠ core.toNat → t.retired.getLsbD i = s.retired.getLsbD i) ∧
      (∀ core n k w, s.swapAfter = some n → Map.get 0 s.lastIssue core + n ≤ s.now → s.swapChoice core s.canSave = some k →
        s.swapFor core = some w →
        k ∈ s.clusterOf k → (s.teamOf k).request = none → (s.teamOf k).ending = none → (s.teamOf k).status = .resident →
        ∃ t, exec (.coreSwap core) s = .next t ∧ { t.rest with swapIn := s.swapIn } = s.rest ∧ (t.teamOf k).request = some s.now ∧
          t.swapIn = s.swapIn ++ [w]) ∧
      (∀ launch origin l, Map.find s.launches launch = some l → s.placeable l origin = none → l.ranks ≠ 0 →
        (s.ctxOf l.ctx).privateCount < l.privatesDue →
        ∃ t, exec (.teamPlace launch origin) s = .next t ∧ t.mem = s.mem ∧ t.teams = s.teams ∧ Map.has t.launches launch = false ∧
          (t.ctxOf l.ctx).sreg 0x404 = BitVec.ofNat 64 (l.list * 2 ^ 16 + l.slot) ∧ (t.preg 0x851).getLsbD 1 = true))

/-! ## Worklists (R111 to R113) -/

/-- R112: `wlapp` appends each lane's item to the list it names, in ascending lane, while the list holds fewer than 1,024, and its
predicate says which lanes did; `wlpop` gives the oldest items to the lowest lanes, and its predicate says which got one.
R113: a registered worker belongs to its die's unit; `wlquiet` answers with the lists of its mask that hold items, with 0 in the
quiescent state, and else waits; when a die is quiescent, every wait there is over with 0. -/
def Obligations.Worklists : Prop :=
  (∀ (s : State) (f : FmtE),
      let die := s.ct.core / 64
      let owner := field (s.preg (0x802 + die)) 15 0
      owner ≠ 0 → owner = s.ct.ctx →
      (let list := fun l => (s.cg.vreg f.b.toNat l).toNat
       let old := fun q => Map.get [] s.lists (64 * die + q)
       let taken := fun q => (s.lanes.filter (fun l => list l = q)).take (1024 - (old q).length)
       s.Issues (.wlapp f) { reads := [.v f.a.toNat, .v f.b.toNat], writes := [.p f.d.toNat] } → (∀ l ∈ s.lanes, list l < 64) →
         ∃ t, exec (.wlapp f) s = .next t ∧ t.mem = s.mem ∧ t.cg.v = s.cg.v ∧ t.cg.s = s.cg.s ∧ t.cf.pc = nextPc s.cf.pc ∧
           (∀ q < 64, Map.get [] t.lists (64 * die + q) = old q ++ (taken q).map (s.cg.vreg f.a.toNat)) ∧
           (∀ q, q / 64 ≠ die → Map.get [] t.lists q = Map.get [] s.lists q) ∧
           ∀ l ∈ s.lanes, (t.cg.pred f.d.toNat).getLsbD l = decide (l ∈ taken (list l))) ∧
      (let b := s.cg.ureg f.b.toNat
       let key := 64 * die + field b 5 0
       let items := Map.get [] s.lists key
       let got := s.lanes.take items.length
       s.Issues (.wlpop f) { reads := [.s f.b.toNat], writes := [.v f.d.toNat, .p f.a.toNat] } → field b 63 6 = 0 →
         ∃ t, exec (.wlpop f) s = .next t ∧ t.mem = s.mem ∧ t.cg.s = s.cg.s ∧ t.cf.pc = nextPc s.cf.pc ∧
           Map.get [] t.lists key = items.drop got.length ∧
           (∀ q, q ≠ key → Map.get [] t.lists q = Map.get [] s.lists q) ∧
           (∀ (k l : Nat) (x : Word), got[k]? = some l → items[k]? = some x → t.cg.vreg f.d.toNat l = x) ∧
           (∀ r l, l < 64 → (r ≠ f.d.toNat ∨ l ∉ got) → t.cg.vreg r l = s.cg.vreg r l) ∧
           ∀ l ∈ s.lanes, (t.cg.pred f.a.toNat).getLsbD l = decide (l ∈ got))) ∧
  (∀ (s : State),
      let die := s.ct.core / 64
      let owner := field (s.preg (0x802 + die)) 15 0
      (owner ≠ 0 → owner = s.ct.ctx → s.actsAny = true →
        (s.Issues .wlquietReg {} → ∃ t, exec .wlquietReg s = .next t ∧ KeepsRegs s t ∧ t.cg.worker = some die ∧
          t.cf.pc = nextPc s.cf.pc) ∧
        (s.Issues .wlquietUnreg {} → s.cg.worker = some die → ∃ t, exec .wlquietUnreg s = .next t ∧ t.mem = s.mem ∧
          t.cg.worker = none ∧ t.cg.v = s.cg.v ∧ t.cf.pc = nextPc s.cf.pc) ∧
        ∀ f : FmtE, s.Issues (.wlquiet f) { reads := [.s f.a.toNat], writes := [.s f.d.toNat] } →
          let mask := s.cg.ureg f.a.toNat
          let full := mask &&& s.fullLists die
          (full ≠ 0 ∨ die ∈ s.quiet → ∃ t, exec (.wlquiet f) s = .next t ∧
            RegsOnly s t [] [.s f.d.toNat] (nextPc s.cf.pc) ∧ t.cg.ureg f.d.toNat = full) ∧
          (full = 0 → die ∉ s.quiet → ∃ t, exec (.wlquiet f) s = .next t ∧ t.mem = s.mem ∧ t.cg.s = s.cg.s ∧ t.cf.pc = s.cf.pc ∧
            (t.cf.park = some (.quiet die mask f.d.toNat) ∨ t.cf.park = some (.got f.d.toNat 0)))) ∧
      ∀ die, s.quiescent die = true → ∃ t, exec (.worklistQuiescent die) s = .next t ∧ t.mem = s.mem ∧ die ∈ t.quiet ∧
        ∀ r mask reg, (s.fragAt r).park = some (.quiet die mask reg) → (t.fragAt r).park = some (.got reg 0))

/-! ## Floating point, conversion and packed products (R24 to R37, R146 to R166) -/

namespace Sys2Proof.Machine.Claims

/-- A slot that takes effect completes with one register in every participating lane, of whose value a claim holds, and changes
nothing else (R150). -/
def LaneSays (s : State) (i : Instr) (u : Uses) (d : BitVec 8) (p : Nat → Nat → Prop) : Prop :=
  s.Issues i u → ∃ t, exec i s = .next t ∧ RegsOnly s t s.lanes [.v d.toNat] (nextPc s.cf.pc) ∧
    ∀ l ∈ s.lanes, p l (t.cg.vreg d.toNat l).toNat

/-- Element j of w bits of a word, its sign bit flipped where asked (R146, R147). -/
def elemAt (w j : Nat) (neg : Bool) (x : Nat) : Nat :=
  let e := x / 2 ^ (w * j) % 2 ^ w
  if neg then (e + 2 ^ (w - 1)) % 2 ^ w else e

/-- Element j of A, B and C of a lane (R147). -/
def fa (s : State) (f : FmtA) (w j l : Nat) : Nat := elemAt w j f.na (s.cg.vreg f.a.toNat l).toNat
def fb (s : State) (f : FmtA) (w j l : Nat) : Nat := elemAt w j f.nb (s.cg.src32 f l)
def fc (s : State) (f : FmtA) (w j l : Nat) : Nat := elemAt w j f.nc (s.cg.vreg f.c.toNat l).toNat

/-- A finite value as a multiple of 2^z, for an exponent z at or below its own. -/
def At (z : Int) (x : FVal) : Int := x.scaled z

/-- What holds at every exponent from some one down. -/
def Deep (p : Int → Prop) : Prop := ∃ z0 : Int, z0 ≤ 0 ∧ ∀ z, z ≤ z0 → p z

/-- The binary formats. -/
def formats : List FFmt := [.f32, .f16, .bf16, .e4m3, .e5m2, .e2m1]

/-- x is less than y, neither being a NaN. -/
def Less : FVal → FVal → Prop
  | .inf a, .inf b => a = true ∧ b = false
  | .inf a, .fin _ _ _ => a = true
  | .fin _ _ _, .inf b => b = false
  | .fin n m e, .fin n' m' e' => Deep (fun z => At z (.fin n m e) < At z (.fin n' m' e'))
  | _, _ => False

/-- The exact sum of values (R24, R25, R35): the infinities and NaNs first; a zero that is not all of one sign is +0, or -0 in RDN. -/
def ExactSum (rm : Rm) (xs : List FVal) (v : FVal) : Prop :=
  if xs.any FVal.isNan = true ∨ (FVal.inf false ∈ xs ∧ FVal.inf true ∈ xs) then v.isNan = true
  else if FVal.inf false ∈ xs then v = .inf false
  else if FVal.inf true ∈ xs then v = .inf true
  else ∃ n m e, v = .fin n m e ∧ Deep (fun z => At z v = (xs.map (At z)).sum) ∧
    (m = 0 → n =
      if xs.all (fun x => x.isZero && x.isNeg) = true then true
      else if xs.all (fun x => x.isZero && !x.isNeg) = true then false
      else decide (rm = .rdn))

/-- The exact product of two values (R24): 0 times an infinity is a NaN; the sign is the exclusive-or of the signs. -/
def ExactProduct (x y v : FVal) : Prop :=
  let n := x.isNeg != y.isNeg
  match x, y with
  | .nan _, _ | _, .nan _ => v.isNan = true
  | .inf _, y => if y.isZero = true then v.isNan = true else v = .inf n
  | x, .inf _ => if x.isZero = true then v.isNan = true else v = .inf n
  | .fin n1 m1 e1, .fin n2 m2 e2 => ∃ m e, v = .fin n m e ∧
    ∃ z0 : Int, ∀ z z' : Int, z ≤ z0 → z' ≤ z0 → At (z + z') v = At z (.fin n1 m1 e1) * At z' (.fin n2 m2 e2)

/-- The pattern of a value, rounded once (R28); with sat, what overflows is the largest finite magnitude (R149). -/
def pattern (f : FFmt) (rm : Rm) (sat : Bool) : FVal → Nat
  | .fin n m e => f.encode (if (f.round rm n m e).2 = true ∧ sat = true then .fin n f.maxM f.maxE else (f.round rm n m e).1)
  | v => f.encode v

/-- The results of R151 and R159, on patterns of a format: x + y, x - y, x times y, and the fused (+-x times y) +- z. -/
def Adds (f : FFmt) (rm : Rm) (sat : Bool) (x y r : Nat) : Prop :=
  ∃ v, ExactSum rm [f.decode x, f.decode y] v ∧ r = pattern f rm sat v
def Subs (f : FFmt) (rm : Rm) (sat : Bool) (x y r : Nat) : Prop :=
  ∃ v, ExactSum rm [f.decode x, (f.decode y).negate] v ∧ r = pattern f rm sat v
def Muls (f : FFmt) (rm : Rm) (sat : Bool) (x y r : Nat) : Prop :=
  ∃ v, ExactProduct (f.decode x) (f.decode y) v ∧ r = pattern f rm sat v
def Fuses (f : FFmt) (rm : Rm) (sat negP negC : Bool) (x y z r : Nat) : Prop :=
  ∃ p v, ExactProduct (f.decode x) (f.decode y) p ∧
    ExactSum rm [if negP then p.negate else p, if negC then (f.decode z).negate else f.decode z] v ∧ r = pattern f rm sat v

/-- minimumNumber, or maximumNumber (R26): the number, of a number and a NaN; -0 below +0; the selected operand's own pattern. -/
def Selects (f : FFmt) (greatest : Bool) (x y r : Nat) : Prop :=
  let p := f.decode x
  let q := f.decode y
  match p.isNan, q.isNan with
  | true, true => r = f.canonNan
  | true, false => r = y
  | false, true => r = x
  | false, false =>
    (Less p q → r = if greatest then y else x) ∧ (Less q p → r = if greatest then x else y) ∧
      (¬ Less p q → ¬ Less q p → r = if p.isNeg != greatest then x else y)

/-- x / y (R154): a quotient of finite values enters the rounding by 2^40 or more of its units and one bit for the rest of it. -/
def Divides (rm : Rm) (sat : Bool) (x y r : Nat) : Prop :=
  let f := FFmt.f32
  let n := (f.decode x).isNeg != (f.decode y).isNeg
  match f.decode x, f.decode y with
  | .nan _, _ | _, .nan _ | .inf _, .inf _ => r = f.canonNan
  | .inf _, .fin _ _ _ => r = f.encode (.inf n)
  | .fin _ _ _, .inf _ => r = f.encode (.fin n 0 0)
  | .fin _ a e, .fin _ b g =>
    if b = 0 then r = if a = 0 then f.canonNan else f.encode (.inf n)
    else if a = 0 then r = f.encode (.fin n 0 0)
    else ∃ k h : Nat, 2 ^ 40 ≤ k ∧ k * b ≤ a * 2 ^ h ∧ a * 2 ^ h < (k + 1) * b ∧
      r = pattern f rm sat (.fin n (2 * k + if k * b = a * 2 ^ h then 0 else 1) (e - g - h - 1))

/-- The square root (R154), which enters the rounding in the same way. -/
def Roots (rm : Rm) (x r : Nat) : Prop :=
  let f := FFmt.f32
  match f.decode x with
  | .nan _ | .inf true => r = f.canonNan
  | .inf false => r = f.encode (.inf false)
  | .fin n a e =>
    if a = 0 then r = f.encode (.fin n 0 0)
    else if n = true then r = f.canonNan
    else ∃ (k h : Nat) (q : Int), 2 ^ 40 ≤ k ∧ 2 * q + h = e ∧ k * k ≤ a * 2 ^ h ∧ a * 2 ^ h < (k + 1) * (k + 1) ∧
      r = pattern f rm false (.fin false (2 * k + if k * k = a * 2 ^ h then 0 else 1) (q - 1))

/-- m 2^e, of a sign, rounded to the whole number k in a mode (R27). -/
def Integral (rm : Rm) (neg : Bool) (m : Nat) (e : Int) (k : Nat) : Prop :=
  let d := 2 ^ (-e).toNat
  let x := m * 2 ^ e.toNat
  let down := k * d ≤ x ∧ x < (k + 1) * d
  let up := x ≤ k * d ∧ k * d < x + d
  match rm with
  | .rtz => down
  | .rdn => if neg then up else down
  | .rup => if neg then down else up
  | .rne => 2 * x ≤ (2 * k + 1) * d ∧ 2 * k * d ≤ 2 * x + d ∧ (2 * x = (2 * k + 1) * d ∨ 2 * k * d = 2 * x + d → k % 2 = 0)

/-- A finite value is the integer k. -/
def IsInt (v : FVal) (k : Int) : Prop := Deep (fun z => At z v = k * 2 ^ (-z).toNat)

/-- The exact cases of the approximate functions (R155, R156). -/
def RcpCases (x r : Nat) : Prop :=
  let f := FFmt.f32
  match f.decode x with
  | .nan _ => r = f.canonNan
  | .inf n => r = f.encode (.fin n 0 0)
  | .fin n m e =>
    (m = 0 → r = f.encode (.inf n)) ∧ (Less (.fin false m e) (.fin false 1 (-128)) → r = f.encode (.inf n)) ∧
      ∀ k : Nat, m = 2 ^ k → -(k + e) ≤ 127 → r = f.encode (.fin n 1 (-(k + e)))
def RsqCases (x r : Nat) : Prop :=
  let f := FFmt.f32
  match f.decode x with
  | .nan _ | .inf true => r = f.canonNan
  | .inf false => r = f.encode (.fin false 0 0)
  | .fin n m e =>
    (m = 0 → r = f.encode (.inf n)) ∧ (m ≠ 0 → n = true → r = f.canonNan) ∧
      ∀ (k : Nat) (h : Int), m = 2 ^ k → n = false → k + e = 2 * h → r = f.encode (.fin false 1 (-h))
def Ex2Cases (x r : Nat) : Prop :=
  let f := FFmt.f32
  match f.decode x with
  | .nan _ => r = f.canonNan
  | .inf n => r = if n then f.encode (.fin false 0 0) else f.encode (.inf false)
  | .fin n m e =>
    (¬ Less (.fin n m e) (.fin false 128 0) → r = f.encode (.inf false)) ∧
      (Less (.fin n m e) (.fin true 150 0) → r = f.encode (.fin false 0 0)) ∧
      ∀ k : Int, -149 ≤ k → k ≤ 127 → IsInt (.fin n m e) k → r = f.encode (.fin false 1 k)
def Lg2Cases (x r : Nat) : Prop :=
  let f := FFmt.f32
  match f.decode x with
  | .nan _ | .inf true => r = f.canonNan
  | .inf false => r = f.encode (.inf false)
  | .fin n m e =>
    (m = 0 → r = f.encode (.inf true)) ∧ (m ≠ 0 → n = true → r = f.canonNan) ∧
      ∀ k : Nat, m = 2 ^ k → n = false → r = f.encode (.fin (decide (k + e < 0)) (k + e).natAbs 0)
def SinCases (x r : Nat) : Prop :=
  let f := FFmt.f32
  match f.decode x with
  | .nan _ | .inf _ => r = f.canonNan
  | .fin n m _ => m = 0 → r = f.encode (.fin n 0 0)
def CosCases (x r : Nat) : Prop :=
  let f := FFmt.f32
  match f.decode x with
  | .nan _ | .inf _ => r = f.canonNan
  | .fin _ m _ => m = 0 → r = f.encode (.fin false 1 0)
def TanhCases (x r : Nat) : Prop :=
  let f := FFmt.f32
  match f.decode x with
  | .nan _ => r = f.canonNan
  | .inf n => r = f.encode (.fin n 1 0)
  | .fin n m e =>
    (m = 0 → r = f.encode (.fin n 0 0)) ∧ (¬ Less (.fin false m e) (.fin false 9 0) → r = f.encode (.fin n 1 0))

/-- `frnd`, `ffrac`, `fclass` and `fscale` (R157, R158). -/
def Rounds (rm : Rm) (x r : Nat) : Prop :=
  match FFmt.f32.decode x with
  | .nan _ => r = FFmt.f32.canonNan
  | .inf _ => r = x
  | .fin n m e => ∃ k, Integral rm n m e k ∧ r = FFmt.f32.encode (.fin n k 0)
def Fraction (x r : Nat) : Prop :=
  match FFmt.f32.decode x with
  | .fin n m e => ∃ (fl : Int) (k : Nat) (g : Int),
      Deep (fun z => At z (.fin n m e) = fl * 2 ^ (-z).toNat + At z (.fin false k g) ∧ At z (.fin false k g) < 2 ^ (-z).toNat) ∧
      r = pattern .f32 .rtz false (.fin false k g)
  | _ => r = FFmt.f32.canonNan
def classBit (f : FFmt) (x : Nat) : Nat :=
  match f.decode x with
  | .inf n => if n then 0 else 7
  | .nan _ => if x.testBit (f.fbits - 1) then 9 else 8
  | .fin n m _ =>
    if m = 0 then (if n then 3 else 4) else if m < 2 ^ f.fbits then (if n then 2 else 5) else (if n then 1 else 6)
def Scales (rm : Rm) (sat : Bool) (v : FVal) (n : Int) (r : Nat) : Prop :=
  match v with
  | .nan _ => r = FFmt.f32.canonNan
  | .inf g => r = FFmt.f32.encode (.inf g)
  | .fin g m e => r = pattern .f32 rm sat (.fin g m (e + n))

end Sys2Proof.Machine.Claims

/-- R28: rounding gives, of the values that a format holds, the nearest, of two the one with the even significand (RNE), the greatest not
above (RDN), the least not below (RUP), and the greatest in magnitude not beyond (RTZ), where it does not overflow, and the pattern
written stands for that value; a value that overflows lies beyond the largest one, and gives an infinity or the largest, by mode. -/
def Obligations.RoundingChoosesNeighbour : Prop :=
  ∀ f ∈ formats, ∀ (neg : Bool) (m : Nat) (e : Int) (mode : Rm),
    let out := f.round mode neg m e
    (out.2 = false →
      ∃ n k q, out.1 = .fin n k q ∧
        (∃ k' q', f.decode (f.encode (.fin n k q)) = .fin n k' q' ∧ ∀ z, z ≤ q → z ≤ q' → At z (.fin n k' q') = At z (.fin n k q)) ∧
        ∀ x n' k' q', f.decode x = .fin n' k' q' → ∀ z, z ≤ e → z ≤ q → z ≤ q' →
          let v := At z (.fin neg m e)
          let r := At z (.fin n k q)
          let y := At z (.fin n' k' q')
          match mode with
          | .rne => (r - v).natAbs ≤ (y - v).natAbs ∧ ((r - v).natAbs = (y - v).natAbs → y ≠ r → k % 2 = 0)
          | .rdn => r ≤ v ∧ (y ≤ v → y ≤ r)
          | .rup => v ≤ r ∧ (v ≤ y → r ≤ y)
          | .rtz => r.natAbs ≤ v.natAbs ∧ (y.natAbs ≤ v.natAbs → y.natAbs ≤ r.natAbs)) ∧
    (out.2 = true →
      (∀ z, z ≤ e → z ≤ f.maxE → At z (.fin false f.maxM f.maxE) < At z (.fin false m e)) ∧
      out.1 =
        if mode = .rne ∨ (mode = .rup ∧ neg = false) ∨ (mode = .rdn ∧ neg = true) then .inf neg else .fin neg f.maxM f.maxE)

/-- R151 to R154, R157 to R159: each floating instruction completes, for every operand, with the pattern of its exact result rounded once
by R28 in every participating lane, and changes nothing else; `fmin` and `fmax` select by R26; a comparison writes a predicate;
`fclass` sets the bit of the operand's class; the packed ones act on both elements alike; with `sat` a finite result that
overflows is the largest finite magnitude, but for a quotient by 0. A scalar half b with nonzero high bits takes 0x002 (R147).
R156: an approximate function completes with a result that is the exact one in the cases that R156 lists.
What it delivers elsewhere, within the bound of R155, is a free value (log 7), of which this says nothing. -/
def Obligations.FloatResults : Prop :=
  (∀ (s : State) (f : FmtA),
      let a := fa s f 32 0
      let b := fb s f 32 0
      let c := fc s f 32 0
      let m := Ty.ffmt f.ty
      LaneSays s (.fadd f) (usesAB1 f) f.d (fun l => Adds .f32 f.rm f.sat (a l) (b l)) ∧
      LaneSays s (.fsub f) (usesAB1 f) f.d (fun l => Subs .f32 f.rm f.sat (a l) (b l)) ∧
      LaneSays s (.fmul f) (usesAB1 f) f.d (fun l => Muls .f32 f.rm f.sat (a l) (b l)) ∧
      LaneSays s (.ffma f) (usesABC1 f) f.d (fun l => Fuses .f32 f.rm f.sat false false (a l) (b l) (c l)) ∧
      LaneSays s (.ffms f) (usesABC1 f) f.d (fun l => Fuses .f32 f.rm f.sat false true (a l) (b l) (c l)) ∧
      LaneSays s (.fnma f) (usesABC1 f) f.d (fun l => Fuses .f32 f.rm f.sat true false (a l) (b l) (c l)) ∧
      LaneSays s (.fmin f) (usesAB1 f) f.d (fun l => Selects .f32 false (a l) (b l)) ∧
      LaneSays s (.fmax f) (usesAB1 f) f.d (fun l => Selects .f32 true (a l) (b l)) ∧
      LaneSays s (.fdiv f) (usesAB1 f) f.d (fun l => Divides f.rm f.sat (a l) (b l)) ∧
      LaneSays s (.fsqrt f) (usesA1 f) f.d (fun l => Roots f.rm (a l)) ∧
      LaneSays s (.frcp f) (usesA1 f) f.d (fun l => RcpCases (a l)) ∧
      LaneSays s (.frsq f) (usesA1 f) f.d (fun l => RsqCases (a l)) ∧
      LaneSays s (.fex2 f) (usesA1 f) f.d (fun l => Ex2Cases (a l)) ∧
      LaneSays s (.flg2 f) (usesA1 f) f.d (fun l => Lg2Cases (a l)) ∧
      LaneSays s (.fsin f) (usesA1 f) f.d (fun l => SinCases (a l)) ∧
      LaneSays s (.fcos f) (usesA1 f) f.d (fun l => CosCases (a l)) ∧
      LaneSays s (.ftanh f) (usesA1 f) f.d (fun l => TanhCases (a l)) ∧
      LaneSays s (.frnd f) (usesA1 f) f.d (fun l => Rounds f.rm (a l)) ∧
      LaneSays s (.ffrac f) (usesA1 f) f.d (fun l => Fraction (a l)) ∧
      LaneSays s (.fclass f) (usesA1 f) f.d (fun l r => r = 2 ^ classBit m (fa s f (w f) 0 l)) ∧
      LaneSays s (.fscale f) (usesAB1 f) f.d (fun l =>
        Scales f.rm f.sat (FFmt.f32.decode (a l)) (max (-512) (min 512 (BitVec.ofNat 32 (s.cg.src32 f l)).toInt))) ∧
      (let each := fun (p : Nat → Nat → Nat → Nat → Prop) (l r : Nat) =>
         ∀ j < 2, p (fa s f 16 j l) (fb s f 16 j l) (fc s f 16 j l) (r / 65536 ^ j % 65536)
       LaneSays s (.hadd2 f) (usesAB1 f) f.d (each (fun x y _ => Adds m f.rm f.sat x y)) ∧
       LaneSays s (.hmul2 f) (usesAB1 f) f.d (each (fun x y _ => Muls m f.rm f.sat x y)) ∧
       LaneSays s (.hfma2 f) (usesABC1 f) f.d (each (fun x y z => Fuses m f.rm f.sat false false x y z)) ∧
       LaneSays s (.hmin2 f) (usesAB1 f) f.d (each (fun x y _ => Selects m false x y)) ∧
       LaneSays s (.hmax2 f) (usesAB1 f) f.d (each (fun x y _ => Selects m true x y))) ∧
      ∀ k, let u : Uses := { reads := .v f.a.toNat :: useB f false ++ predReg f.c, writes := predReg f.d }
        let high := f.bsel ≠ 0 ∧ f.ty ≠ .f32 ∧ s.cg.src32 f 0 / 65536 ≠ 0
        s.Issues (.fcmp k f) u →
        (high → exec (.fcmp k f) s = .next (s.raise 0x002)) ∧
        (¬ high → ∃ t, exec (.fcmp k f) s = .next t ∧ RegsOnly s t s.lanes (predReg f.d) (nextPc s.cf.pc) ∧
          ∀ l ∈ s.lanes,
            let p := m.decode (fa s f (w f) 0 l)
            let q := m.decode (fb s f (w f) 0 l)
            let un := p.isNan = true ∨ q.isNan = true
            (t.cg.pred f.d.toNat).getLsbD l = true ↔ P s f.c f.nc l = true ∧
              match k with
              | .eq => ¬ un ∧ ¬ Less p q ∧ ¬ Less q p
              | .ne => un ∨ Less p q ∨ Less q p
              | .lt => Less p q
              | .le => ¬ un ∧ ¬ Less q p
              | .gt => Less q p
              | .ge => ¬ un ∧ ¬ Less p q
              | .un => un))

namespace Sys2Proof.Machine.Claims

/-- The half-step code nearest a finite value; a tie goes to the smaller magnitude, and a zero to the half of its sign (R22). -/
def HalfCode (neg : Bool) (m : Nat) (e : Int) (k : Int) : Prop :=
  if m = 0 then k = if neg then -1 else 0
  else Deep (fun z =>
    let off := fun j : Int => (2 * At z (.fin neg m e) - (2 * j + 1) * 2 ^ (-z).toNat).natAbs
    ∀ j, off k ≤ off j ∧ (off k = off j → (2 * k + 1).natAbs ≤ (2 * j + 1).natAbs))

/-- The class of a value for a target (R29), none where it is ordinary, and then its pattern. -/
def Classed (t : Ty) (rm : Rm) (x : FVal) (c : Option ConvClass) (y : Nat) : Prop :=
  match x with
  | .nan _ => c = some .nan
  | .inf _ => c = some .inf
  | .fin n m e =>
    if t.isFloat = true then
      let r := (Ty.ffmt t).round rm n m e
      if r.2 = true then c = some .ovf
      else if m ≠ 0 ∧ r.1.isZero = true then c = some .unf
      else c = none ∧ y = (Ty.ffmt t).encode r.1
    else ∃ k : Int,
      (if t.isHalf = true then HalfCode n m e k else ∃ q : Nat, Integral rm n m e q ∧ k = if n then -(q : Int) else q) ∧
      let low : Int := if t.isHalf = true ∨ Ty.signed t = true then -(2 ^ (Ty.bits t - 1)) else 0
      let high : Int := if t.isHalf = true ∨ Ty.signed t = true then 2 ^ (Ty.bits t - 1) - 1 else 2 ^ Ty.bits t - 1
      if k < low ∨ high < k then c = some .ovf else c = none ∧ y = (k % 2 ^ Ty.bits t).toNat

/-- What a choice that is no fault gives for a class (R31). -/
def chosen (t : Ty) (rm : Rm) (x : FVal) (c : ConvClass) (choice : Nat) : Nat :=
  let f := Ty.ffmt t
  let b := Ty.bits t
  let neg := x.isNeg
  let largest :=
    if t.isFloat then f.encode (.fin neg f.maxM f.maxE)
    else if t.isHalf || Ty.signed t then (if neg then 2 ^ (b - 1) else 2 ^ (b - 1) - 1)
    else if neg then 0 else 2 ^ b - 1
  let zero := fun n : Bool => if n then (if t.isFloat then 2 ^ (b - 1) else if t.isHalf then 2 ^ b - 1 else 0) else 0
  let infinite := decide (t ∈ [Ty.f32, .f16, .bf16, .e5m2])
  match c, choice with
  | .unf, 0 => zero neg + 1
  | _, 0 => largest
  | .nan, 1 => zero false
  | _, 1 => zero neg
  | .nan, _ => if infinite || t == .e4m3 then f.canonNan else largest
  | .inf, _ => if infinite then f.encode (.inf neg) else largest
  | .ovf, _ => if infinite then (match x with | .fin n m e => f.encode (f.round rm n m e).1 | _ => 0) else largest
  | .unf, _ => zero neg

/-- An element's conversion under a policy delivers a pattern, or takes the fault choice of its class (R29 to R32). -/
def Delivers (t : Ty) (rm : Rm) (pol : DWord) (x : FVal) (y : Nat) : Prop :=
  Classed t rm x none y ∨ ∃ c, Classed t rm x (some c) y ∧ ConvClass.choice pol c ≠ 3 ∧ y = chosen t rm x c (ConvClass.choice pol c)
def Faults (t : Ty) (rm : Rm) (pol : DWord) (x : FVal) (c : ConvClass) : Prop :=
  ∃ y, Classed t rm x (some c) y ∧ ConvClass.choice pol c = 3

/-- A conversion of elements completes where none of them takes the fault choice; else it writes nothing and takes the cause of the
first class that does, with the lanes that hold an element of it and the policy's number (R32). -/
def ConvertsAll (s : State) (i : Instr) (u : Uses) (d : List Reg) (n cnt : Nat) (t : Ty) (rm : Rm) (x : Nat → Nat → FVal)
    (holds : State → Nat → Nat → Nat → Prop) : Prop :=
  s.Issues i u →
    let pol := Map.get 0 s.ct.cvpol n
    let at_ := fun c l => ∃ j < cnt, Faults t rm pol (x l j) c
    ((∀ c, ∀ l ∈ s.lanes, ¬ at_ c l) →
      ∃ t', exec i s = .next t' ∧ RegsOnly s t' s.lanes d (nextPc s.cf.pc) ∧
        ∀ l ∈ s.lanes, ∀ j < cnt, ∃ y, Delivers t rm pol (x l j) y ∧ holds t' l j y) ∧
    ∀ c, (∃ l ∈ s.lanes, at_ c l) → (∀ l ∈ s.lanes, ∀ c', at_ c' l → (ConvClass.cause c).toNat ≤ (ConvClass.cause c').toNat) →
      ∃ m : Mask, (∀ l < 64, m.getLsbD l = true ↔ l ∈ s.lanes ∧ at_ c l) ∧
        exec i s = .next (s.raise (ConvClass.cause c) (some m) (BitVec.ofNat 64 n))

end Sys2Proof.Machine.Claims

/-- R160 to R163: `cvt`, `cvtpk` and `cvtun` complete with each element's result where no element takes its policy's fault choice, and
else write nothing and take the cause of R32.
R164 to R166: the dot products complete with the exact sum of the products of their elements and the accumulator, rounded once or made
to fit, and `mxs` with the value times its two scales, rounded once.
That `na` on an integer source of `mxs` negates the integer is the model's reading (log 52). -/
def Obligations.ConversionsAndDotProducts : Prop :=
  ∀ (s : State) (f : FmtA),
    let n4 := (f.imm.extractLsb' 4 3).toNat
    let n0 := (f.imm.extractLsb' 0 3).toNat
    let cnt := Ty.packN f.ty
    let b := Ty.bits f.ty
    ConvertsAll s (.cvt f) { reads := regsOf f.cvtSrc f.a, writes := regsOf f.ty f.d } (dest f.ty f.d) n4 1 f.ty f.rm
      (fun l _ => Ty.value f.cvtSrc (s.cg.regI f.cvtSrc f.a.toNat l)) (fun t l _ y => t.cg.Holds f.ty f.d.toNat l y) ∧
    ConvertsAll s (.cvtpk f) { reads := vregs f.a.toNat cnt, writes := [.v f.d.toNat] } [.v f.d.toNat] n0 cnt f.ty f.rm
      (fun l j => FFmt.f32.decode (s.cg.vreg (f.a.toNat + j) l).toNat)
      (fun t l j y => (t.cg.vreg f.d.toNat l).toNat / 2 ^ (b * j) % 2 ^ b = y) ∧
    ConvertsAll s (.cvtun f) { reads := [.v f.a.toNat], writes := vregs f.d.toNat cnt } (vregs f.d.toNat cnt) n0 cnt .f32 f.rm
      (fun l j => Ty.value f.ty (elemAt b j false (s.cg.vreg f.a.toNat l).toNat))
      (fun t l j y => t.cg.vreg (f.d.toNat + j) l = BitVec.ofNat 32 y) ∧
    (let dot := fun (t : Ty) (l r : Nat) =>
       ∃ (ps : List FVal) (v : FVal), ps.length = 32 / Ty.bits t ∧
         (∀ j p, ps[j]? = some p →
           ExactProduct ((Ty.ffmt t).decode (fa s f (Ty.bits t) j l)) ((Ty.ffmt t).decode (fb s f (Ty.bits t) j l)) p) ∧
         ExactSum .rne (ps ++ [FFmt.f32.decode (fc s f 32 0 l)]) v ∧ r = pattern .f32 .rne false v
     LaneSays s (.dp2Bf16 f) (usesABC1 f) f.d (dot .bf16) ∧ LaneSays s (.dp2F16 f) (usesABC1 f) f.d (dot .f16) ∧
     LaneSays s (.dp4E4m3 f) (usesABC1 f) f.d (dot .e4m3) ∧ LaneSays s (.dp4E5m2 f) (usesABC1 f) f.d (dot .e5m2) ∧
     LaneSays s (.dp8E2m1 f) (usesABC1 f) f.d (dot .e2m1)) ∧
    (let sum := fun (wd : Nat) (v : BitVec wd → Int) (l : Nat) =>
       ((List.range (32 / wd)).map (fun j =>
         v (BitVec.ofNat wd ((s.cg.vreg f.a.toNat l).toNat / 2 ^ (wd * j))) * v (BitVec.ofNat wd (s.cg.src32 f l / 2 ^ (wd * j))))).sum
     let fits := fun (low high : Int) (x : Int) (r : Nat) =>
       r = ((if f.sat then max low (min high x) else x) % 2 ^ 32).toNat
     let acc := fun l => s.cg.vreg f.c.toNat l
     LaneSays s (.dp4I8 f) (usesABC1 f) f.d (fun l => fits (-(2 ^ 31)) (2 ^ 31 - 1) (sum 8 BitVec.toInt l + (acc l).toInt)) ∧
     LaneSays s (.dp4N8 f) (usesABC1 f) f.d (fun l => fits 0 (2 ^ 32 - 1) (sum 8 (fun x => (x.toNat : Int)) l + (acc l).toNat)) ∧
     LaneSays s (.dp4Hs8 f) (usesABC1 f) f.d
       (fun l => fits (-(2 ^ 31)) (2 ^ 31 - 1) (sum 8 (fun x => 2 * x.toInt + 1) l + (acc l).toInt)) ∧
     LaneSays s (.dp8Hs4 f) (usesABC1 f) f.d
       (fun l => fits (-(2 ^ 31)) (2 ^ 31 - 1) (sum 4 (fun x => 2 * x.toInt + 1) l + (acc l).toInt))) ∧
    LaneSays s (.mxs f) (usesAB1 f) f.d (fun l r =>
      let ea := s.cg.src32 f l % 256
      let eb := s.cg.src32 f l / 256 % 256
      let x := (s.cg.vreg f.a.toNat l).toInt
      let v : FVal :=
        if f.ty = .f32 then FFmt.f32.decode (fa s f 32 0 l)
        else .fin (decide ((if f.na then -x else x) < 0)) x.natAbs 0
      if ea = 255 ∨ eb = 255 then r = FFmt.f32.canonNan else Scales f.rm f.sat v (ea + eb - 254) r)

/-! ## Tiles (R168 to R191) -/

namespace Sys2Proof.Machine.Claims

/-- Nothing outside the executing team changes. -/
structure TeamAlone (s t : State) : Prop where
  outside : t.rest = s.rest
  otherTeams : ∀ k, k ≠ s.cur.ref.team → t.teamOf k = s.teamOf k

/-- The executing group changes nothing but its flags, its in-flight records and its fragment, which goes on in sequence. -/
structure GoesOnOnly (s t : State) : Prop where
  v : t.cg.v = s.cg.v
  u : t.cg.s = s.cg.s
  p : t.cg.p = s.cg.p
  rest : t.cg.rest = s.cg.rest
  otherFrags : ∀ e, e ≠ s.cur.ref.entry → t.cg.fragOf e = s.cg.fragOf e
  fragment : t.cf = s.cf.goTo (nextPc s.cf.pc)
  otherGroups : ∀ k, k ≠ s.cur.ref.group → t.ct.groupOf k = s.ct.groupOf k

/-- The units that an instruction uses are free: no earlier tile instruction of the team holds them, and none that is read has
failed (R174, R191). -/
structure UnitsFree (s : State) (use : TileUse) : Prop where
  parked : s.tileParked use = false
  held : s.ct.tileHeld s.tick use = false
  good : ∀ u ∈ use.reads, u ∉ s.ct.badUnits

/-- One tile is written: the executing group only goes on, and of the package no byte changes but the tile's. -/
structure WritesTile (s t : State) (d : Tile) : Prop where
  alone : TeamAlone s t
  team : { t.ct with groups := [], tiles := [], badUnits := [] } = { s.ct with groups := [], tiles := [], badUnits := [] }
  group : GoesOnOnly s t
  bytes : ∀ a, a < 4096 * d.base ∨ 4096 * d.base + d.bytes ≤ a → Map.get 0 t.ct.tiles a = Map.get 0 s.ct.tiles a

/-- An instruction that fills a tile from what it reads completes, and a claim holds of each element. -/
def FillsSo (s : State) (i : Instr) (u : Uses) (d : Tile) (reads : List Nat) (p : Nat → Nat → Nat → Prop) : Prop :=
  s.actsAny = true → UnitsFree s ⟨reads, d.units⟩ → s.Issues i u →
    ∃ t, exec i s = .next t ∧ WritesTile s t d ∧ ∀ i < d.rows, ∀ j < d.cols, p i j (t.ct.tileElem d i j)

/-- The same, each element being the value of its type's width. -/
def Fills (s : State) (i : Instr) (u : Uses) (d : Tile) (reads : List Nat) (v : Nat → Nat → Nat) : Prop :=
  FillsSo s i u d reads (fun i j x => x = v i j % 2 ^ d.bits)

/-- Rows and columns of A' and B', transposed by tmod (R181). -/
def rowsA (f : FmtT) (a : Tile) : Nat := if f.tmod.getLsbD 1 then a.cols else a.rows
def colsA (f : FmtT) (a : Tile) : Nat := if f.tmod.getLsbD 1 then a.rows else a.cols
def rowsB (f : FmtT) (b : Tile) : Nat := if f.tmod.getLsbD 2 then b.cols else b.rows
def colsB (f : FmtT) (b : Tile) : Nat := if f.tmod.getLsbD 2 then b.rows else b.cols
def elA (f : FmtT) (t : Team) (a : Tile) (i k : Nat) : Nat := if f.tmod.getLsbD 1 then t.tileElem a k i else t.tileElem a i k
def elB (f : FmtT) (t : Team) (b : Tile) (k j : Nat) : Nat := if f.tmod.getLsbD 2 then t.tileElem b j k else t.tileElem b k j

/-- The operands of a product agree (R181, R183): types, shapes and places. -/
structure Matched (f : FmtT) (acc : Ty) (a b c d : Tile) : Prop where
  types : a.ty = f.ty ∧ (b.ty = f.ty ∨ (f.ty = .e4m3 ∧ b.ty = .e5m2) ∨ (f.ty = .e5m2 ∧ b.ty = .e4m3))
  inner : colsA f a = rowsB f b
  result : d.ty = acc ∧ d.rows = rowsA f a ∧ d.cols = colsB f b
  addend : f.zc = false → c.ty = acc ∧ c.rows = rowsA f a ∧ c.cols = colsB f b
  apart : d.overlaps a = false ∧ d.overlaps b = false ∧ (f.zc = false → d.overlaps c = true → d.same c = true)

/-- An accumulator over the parts of a sum (R38, R41): each part's value is rounded once, then added to it and rounded. -/
def Accumulates (parts start : Nat) (part : Nat → FVal → Prop) (r : Nat) : Prop :=
  let f := FFmt.f32
  ∃ acc : Nat → Nat, acc 0 = start ∧ acc parts = r ∧
    ∀ n < parts, ∃ v w, part n v ∧ ExactSum .rne [f.decode (acc n), f.decode (pattern f .rne false v)] w ∧
      acc (n + 1) = pattern f .rne false w

/-- The exact sum of the products k of [lo, hi), each of which a claim describes. -/
def SumsProducts (lo hi : Nat) (prod : Nat → FVal → Prop) (v : FVal) : Prop :=
  ∃ ps : List FVal, ps.length = hi - lo ∧ (∀ n p, ps[n]? = some p → prod (lo + n) p) ∧ ExactSum .rne ps v

/-- The value of an E8M0 scale (R19): a byte of a register, which holds the blocks 4 q to 4 q + 3 of a slice (R182). -/
def scaleOf (g : Group) (r : BitVec 8) (w q i kb : Nat) : FVal :=
  let x := (g.vreg (r.toNat + i / w * q + kb / 4) (i % w)).toNat / 256 ^ (kb % 4) % 256
  if x = 255 then .nan false else .fin false 1 ((x : Int) - 127)

/-- Row i of `mld` and `mst` in scratchpad (R178), and the checks of all rows. -/
def rowOf (f : FmtT) (x : DWord) (i : Nat) : Nat := field x 31 0 + f.imm.toNat % 65536 + i * (f.imm.toNat / 65536)
structure RowsOk (s : State) (f : FmtT) (d : Tile) (x : DWord) : Prop where
  aligned : rowOf f x 0 % 16 = 0 ∧ (f.imm.toNat / 65536) % 16 = 0
  pitch : d.rowBytes ≤ f.imm.toNat / 65536
  bounds : ∀ i < d.rows, rowOf f x i + d.rowBytes ≤ s.ct.spSize
  present : ∀ i < d.rows, ∀ j < d.rowBytes, s.ct.lineAbsent ((rowOf f x i + j) / 128) = false

/-- n bytes of a team's scratchpad can be read: aligned, within bounds, present, and good (R195, R197, R198). -/
def Readable (t : Team) (x n : Nat) : Prop :=
  x % n = 0 ∧ x + n ≤ t.spSize ∧ t.lineAbsent (x / 128) = false ∧ x / 128 ∉ t.badSp

/-- A shape register that is enabled with a shape R171 allows. -/
def Shaped (s : State) (n : BitVec 4) : Prop :=
  (s.ct.tile n).en = true ∧ shapeBad (Map.get 0 s.ct.mc n.toNat) s.ct.tileUnits = false

end Sys2Proof.Machine.Claims

/-- R177, R181 to R183, R185 to R187: `mzero`, `mma`, `mmas`, `mcvt`, `madd` and `mtr` write every element of their destination, from
the tiles as they were, and no other byte; `mrel` releases the shape registers of its mask. A product's chunks are exact sums rounded
once and then added to the accumulator (R38), with the block scales of R182 or the row and column scales of R41. An operand that is not
enabled takes 0x012, and a conversion with an element that takes its policy's fault choice writes nothing and takes the cause. -/
def Obligations.TileArithmetic : Prop :=
  ∀ (s : State) (f : FmtT),
    let t := s.ct
    let a := t.tile f.ma
    let b := t.tile f.mb
    let c := if f.zc then t.tile f.md else t.tile f.mc
    let d := t.tile f.md
    let K := colsA f a
    let w := t.width
    let used := a.units ++ b.units ++ (if f.zc then [] else c.units)
    let start := fun i j => if f.zc then 0 else t.tileElem c i j
    let rm := match (f.tmod.extractLsb' 0 2).toNat with | 0 => Rm.rne | 1 => .rtz | 2 => .rdn | _ => .rup
    let needs := fun (i : Instr) (u : Uses) (l : List Tile) =>
      s.actsAny = true → l.any (fun x => !x.en) = true → s.Issues i u → exec i s = .next (s.raise 0x012)
    (needs (.mzero f) {} [d] ∧ needs (.mtr f) {} [d, a] ∧ needs (.mcvt f) {} [d, a] ∧ needs (.madd f) {} [d, a, b] ∧
      needs (.mma f) { reads := s.mmaScales f } [d, a, b, c] ∧ needs (.mmas f) { reads := s.mmasScales f } [d, a, b, c]) ∧
    (d.en = true → Fills s (.mzero f) {} d [] (fun _ _ => 0)) ∧
    (d.en = true → a.en = true → a.ty = d.ty → a.rows = d.cols → a.cols = d.rows → d.overlaps a = false →
      Fills s (.mtr f) {} d a.units (fun i j => t.tileElem a j i)) ∧
    (d.en = true → a.en = true → b.en = true → a.ty = d.ty → b.ty = d.ty → (d.ty = .f32 ∨ d.ty = .i32 ∧ rm = .rne) →
      a.rows = d.rows → a.cols = d.cols → b.rows = d.rows → b.cols = d.cols →
      (d.overlaps a = true → d.same a = true) → (d.overlaps b = true → d.same b = true) →
      FillsSo s (.madd f) {} d (a.units ++ b.units) (fun i j r =>
        let x := t.tileElem a i j
        let y := t.tileElem b i j
        if d.ty = .f32 then Adds .f32 rm (f.tmod.getLsbD 2) x (elemAt 32 0 (f.tmod.getLsbD 3) y) r
        else r = Ty.fit .i32 (f.tmod.getLsbD 2)
          (Ty.intOf .i32 x + (if f.tmod.getLsbD 3 then - Ty.intOf .i32 y else Ty.intOf .i32 y)))) ∧
    (d.en = true → a.en = true → a.rows = d.rows → a.cols = d.cols → a.ty ≠ d.ty → d.overlaps a = false →
      let n := (f.imm.extractLsb' 0 3).toNat
      let pol := Map.get 0 t.cvpol n
      let x := fun i j => Ty.value a.ty (t.tileElem a i j)
      let at_ := fun c k => k < a.rows * a.cols ∧ Faults d.ty rm pol (x (k / a.cols) (k % a.cols)) c
      ((∀ c k, ¬ at_ c k) → FillsSo s (.mcvt f) {} d a.units (fun i j r => Delivers d.ty rm pol (x i j) r)) ∧
      ∀ c k, s.actsAny = true → UnitsFree s ⟨a.units, d.units⟩ → s.Issues (.mcvt f) {} →
        at_ c k → (∀ k' < k, ¬ at_ c k') → (∀ c' k', at_ c' k' → (ConvClass.cause c).toNat ≤ (ConvClass.cause c').toNat) →
        exec (.mcvt f) s = .next (s.raise (ConvClass.cause c) (some s.cf.em) (BitVec.ofNat 64 n) (BitVec.ofNat 64 k))) ∧
    (d.en = true → a.en = true → b.en = true → c.en = true →
      let product := fun (i j k : Nat) (p : FVal) => ExactProduct (Ty.value a.ty (elA f t a i k)) (Ty.value b.ty (elB f t b k j)) p
      (f.ty = .i8 → Matched f .i32 a b c d →
        Fills s (.mma f) { reads := s.mmaScales f } d used (fun i j =>
          Ty.wrap .i32 ((start i j : Int) +
            ((List.range K).map (fun k => Ty.intOf .i8 (elA f t a i k) * Ty.intOf .i8 (elB f t b k j))).sum))) ∧
      (f.ty ≠ .i8 → Matched f .f32 a b c d →
        (f.ty = .e2m1 → K % 32 = 0 ∧ (∀ i < rowsA f a, s.cg.owned.getLsbD (i % w) = true) ∧
          ∀ j < colsB f b, s.cg.owned.getLsbD (j % w) = true) →
        FillsSo s (.mma f) { reads := s.mmaScales f } d used (fun i j r =>
          let chunk := if Ty.bits f.ty = 16 then 32 else if Ty.bits f.ty = 8 then 64 else 128
          let q := (K + 127) / 128
          let scaled := fun (k : Nat) (p : FVal) =>
            if f.ty = .e2m1 then ∃ x y, product i j k x ∧ ExactProduct x (scaleOf s.cg f.sa w q i (k / 32)) y ∧
              ExactProduct y (scaleOf s.cg f.sb w q j (k / 32)) p
            else product i j k p
          Accumulates ((K + chunk - 1) / chunk) (start i j)
            (fun n v => SumsProducts (n * chunk) (min K ((n + 1) * chunk)) scaled v) r)) ∧
      (Matched f .f32 a b c d → (∀ i < rowsA f a, s.cg.owned.getLsbD (i % w) = true) →
        FillsSo s (.mmas f) { reads := s.mmasScales f } d used (fun i j r =>
          let q := (K + 127) / 128
          let row := fun n => FFmt.f32.decode (s.cg.vreg (f.sa.toNat + i / w * q + n) (i % w)).toNat
          let col := fun n => FFmt.f32.decode ((s.cg.ureg (f.sb.toNat + n)).toNat / 2 ^ (32 * (j / 128)) % 2 ^ 32)
          Accumulates q (start i j)
            (fun n v => ∃ x y, SumsProducts (n * 128) (min K ((n + 1) * 128)) (product i j) x ∧ ExactProduct x (row n) y ∧
              ExactProduct y (col n) v) r))) ∧
    (s.actsAny = true → s.Issues (.mrel f) {} → ∃ u, exec (.mrel f) s = .next u ∧ TeamAlone s u ∧ GoesOnOnly s u ∧
      { u.ct with groups := [], mc := [] } = { s.ct with groups := [], mc := [] } ∧
      ∀ n < 16, Map.get 0 u.ct.mc n = if f.imm.getLsbD n then 0 else Map.get 0 s.ct.mc n)

/-- R178, R184: `mld` fills a tile's rows from scratchpad, `mst` stores them there, and `mgath` gathers a sparse block, whose last
entry of a column counts; with the lines present, and nothing else changed but that windows over the lines they touch start (R205).
R179, R180: `mlane` moves a tile's 32-bit words to and from the lanes that take part, `mxlane` the elements of a row or a column,
widened as R146 says; elements of other lanes stay, and units that hold none of those moved may have failed (R191). One that is not
enabled takes 0x012, whatever lanes take part (R173), and so does an `mld`, `mst` or `mgath` whose tile is not enabled. -/
def Obligations.TilesAndStorage : Prop :=
  (∀ (s : State) (f : FmtT), s.actsAny = true → s.cf.run = none →
      ((s.ct.tile f.md).en = false → s.Issues (.mld f) { reads := [.s f.sa.toNat] } → exec (.mld f) s = .next (s.raise 0x012)) ∧
      ((s.ct.tile f.ma).en = false → s.Issues (.mst f) { reads := [.s f.sa.toNat] } → exec (.mst f) s = .next (s.raise 0x012)) ∧
      ((s.ct.tile f.md).en = false → s.Issues (.mgath f) { reads := [.s f.sa.toNat, .s f.sb.toNat] } →
        exec (.mgath f) s = .next (s.raise 0x012)) ∧
      (let d := s.ct.tile f.md
       let x := s.cg.ureg f.sa.toNat
       d.en = true → UnitsFree s ⟨[], d.units⟩ → RowsOk s f d x →
         (∀ i < d.rows, ∀ j < d.rowBytes, (rowOf f x i + j) / 128 ∉ s.ct.badSp) → s.Issues (.mld f) { reads := [.s f.sa.toNat] } →
         ∃ t, exec (.mld f) s = .next t ∧ WritesTile (s.touch s.cur.ref.team (rowLines d (rowAddrs f d x))) t d ∧
           ∀ i < d.rows, ∀ j < d.rowBytes,
             Map.get 0 t.ct.tiles (4096 * d.base + i * d.rowBytes + j) = Map.get 0 s.ct.sp (rowOf f x i + j)) ∧
      (let d := s.ct.tile f.ma
       let x := s.cg.ureg f.sa.toNat
       d.en = true → UnitsFree s ⟨d.units, []⟩ → RowsOk s f d x → s.Issues (.mst f) { reads := [.s f.sa.toNat] } →
         ∃ t, exec (.mst f) s = .next t ∧ TeamAlone s t ∧ GoesOnOnly s t ∧
           { t.ct with groups := [], sp := [], badSp := [] } =
             { (s.touch s.cur.ref.team (rowLines d (rowAddrs f d x))).ct with groups := [], sp := [], badSp := [] } ∧
           (∀ i < d.rows, ∀ j < d.rowBytes,
             Map.get 0 t.ct.sp (rowOf f x i + j) = Map.get 0 s.ct.tiles (4096 * d.base + i * d.rowBytes + j)) ∧
           ∀ y, (∀ i < d.rows, ∀ j < d.rowBytes, y ≠ rowOf f x i + j) → Map.get 0 t.ct.sp y = Map.get 0 s.ct.sp y) ∧
      (let d := s.ct.tile f.md
       let addr := field (s.cg.ureg f.sa.toNat) 31 0 + (f.imm.extractLsb' 0 16).toNat
       let row0 := field (s.cg.ureg f.sb.toNat) 63 32
       let col0 := field (s.cg.ureg f.sb.toNat) 31 0
       let sp := s.ct.sparse addr
       let n := d.bits / 8
       let col := fun p => s.ct.spRead (sp.colidx + 2 * p) 2
       let lo := fun i => s.ct.spRead (sp.rowptr + 4 * (row0 + i)) 4
       let hi := fun i => s.ct.spRead (sp.rowptr + 4 * (row0 + i) + 4) 4
       d.en = true → (d.bits = 8 ∨ d.bits = 16 ∨ d.bits = 32) → addr % 16 = 0 → UnitsFree s ⟨[], d.units⟩ →
         (∀ k < 4, Readable s.ct (addr + 4 * k) 4) → s.ct.spRead (addr + 12) 4 < 65536 →
         (∀ i < d.rows, Readable s.ct (sp.rowptr + 4 * (row0 + i)) 4 ∧ Readable s.ct (sp.rowptr + 4 * (row0 + i) + 4) 4 ∧
           lo i ≤ hi i ∧ hi i ≤ sp.nnz ∧ ∀ p, lo i ≤ p → p < hi i →
             Readable s.ct (sp.colidx + 2 * p) 2 ∧ (col0 ≤ col p → col p < col0 + d.cols → Readable s.ct (sp.values + n * p) n)) →
         s.Issues (.mgath f) { reads := [.s f.sa.toNat, .s f.sb.toNat] } →
         ∃ t lines, exec (.mgath f) s = .next t ∧ s.ct.gathAll d addr row0 col0 = .ok lines ∧
           WritesTile (s.touch s.cur.ref.team lines) t d ∧
           ∀ i < d.rows, ∀ j < d.cols,
             (∀ p, lo i ≤ p → p < hi i → col p = col0 + j → (∀ q, p < q → q < hi i → col q ≠ col0 + j) →
               t.ct.tileElem d i j = s.ct.spRead (sp.values + n * p) n) ∧
             ((∀ p, lo i ≤ p → p < hi i → col p ≠ col0 + j) → t.ct.tileElem d i j = 0))) ∧
  (∀ (s : State) (f : FmtT),
      let w := s.ct.width
      let on := fun n => s.act.getLsbD (n % w)
      (let m := s.ct.tile f.ma
       let regs := spread f.sa m.words w
       let units := ((List.range m.words).filter on).map (fun n => m.base + n / 1024)
       (m.en = false → s.Issues (.mlaneGet f) { writes := [.v f.sa.toNat] } → exec (.mlaneGet f) s = .next (s.raise 0x012)) ∧
       (m.en = true → regs.length ≤ 64 → UnitsFree s ⟨units, []⟩ → s.Issues (.mlaneGet f) { writes := regs } →
         ∃ t, exec (.mlaneGet f) s = .next t ∧ GroupOnly s t ∧ t.cg.s = s.cg.s ∧ t.cg.p = s.cg.p ∧ t.cg.rest = s.cg.rest ∧
           t.cf = s.cf.goTo (nextPc s.cf.pc) ∧
           (∀ n < m.words, on n = true → ∀ k < 4,
             (t.cg.vreg (f.sa.toNat + n / w) (n % w)).extractLsb' (8 * k) 8 =
               if 4 * n + k < m.bytes then Map.get 0 s.ct.tiles (4096 * m.base + 4 * n + k) else 0) ∧
           ∀ r l, l < 64 → (∀ n < m.words, on n = true → ¬ (r = f.sa.toNat + n / w ∧ l = n % w)) → t.cg.vreg r l = s.cg.vreg r l)) ∧
      (let m := s.ct.tile f.md
       let regs := spread f.sa m.words w
       (m.en = false → s.Issues (.mlanePut f) { reads := [.v f.sa.toNat] } → exec (.mlanePut f) s = .next (s.raise 0x012)) ∧
       (m.en = true → regs.length ≤ 64 → UnitsFree s ⟨[], m.units⟩ → s.Issues (.mlanePut f) { reads := regs } →
         ∃ t, exec (.mlanePut f) s = .next t ∧ WritesTile s t m ∧
           ∀ n < m.words, ∀ k < 4, 4 * n + k < m.bytes →
             Map.get 0 t.ct.tiles (4096 * m.base + 4 * n + k) =
               if on n then (s.cg.vreg (f.sa.toNat + n / w) (n % w)).extractLsb' (8 * k) 8
               else Map.get 0 s.ct.tiles (4096 * m.base + 4 * n + k))) ∧
      (let m := s.ct.tile f.ma
       let regs := spread f.sa (sliceLen f m) w
       let x := s.cg.ureg f.sb.toNat
       let units := ((List.range (sliceLen f m)).filter on).map
         (fun k => m.base + ((sliceAt f x.toNat k).1 * m.cols + (sliceAt f x.toNat k).2) * m.bits / 32768)
       (m.en = false → s.Issues (.mxlaneGet f) { reads := [.s f.sb.toNat], writes := [.v f.sa.toNat] } →
         exec (.mxlaneGet f) s = .next (s.raise 0x012)) ∧
       (Shaped s f.ma → x.toNat < (if f.tmod.getLsbD 1 then m.cols else m.rows) → UnitsFree s ⟨units, []⟩ →
         s.Issues (.mxlaneGet f) { reads := [.s f.sb.toNat], writes := regs } →
         ∃ t, exec (.mxlaneGet f) s = .next t ∧ GroupOnly s t ∧ t.cg.s = s.cg.s ∧ t.cg.p = s.cg.p ∧ t.cg.rest = s.cg.rest ∧
           t.cf = s.cf.goTo (nextPc s.cf.pc) ∧
           (∀ k < sliceLen f m, on k = true →
             t.cg.vreg (f.sa.toNat + k / w) (k % w) =
               BitVec.ofInt 32 (Ty.intOf m.ty (s.ct.tileElem m (sliceAt f x.toNat k).1 (sliceAt f x.toNat k).2))) ∧
           ∀ r l, l < 64 → (∀ n < sliceLen f m, on n = true → ¬ (r = f.sa.toNat + n / w ∧ l = n % w)) →
             t.cg.vreg r l = s.cg.vreg r l)) ∧
      (let m := s.ct.tile f.md
       let regs := spread f.sa (sliceLen f m) w
       let x := s.cg.ureg f.sb.toNat
       (m.en = false → s.Issues (.mxlanePut f) { reads := [.s f.sb.toNat, .v f.sa.toNat] } →
         exec (.mxlanePut f) s = .next (s.raise 0x012)) ∧
       (Shaped s f.md → x.toNat < (if f.tmod.getLsbD 1 then m.cols else m.rows) → UnitsFree s ⟨[], m.units⟩ →
         s.Issues (.mxlanePut f) { reads := .s f.sb.toNat :: regs } →
         ∃ t, exec (.mxlanePut f) s = .next t ∧ WritesTile s t m ∧
           ∀ i < m.rows, ∀ j < m.cols,
             let k := if f.tmod.getLsbD 1 then i else j
             t.ct.tileElem m i j =
               if (if f.tmod.getLsbD 1 then j else i) = x.toNat ∧ on k = true then
                 (s.cg.vreg (f.sa.toNat + k / w) (k % w)).toNat % 2 ^ m.bits
               else s.ct.tileElem m i j)))

/-! ## Scratchpad, windows, queues and clasps (R194 to R220) -/

namespace Sys2Proof.Machine.Claims

/-- The type of an access's sub field (R199). -/
def spType (sub : BitVec 4) : Ty :=
  match sub.toNat with | 0 => .n8 | 1 => .i8 | 2 => .n16 | 3 => .i16 | 4 => .n32 | _ => .n64

/-- The value a pair or a register of a lane stores (R199). -/
def stored (s : State) (wide : Bool) (r l : Nat) : Nat := if wide then (s.cg.vpair r l).toNat else (s.cg.vreg r l).toNat

/-- The accesses of a slot to a team's scratchpad pass their checks, and their lines are present and, where read, good. -/
structure Reaches (s : State) (team : Nat) (l : List SpAcc) (reads : Bool) : Prop where
  checks : spCheck (s.teamOf team).spSize false l = none
  present : ∀ n ∈ accLines l, (s.teamOf team).lineAbsent n = false
  good : reads = true → ∀ n ∈ accLines l, n ∉ (s.teamOf team).badSp

/-- Of the package only one team's scratchpad changes; the executing group goes on. -/
structure StoresTo (s t : State) (team : Nat) : Prop where
  outside : t.rest = s.rest
  others : ∀ k, k ≠ team → k ≠ s.cur.ref.team → t.teamOf k = s.teamOf k
  own : { t.ct with groups := [], sp := [], badSp := [] } = { s.ct with groups := [], sp := [], badSp := [] }
  ownBytes : team ≠ s.cur.ref.team → t.ct.sp = s.ct.sp
  target : { t.teamOf team with groups := [], sp := [], badSp := [] } = { s.teamOf team with groups := [], sp := [], badSp := [] }
  group : GoesOnOnly s t

/-- A load of a team's scratchpad completes: each participating lane holds the value at its address; windows over its lines start. -/
def Loads (s : State) (i : Instr) (team : Nat) (f : FmtE) (off : Int) : Prop :=
  Reaches s team (s.spAccs f.a off (spSize f.sub)) true → s.Issues i { reads := [.v f.a.toNat], writes := spRegs f.sub f.d } →
    ∃ t, exec i s = .next t ∧
      RegsOnly (s.touch team (accLines (s.spAccs f.a off (spSize f.sub)))) t s.lanes (spRegs f.sub f.d) (nextPc s.cf.pc) ∧
      ∀ l ∈ s.lanes, t.cg.Holds (spType f.sub) f.d.toNat l
        ((s.teamOf team).spRead ((s.cg.vreg f.a.toNat l).toNat + off).toNat (spSize f.sub))

/-- A store to a team's scratchpad completes: each byte holds what the highest lane stored there (R196), every other one stays. -/
def Stores (s : State) (i : Instr) (team : Nat) (f : FmtE) (off : Int) : Prop :=
  let addr := fun l => ((s.cg.vreg f.a.toNat l).toNat + off).toNat
  let n := spSize f.sub
  Reaches s team (s.spAccs f.a off n) false → s.Issues i { reads := .v f.a.toNat :: spRegs f.sub f.b } →
    ∃ t, exec i s = .next t ∧ StoresTo (s.touch team (accLines (s.spAccs f.a off n))) t team ∧
      (∀ l ∈ s.lanes, ∀ k < n, (∀ l' ∈ s.lanes, l < l' → ¬ (addr l' ≤ addr l + k ∧ addr l + k < addr l' + n)) →
        (Map.get 0 (t.teamOf team).sp (addr l + k)).toNat = stored s (f.sub == 5) f.b.toNat l / 256 ^ k % 256) ∧
      ∀ x, (∀ l ∈ s.lanes, ¬ (addr l ≤ x ∧ x < addr l + n)) →
        Map.get 0 (t.teamOf team).sp x = Map.get 0 (s.teamOf team).sp x

end Sys2Proof.Machine.Claims

/-- R195, R196, R199 to R202, R220: scratchpad loads and stores, own and a peer's; each checks the alignment and bounds of every lane
first; the old values and new bytes of `atms`, lane after lane; a store to a frozen team takes 0x10A. An absent line parks a load
before it writes anything (R197).
R203 to R207: `wbind` binds a free window to aligned, present bytes that no other one covers, which become absent; `wtouch` starts
its copy, and so does an access that touches a line of its range, absent or present; `wstat` reads it, and `wunbind` ends one whose
copy has not started or has landed, and waits for one under way. -/
def Obligations.ScratchpadAndWindows : Prop :=
  (∀ (s : State) (team : Nat) (lines : List Nat),
      let t := s.teamOf team
      let u := s.touch team lines
      let starts := fun k => decide ((t.window k).state = 1) && lines.any (t.window k).covers
      u.rest = s.rest ∧ (∀ k, k ≠ team → u.teamOf k = s.teamOf k) ∧
        { u.teamOf team with win := [], entryWait := [] } = { t with win := [], entryWait := [] } ∧
        (u.teamOf team).entryWait =
          t.entryWait ++ ((List.range 16).filter starts).map (fun k => (⟨team, (t.window k).group, 0⟩, some k)) ∧
        ∀ k < 16, (u.teamOf team).window k = if starts k then { t.window k with state := 2 } else t.window k) ∧
  (∀ (s : State) (f : FmtE), f.sub.toNat ≤ 5 →
      let route := f.imm.toNat % 65536
      (Loads s (.lds f) s.cur.ref.team f f.imm.toInt ∧ Stores s (.sts f) s.cur.ref.team f f.imm.toInt) ∧
      (∀ e, spCheck s.ct.spSize false (s.spAccs f.a f.imm.toInt (spSize f.sub)) = some e →
        (s.Issues (.lds f) { reads := [.v f.a.toNat], writes := spRegs f.sub f.d } → exec (.lds f) s = .next (s.memStop e)) ∧
        (s.Issues (.sts f) { reads := .v f.a.toNat :: spRegs f.sub f.b } → exec (.sts f) s = .next (s.memStop e))) ∧
      (spCheck s.ct.spSize false (s.spAccs f.a f.imm.toInt (spSize f.sub)) = none →
        let lines := accLines (s.spAccs f.a f.imm.toInt (spSize f.sub))
        s.ct.absentOf lines ≠ [] → s.Issues (.lds f) { reads := [.v f.a.toNat], writes := spRegs f.sub f.d } →
        ∃ t, exec (.lds f) s = .next t ∧ KeepsRegs (s.touch s.cur.ref.team lines) t ∧
          t.cf.park = some (.lines s.cur.ref.team (s.ct.absentOf lines)) ∧ t.cf.pc = s.cf.pc) ∧
      (∀ team e, s.lanes ≠ [] → s.peer route = .ok team →
        spCheck (s.teamOf team).spSize false (s.spAccs f.a (peerOffset f) (spSize f.sub)) = some e →
        (s.Issues (.pld f) { reads := [.v f.a.toNat], writes := spRegs f.sub f.d } → exec (.pld f) s = .next (s.memStop e)) ∧
        ((s.teamOf team).status ≠ .frozen → s.Issues (.pst f) { reads := .v f.a.toNat :: spRegs f.sub f.b } →
          exec (.pst f) s = .next (s.memStop e))) ∧
      (∀ team, s.lanes ≠ [] → s.peer route = .ok team →
        Loads s (.pld f) team f (peerOffset f) ∧ ((s.teamOf team).status ≠ .frozen → Stores s (.pst f) team f (peerOffset f)) ∧
        ((s.teamOf team).status = .frozen → s.Issues (.pst f) { reads := .v f.a.toNat :: spRegs f.sub f.b } →
          exec (.pst f) s = .next (s.raise 0x10A none (BitVec.ofNat 64 route)))) ∧
      ∀ (op : AtmOp) (f : FmtE),
        let ty := Ty.ofCode f.sub
        let wide := ty.bits == 64
        let n := if wide then 8 else 4
        let addr := fun l => ((s.cg.vreg f.a.toNat l).toNat + f.imm.toInt).toNat
        let read := fun (m : Map Byte) (l : Nat) => natOfBytes (Map.bytes m (addr l) n)
        let turn := fun (m : Map Byte) (l : Nat) => Map.setBytes m (addr l)
          (bytesOfNat n (atmNew ty op (read m l) (stored s wide f.b.toNat l)
            (stored s wide (f.b.toNat + (if wide then 2 else 1)) l)).1)
        (∀ e, spCheck s.ct.spSize false (s.spAccs f.a f.imm.toInt n) = some e → s.Issues (.atms op f) (atmsUses op f) →
          exec (.atms op f) s = .next (s.memStop e)) ∧
        (Reaches s s.cur.ref.team (s.spAccs f.a f.imm.toInt n) true → s.Issues (.atms op f) (atmsUses op f) →
          ∃ t, exec (.atms op f) s = .next t ∧ t.rest = s.rest ∧ (∀ k, k ≠ s.cur.ref.team → t.teamOf k = s.teamOf k) ∧
            t.ct.sp = s.lanes.foldl turn s.ct.sp ∧ t.cg.s = s.cg.s ∧ t.cg.p = s.cg.p ∧ t.cf = s.cf.goTo (nextPc s.cf.pc) ∧
            (∀ l ∈ s.lanes, t.cg.Holds (if wide then .n64 else .n32) f.d.toNat l
              (read ((s.lanes.filter (· < l)).foldl turn s.ct.sp) l)) ∧
            { t.ct with groups := [], sp := [] } =
              { (s.touch s.cur.ref.team (accLines (s.spAccs f.a f.imm.toInt n))).ct with groups := [], sp := [] } ∧
            ∀ r l, l < 64 → (Reg.v r ∉ (atmsUses op f).writes ∨ l ∉ s.lanes) → t.cg.vreg r l = s.cg.vreg r l)) ∧
  (∀ (s : State) (f : FmtE), s.actsAny = true →
      let t := s.ct
      let n := f.wq.toNat
      let w := t.window n
      let lines := fun (x : Window) => (List.range (x.len / 128)).map (· + x.base / 128)
      (∀ x, f.ts.toNat < t.slots → Map.find t.ts f.ts.toNat = some x →
        let b := s.cg.ureg f.b.toNat
        let c := fun k => s.cg.ureg (f.a.toNat + k)
        let new : Window :=
          ⟨1, b.toNat, alignUp 128 (Desc.of x).boxBytes, x, coordsOf (c 0) (c 1) (c 2), s.cg.sys, s.cur.ref.group, s.cf.pc⟩
        w.state = 0 → (c 2).toNat < 2 ^ 32 → b.toNat < 2 ^ 32 → b.toNat % 128 = 0 → b.toNat + new.len ≤ t.spSize →
        (∀ k < 16, k ≠ n → ∀ l ∈ lines new, (t.window k).covers l = false) → (∀ l ∈ lines new, t.lineAbsent l = false) →
        s.Issues (.wbind f) { reads := uregs f.a.toNat 3 ++ [.s f.b.toNat] } →
        ∃ u, exec (.wbind f) s = .next u ∧ TeamAlone s u ∧ GoesOnOnly s u ∧ u.ct.sp = t.sp ∧
          u.ct.window n = new ∧ (∀ k, k ≠ n → u.ct.window k = t.window k) ∧
          ∀ l, u.ct.lineAbsent l = (decide (l ∈ lines new) || t.lineAbsent l)) ∧
      (s.Issues (.wtouch f) {} → ∃ u, exec (.wtouch f) s = .next u ∧ TeamAlone s u ∧ GoesOnOnly s u ∧ u.ct.sp = t.sp ∧
        u.ct.absent = t.absent ∧ (u.ct.window n).state = (if w.state = 1 then 2 else w.state) ∧
        u.ct.entryWait = t.entryWait ++ (if w.state = 1 then [(⟨s.cur.ref.team, w.group, 0⟩, some n)] else []) ∧
        ∀ k, k ≠ n → u.ct.window k = t.window k) ∧
      UniformResult s (.wstat f) { writes := [.s f.d.toNat] } f.d
        (BitVec.ofNat 64 (w.state +
          2 ^ 8 * (if w.state = 0 then 0 else ((lines w).filter t.lineAbsent).length) + 2 ^ 32 * w.base)) ∧
      (s.Issues (.wunbind f) {} →
        (w.state = 2 → ∃ u, exec (.wunbind f) s = .next u ∧ KeepsRegs s u ∧ u.cf.park = some (.again (.window n)) ∧ u.cf.pc = s.cf.pc) ∧
        (w.state ≠ 2 → ∃ u, exec (.wunbind f) s = .next u ∧ TeamAlone s u ∧ GoesOnOnly s u ∧ u.ct.sp = t.sp ∧
          (u.ct.window n).state = 0 ∧ (∀ k, k ≠ n → u.ct.window k = t.window k) ∧
          ∀ l, u.ct.lineAbsent l = (t.lineAbsent l && !(w.state == 1 && decide (l ∈ lines w))))))

/-- R209 to R213: queues. `qcfg` sets up an idle queue; a push that fits, on a queue where nobody waits, appends its items, and a pop
that fits takes the oldest, in ascending lane; the try forms that do not fit change only their predicate; others park in order;
`qclose` closes and `qstat` reads. -/
def Obligations.QueuesKeepOrder : Prop :=
  ∀ (s : State) (f : FmtE),
    let q := f.wq.toNat
    (let x := s.cg.ureg f.a.toNat
     let old := s.ct.queue q
     s.actsAny = true → x.getLsbD 31 = true → field x 63 32 = 0 → field x 30 28 = 0 → field x 23 0 % 4 = 0 → field x 27 24 ≤ 8 →
       field x 23 0 + 4 * 2 ^ field x 27 24 ≤ s.ct.spSize → old.count = 0 → old.pushers = [] → old.poppers = [] → old.first = none →
       s.Issues (.qcfg f) { reads := [.s f.a.toNat] } →
       ∃ t, exec (.qcfg f) s = .next t ∧ TeamAlone s t ∧ GoesOnOnly s t ∧ t.ct.sp = s.ct.sp ∧
         t.ct.queue q = ⟨true, false, field x 27 24, field x 23 0, 0, 0, [], [], none⟩ ∧ ∀ k, k ≠ q → t.ct.queue k = s.ct.queue k) ∧
    ∀ team, s.holder f.imm = .ok team → ((s.teamOf team).queue q).first = none →
      let tm := s.teamOf team
      let qu := tm.queue q
      let there := fun (k m : Nat) => ∀ j < m, ∀ b < 4, tm.lineAbsent ((qu.slotAddr (k + j) + b) / 128) = false
      let good := fun (k m : Nat) => ∀ j < m, ∀ b < 4, (qu.slotAddr (k + j) + b) / 128 ∉ tm.badSp
      let n := s.lanes.length
      let after := fun (t : State) (x : Queue) => t.rest = s.rest ∧ (t.teamOf team).queue q = x ∧ ∀ k, k ≠ q → (t.teamOf team).queue k = tm.queue k
      let at_ := fun (t : State) (k : Nat) => BitVec.ofNat 32 ((t.teamOf team).spRead (qu.slotAddr k) 4)
      let pushed := fun (t : State) (items : List Word) =>
        after t { qu with tail := (qu.tail + items.length) % 2 ^ 32 } ∧
        (∀ k x, items[k]? = some x → at_ t (qu.tail + k) = x) ∧
        ∀ a, (∀ k < items.length, ¬ (qu.slotAddr (qu.tail + k) ≤ a ∧ a < qu.slotAddr (qu.tail + k) + 4)) →
          Map.get 0 (t.teamOf team).sp a = Map.get 0 tm.sp a
      let vecs := s.lanes.map (s.cg.vreg f.a.toNat)
      let scal := [(s.cg.ureg f.a.toNat).setWidth 32]
      let room := fun m => qu.cfg = true ∧ qu.closed = false ∧ qu.count + m ≤ qu.depth ∧ qu.pushers = [] ∧ qu.poppers = [] ∧
        there qu.tail m
      let items := fun m => qu.cfg = true ∧ m ≤ qu.count ∧ m ≤ qu.depth ∧ qu.pushers = [] ∧ qu.poppers = [] ∧
        there qu.head m ∧ good qu.head m
      let popped := fun (t : State) (m : Nat) =>
        after t { qu with head := (qu.head + m) % 2 ^ 32 } ∧ (t.teamOf team).sp = tm.sp
      let u := f.sub == 1
      let parks := fun (t : State) => t.cf.park = some (.queue team q) ∧ t.cf.pc = s.cf.pc ∧ t.cg.v = s.cg.v ∧ t.cg.s = s.cg.s ∧
        t.cg.p = s.cg.p
      (n ≠ 0 → room n →
        (s.Issues (.qpush f) { reads := [.v f.a.toNat] } →
          ∃ t, exec (.qpush f) s = .next t ∧ pushed t vecs ∧ t.cg.v = s.cg.v ∧ t.cg.s = s.cg.s ∧ t.cg.p = s.cg.p ∧
            t.cf = s.cf.goTo (nextPc s.cf.pc)) ∧
        (u = false → s.Issues (.qpushTry f) { reads := [.v f.a.toNat], writes := [.p f.d.toNat] } →
          ∃ t, exec (.qpushTry f) s = .next t ∧ pushed t vecs ∧ t.cg.v = s.cg.v ∧ t.cg.s = s.cg.s ∧
            (f.d.toNat < 7 → ∀ l ∈ s.lanes, (t.cg.pred f.d.toNat).getLsbD l = true))) ∧
      (s.actsAny = true → room 1 →
        (s.Issues (.qpushU f) { reads := [.s f.a.toNat] } →
          ∃ t, exec (.qpushU f) s = .next t ∧ pushed t scal ∧ t.cg.v = s.cg.v ∧ t.cg.s = s.cg.s ∧ t.cg.p = s.cg.p) ∧
        (u = true → s.Issues (.qpushTry f) { reads := [.s f.a.toNat], writes := [.p f.d.toNat] } →
          ∃ t, exec (.qpushTry f) s = .next t ∧ pushed t scal ∧ t.cg.v = s.cg.v ∧ t.cg.s = s.cg.s)) ∧
      (n ≠ 0 → n ≤ qu.depth → qu.cfg = true → qu.closed = false → (qu.depth < qu.count + n ∨ qu.pushers ≠ []) →
        (s.Issues (.qpush f) { reads := [.v f.a.toNat] } →
          ∃ t, exec (.qpush f) s = .next t ∧ parks t ∧
            after t { qu with pushers := qu.pushers ++ [⟨some s.cur.ref, 0, vecs, n, s.lanes, 0, 7, false, s.cf.pc⟩] }) ∧
        (u = false → s.Issues (.qpushTry f) { reads := [.v f.a.toNat], writes := [.p f.d.toNat] } →
          ∃ t, exec (.qpushTry f) s = .next t ∧ RegsOnly s t s.lanes [.p f.d.toNat] (nextPc s.cf.pc) ∧
            (f.d.toNat < 7 → ∀ l ∈ s.lanes, (t.cg.pred f.d.toNat).getLsbD l = false))) ∧
      (s.actsAny = true → qu.cfg = true → qu.closed = false → (qu.depth < qu.count + 1 ∨ qu.pushers ≠ []) →
        (s.Issues (.qpushU f) { reads := [.s f.a.toNat] } →
          ∃ t, exec (.qpushU f) s = .next t ∧ parks t ∧
            after t { qu with pushers := qu.pushers ++ [⟨some s.cur.ref, 0, scal, 1, s.lanes, 0, 7, true, s.cf.pc⟩] }) ∧
        (u = true → s.Issues (.qpushTry f) { reads := [.s f.a.toNat], writes := [.p f.d.toNat] } →
          ∃ t, exec (.qpushTry f) s = .next t ∧ RegsOnly s t s.lanes [.p f.d.toNat] (nextPc s.cf.pc) ∧
            (f.d.toNat < 7 → ∀ l ∈ s.lanes, (t.cg.pred f.d.toNat).getLsbD l = false))) ∧
      (n ≠ 0 → n ≤ qu.depth → qu.cfg = true → qu.closed = false → (qu.count < n ∨ qu.poppers ≠ []) →
        s.Issues (.qpop f) { writes := popWrites f false } →
        ∃ t, exec (.qpop f) s = .next t ∧ parks t ∧ after t { qu with
          poppers := qu.poppers ++ [⟨some s.cur.ref, 0, [], n, s.lanes, f.d.toNat, f.b.toNat, false, s.cf.pc⟩] }) ∧
      (s.actsAny = true → qu.cfg = true → qu.closed = false → (qu.count < 1 ∨ qu.poppers ≠ []) →
        s.Issues (.qpopU f) { writes := popWrites f true } →
        ∃ t, exec (.qpopU f) s = .next t ∧ parks t ∧ after t { qu with
          poppers := qu.poppers ++ [⟨some s.cur.ref, 0, [], 1, s.lanes, f.d.toNat, f.b.toNat, true, s.cf.pc⟩] }) ∧
      (∀ m, (u = false ∧ m = n ∧ n ≠ 0 ∨ u = true ∧ m = 1 ∧ s.actsAny = true) → m ≤ qu.depth → qu.cfg = true → qu.closed = false →
        qu.count < m → qu.head < 2 ^ 32 → qu.pushers = [] → qu.poppers = [] → s.Issues (.qpopTry f) { writes := popWrites f u } →
        ∃ t, exec (.qpopTry f) s = .next t ∧ after t qu ∧ (t.teamOf team).sp = tm.sp ∧ t.cg.v = s.cg.v ∧ t.cg.s = s.cg.s ∧
          t.cf = s.cf.goTo (nextPc s.cf.pc) ∧
          ∀ k l, k < 7 → l < 64 →
            (t.cg.pred k).getLsbD l = if k = f.b.toNat ∧ l ∈ s.lanes then false else (s.cg.pred k).getLsbD l) ∧
      (n ≠ 0 → items n →
        (∀ i, (i = .qpop f ∧ s.Issues i { writes := popWrites f false }) ∨
            (u = false ∧ i = .qpopTry f ∧ s.Issues i { writes := popWrites f false }) →
          ∃ t, exec i s = .next t ∧ popped t n ∧ t.cg.s = s.cg.s ∧ t.cf = s.cf.goTo (nextPc s.cf.pc) ∧
            (∀ k l, s.lanes[k]? = some l → t.cg.vreg f.d.toNat l = at_ s (qu.head + k)) ∧
            (f.b.toNat < 7 → ∀ l ∈ s.lanes, (t.cg.pred f.b.toNat).getLsbD l = true) ∧
            ∀ r l, l < 64 → (r ≠ f.d.toNat ∨ l ∉ s.lanes) → t.cg.vreg r l = s.cg.vreg r l)) ∧
      (s.actsAny = true → items 1 →
        (∀ i, (i = .qpopU f ∧ s.Issues i { writes := popWrites f true }) ∨
            (u = true ∧ i = .qpopTry f ∧ s.Issues i { writes := popWrites f true }) →
          ∃ t, exec i s = .next t ∧ popped t 1 ∧ t.cg.v = s.cg.v ∧ t.cf = s.cf.goTo (nextPc s.cf.pc) ∧
            t.cg.ureg f.d.toNat = (at_ s qu.head).setWidth 64 ∧ ∀ r, r ≠ f.d.toNat → t.cg.ureg r = s.cg.ureg r)) ∧
      (s.actsAny = true → qu.cfg = true → qu.closed = false → qu.pushers = [] → qu.poppers = [] → s.Issues (.qclose f) {} →
        ∃ t, exec (.qclose f) s = .next t ∧ t.cg.v = s.cg.v ∧ t.cf = s.cf.goTo (nextPc s.cf.pc) ∧
          after t { qu with closed := true } ∧ (t.teamOf team).sp = tm.sp) ∧
      (s.actsAny = true → UniformResult s (.qstat f) { writes := [.s f.d.toNat] } f.d
        (BitVec.ofNat 64 ((if qu.cfg then 2 ^ 63 + (qu.depth - qu.count) * 2 ^ 16 + qu.count else 0) + (if qu.closed then 2 ^ 62 else 0) +
          min 255 (qu.pushers.filter (·.who.isSome)).length * 2 ^ 48 + min 255 qu.poppers.length * 2 ^ 40 + qu.e * 2 ^ 36)))

/-- R214 to R219: clasps. `cinit` sets the counts; an arrival that completes its group's lanes, an expectation, and landed bytes each
update the clasp once, which flips its phase and takes the count again when nothing is awaited, and then every fragment that waits
for it goes on; `cwait` and `ctest` look at the phase. Bytes that have landed are merged into the update of an expectation or of an
arrival. The clasps of a frozen team take no landing (R220). An arrival at another clasp than the group's record names takes 0x107, one where no
arrival remains 0x109, a count out of range 0x108.
That an arrival of the clock in which an earlier one flipped the phase finds none remaining, where its fragment stood at its slot when
the phase flipped, is the model's reading (log 53), and so is the clock of a merged update. -/
def Obligations.ClaspsCountAndFlip : Prop :=
  ∀ (s : State),
    let wakes := fun (t : State) (team a : Nat) => ∀ r par, r ≠ s.cur.ref → (s.fragAt r).park = some (.clasp team a par) →
      ((t.teamOf team).clasp a).phase ≠ ((s.teamOf team).clasp a).phase → ((t.teamOf team).clasp a).phase ≠ par →
      (t.fragAt r).park = none
    let done := fun (c : Clasp) => if c.remaining = 0 ∧ c.pending = 0 then { c with phase := !c.phase, remaining := c.expected } else c
    (∀ (f : FmtE) (team : Nat), s.actsAny = true → s.holder f.imm = .ok team →
      let x := s.cg.ureg f.a.toNat
      let a := field x 31 0
      let c := (s.teamOf team).clasp a
      let b := s.cg.ureg f.b.toNat
      let ph := f.sub.getLsbD 0
      let rank := if team = s.cur.ref.team then none else some (s.teamOf team).rank
      let half := (s.teamOf team).half
      let good := ∀ k < 16, (a + k) / 128 ∉ (s.teamOf team).badSp
      let late := ∃ x ∈ (s.teamOf team).flips, x.addr = a ∧ x.cycle = s.now ∧ x.place < s.arrivalPlace s.cur.ref ∧
        (s.cur.ref, s.cf.pc) ∈ x.standing
      let landed := (((s.teamOf team).landings.filter (fun x => x.addr = a)).map (·.bytes)).sum
      let s0 := s.touch team (spLines [(a, 16)])
      a % 8 = 0 → x.toNat < 2 ^ 32 → a + 16 ≤ (s.teamOf team).spSize →
      (∀ k < 16, (s.teamOf team).lineAbsent ((a + k) / 128) = false) →
      (f.imm = 0 → 0 < b.toNat → b.toNat < 2 ^ 16 → s.Issues (.cinit f) { reads := [.s f.a.toNat, .s f.b.toNat] } →
        ∃ t, exec (.cinit f) s = .next t ∧ StoresTo s0 t team ∧ (t.teamOf team).clasp a = ⟨b.toNat, b.toNat, 0, false⟩ ∧
          ∀ y, y < a ∨ a + 16 ≤ y → Map.get 0 (t.teamOf team).sp y = Map.get 0 (s.teamOf team).sp y) ∧
      (∀ i, good → -(2 ^ 24) ≤ c.pending - landed → (i = .carrive f ∨ i = .carriveWait f) → s.Issues i { reads := [.s f.a.toNat], writes := [.s f.d.toNat] } →
        (∀ m : Mask, (s.cg.arr = some ⟨a, rank, half, m⟩ ∨ s.cg.arr = none ∧ m = 0) →
          (s.cg.remainingLanes &&& ~~~(m ||| s.cf.om) = 0 → c.remaining ≠ 0 → ¬ late →
            ∃ t, exec i s = .next t ∧ t.mem = s.mem ∧ t.cg.arr = none ∧ t.cg.v = s.cg.v ∧
              (t.teamOf team).clasp a = done { c with remaining := c.remaining - 1, pending := c.pending - landed } ∧
              t.cg.ureg f.d.toNat = (if c.phase then 1 else 0) ∧ wakes t team a) ∧
          (s.cg.remainingLanes &&& ~~~(m ||| s.cf.om) ≠ 0 →
            ∃ t, exec i s = .next t ∧ t.mem = s.mem ∧ t.cg.arr = some ⟨a, rank, half, m ||| s.cf.om⟩ ∧ t.cg.v = s.cg.v ∧
              (t.teamOf team).clasp a = c ∧ t.cg.ureg f.d.toNat = (if c.phase then 1 else 0) ∧
              (i = .carriveWait f → t.cf.park = some (.clasp team a c.phase) ∧ t.cf.pc = s.cf.pc)) ∧
          (s.cg.remainingLanes &&& ~~~(m ||| s.cf.om) = 0 → c.remaining = 0 ∨ late → exec i s = .next (s0.raise 0x109))) ∧
        (∀ r, s.cg.arr = some r → (r.addr ≠ a ∨ r.rank ≠ rank ∨ r.half ≠ half) → exec i s = .next (s0.raise 0x107))) ∧
      (good → s.Issues (.cexpect f) { reads := [.s f.a.toNat, .s f.b.toNat] } →
        (-(2 ^ 24) ≤ c.pending + b.toInt - landed → c.pending + b.toInt < 2 ^ 24 →
          ∃ t, exec (.cexpect f) s = .next t ∧ t.mem = s.mem ∧ t.cg.v = s.cg.v ∧ t.cg.s = s.cg.s ∧ t.cf.pc = nextPc s.cf.pc ∧
            (t.teamOf team).clasp a = done { c with pending := c.pending + b.toInt - landed } ∧ wakes t team a) ∧
        (c.pending + b.toInt < -(2 ^ 24) ∨ 2 ^ 24 ≤ c.pending + b.toInt →
          exec (.cexpect f) s = .next (s0.raise 0x108))) ∧
      (good → s.Issues (.cwait f) { reads := [.s f.a.toNat] } →
        (c.phase ≠ ph → ∃ t, exec (.cwait f) s = .next t ∧ NothingElse s0 t) ∧
        (c.phase = ph → ∃ t, exec (.cwait f) s = .next t ∧ KeepsRegs s0 t ∧ t.cf.park = some (.clasp team a ph) ∧ t.cf.pc = s.cf.pc)) ∧
      (good → f.d.toNat < 7 → s.Issues (.ctest f) { reads := [.s f.a.toNat], writes := [.p f.d.toNat] } →
        ∃ t, exec (.ctest f) s = .next t ∧ RegsOnly s0 t s.lanes [.p f.d.toNat] (nextPc s.cf.pc) ∧
          ∀ l ∈ s.lanes, (t.cg.pred f.d.toNat).getLsbD l = decide (c.phase ≠ ph))) ∧
    (∀ team a, (s.teamOf team).status = .frozen → exec (.claspUpdate team a) s = .next s) ∧
    ∀ team a,
      let tm := s.teamOf team
      let c := tm.clasp a
      let n := ((tm.landings.filter (fun x => x.addr = a)).map (·.bytes)).sum
      n ≠ 0 → tm.status ≠ .frozen → (∀ k < 16, tm.lineAbsent ((a + k) / 128) = false ∧ (a + k) / 128 ∉ tm.badSp) → -(2 ^ 24) ≤ c.pending - n → c.pending - n < 2 ^ 24 →
      ∃ t, exec (.claspUpdate team a) s = .next t ∧ t.mem = s.mem ∧ (t.teamOf team).clasp a = done { c with pending := c.pending - n } ∧
        (t.teamOf team).landings = tm.landings.filter (fun x => x.addr ≠ a) ∧ wakes t team a

/-! ## Memory accesses (R262 to R272, R279, R284 to R288) -/

namespace Sys2Proof.Machine.Claims

/-- An access whose lines all lie in coherent local memory, where no line is in the commutative state. -/
structure Coherent (s : State) (r : Resolved) : Prop where
  local_ : ∀ q ∈ r.lines, ∃ m, q.place = .loc m
  settled : ∀ l, Map.find s.cLines l = none

/-- No line of an access holds an entry of the tables that its translations read (R276). -/
def OffTables (s : State) (r : Resolved) : Prop :=
  ∀ q ∈ r.lines, ∀ q' ∈ r.lines, ∀ m, q'.place = .loc m →
    m ∉ s.walkLinesFrom q.va (4096 * field (s.cc.sreg 0x405) 47 12) 4

/-- The machine address of a byte of an access (R265, R273): the byte's address in its record, translated by its line. -/
def machine (s : State) (bf : BRec) (off : BitVec 32) (kind : Kind) (i : LaneIx) (j : Nat) : Option Nat :=
  let va := (byteAddr s.ct bf s.cur.ref.group off i j).toNat
  match s.translate s.ct.ctx (!s.cg.sys) kind (va / 64 * 64) with
  | .ok (.loc m) => some (m + va % 64)
  | _ => none

/-- The value a lane's access of `n` bytes reads: 0 for a dropped lane (R265). -/
def valueAt (s : State) (bf : BRec) (off : BitVec 32) (r : Resolved) (n : Nat) (i : LaneIx) : Nat :=
  if i.lane ∈ r.dropped then 0
  else natOfBytes ((List.range n).map (fun j => s.byteAt ((machine s bf off .read i j).getD 0)))

/-- The bytes of an access that are stored: none of a dropped lane. -/
def Touches (r : Resolved) (ls : List LaneIx) (i : LaneIx) : Prop := i ∈ ls ∧ i.lane ∉ r.dropped

/-- What a read of memory leaves alone: every byte, every other team and group, and of the executing group all but registers. -/
structure ReadsMemory (s t : State) : Prop where
  memory : ∀ a, t.byteAt a = s.byteAt a
  pregs : t.pregs = s.pregs
  ctxs : t.ctxs = s.ctxs
  versions : t.vbase = s.vbase ∧ t.vcount = s.vcount ∧ t.dirty = s.dirty
  others : ∀ k, k ≠ s.cur.ref.team → t.teamOf k = s.teamOf k
  team : t.ct.rest = s.ct.rest
  groups : ∀ k, k ≠ s.cur.ref.group → t.ct.groupOf k = s.ct.groupOf k
  group : t.cg.rest = s.cg.rest
  frags : ∀ e, e ≠ s.cur.ref.entry → t.cg.fragOf e = s.cg.fragOf e
  fragment : t.cf = s.cf.goTo (nextPc s.cf.pc)

/-- Registers but for those named keep their values. -/
structure WritesRegs (s t : State) (lanes : List Nat) (written : List Reg) : Prop where
  v : ∀ r l, l < 64 → (Reg.v r ∉ written ∨ l ∉ lanes) → t.cg.vreg r l = s.cg.vreg r l
  u : ∀ r, Reg.s r ∉ written → t.cg.ureg r = s.cg.ureg r
  p : ∀ k l, k < 7 → l < 64 → (Reg.p k ∉ written ∨ l ∉ lanes) → (t.cg.pred k).getLsbD l = (s.cg.pred k).getLsbD l

/-- A store through a record, to plain local memory: each byte holds what the highest lane stores there, and no other byte changes. -/
structure StoredTo (s t : State) (bf : BRec) (off : BitVec 32) (r : Resolved) (ls : List LaneIx) (n : Nat)
    (data : Nat → Nat → Byte) : Prop where
  bytes : ∀ i j a, Touches r ls i → j < n → machine s bf off .write i j = some a →
    (∀ i' j', Touches r ls i' → j' < n → machine s bf off .write i' j' = some a →
      i'.lane < i.lane ∨ i'.lane = i.lane ∧ j' ≤ j) → t.byteAt a = data i.lane j
  memory : ∀ a, (∀ i j, Touches r ls i → j < n → machine s bf off .write i j ≠ some a) → t.byteAt a = s.byteAt a
  teams : ∀ k, k ≠ s.cur.ref.team → t.teamOf k = s.teamOf k
  team : t.ct.rest = s.ct.rest
  group : GoesOnOnly s t
  owned : OffTables s r → ∀ i j a, Touches r ls i → j < n → machine s bf off .write i j = some a →
    Map.get none t.lineOwner (a / 64) = some s.ct.core ∧ Map.get false t.dirty (a / 4096) = true

/-- A store that goes to the plain region, where distinct virtual lines are distinct machine lines. -/
structure Plain (s : State) (r : Resolved) : Prop where
  coherent : Coherent s r
  uncompressed : ∀ q ∈ r.lines, ∀ m, q.place = .loc m → s.compressed m = false ∧ m % 64 = 0
  apart : ∀ q ∈ r.lines, ∀ q' ∈ r.lines, q.place = q'.place → q = q'
  clean : ∀ q ∈ r.lines, ∀ m, q.place = .loc m → Map.get none s.lineOwner (m / 64) ≠ some s.ct.core ∨
    Map.get false s.dirty (m / 4096) = true

end Sys2Proof.Machine.Claims

/-- R265 to R271: loads and stores through a buffer record: a lane that fails alignment takes 0x041 with the lanes that fail, before
anything else; a dropped lane reads zero and stores nothing; else each byte is that at its translated address.
A load from a peer waits by standing at its slot, which is the model's choice (log 8). -/
def Obligations.LoadsAndStores : Prop :=
  ∀ (s : State) (f : FmtM), s.cf.sent = [] →
    let bf := s.ct.record f.bf.toNat
    let n := mBytes f
    let w := Ty.bits f.ty / 8
    let cnt := f.cnt.toNat + 1
    (∀ i u, (i = .ld f ∧ u = { reads := useX f, writes := vregs f.d.toNat (mCount f) }) ∨
        (i = .st f ∧ u = { reads := useX f ++ vregs f.d.toNat (mCount f) }) → s.Issues i u →
      let bad := (s.laneIxs f).filter (fun i => alignAddr bf f.off i % (min w 8 : Nat) ≠ 0)
      bad ≠ [] → ∃ x, exec i s = .next (s.raise 0x041 (some (maskOf (bad.map (·.lane)))) x)) ∧
    (∀ r, s.resolve f (laneAsk f .read) .plain true (s.laneIxs f) = .ok r → Coherent s r →
      s.Issues (.ld f) { reads := useX f, writes := vregs f.d.toNat (mCount f) } →
      ∃ t, exec (.ld f) s = .next t ∧ ReadsMemory s t ∧ WritesRegs s t s.lanes (vregs f.d.toNat (mCount f)) ∧
        ∀ i ∈ s.laneIxs f,
          let x := valueAt s bf f.off r n i
          if Ty.bits f.ty < 32 then t.cg.Holds f.ty f.d.toNat i.lane x
          else ∀ k < cnt, t.cg.vreg (f.d.toNat + k) i.lane = BitVec.ofNat 32 (x / 2 ^ (32 * k))) ∧
    (∀ r, s.resolve f (laneAsk f .write) .plain true (s.laneIxs f) = .ok r → Plain s r →
      s.Issues (.st f) { reads := useX f ++ vregs f.d.toNat (mCount f) } →
      ∃ t, exec (.st f) s = .next t ∧ StoredTo s t bf f.off r (s.laneIxs f) n
        (fun l j => (s.cg.vreg (f.d.toNat + j / 4) l).extractLsb' (8 * (j % 4)) 8)) ∧
    (s.actsAny = true → bf.mode ≠ .interleave →
      (∀ r, s.resolve f (uniAsk f .read) .plain true (s.oneIx f) = .ok r → Coherent s r →
        s.Issues (.ldu f) { reads := useX f, writes := uregs f.d.toNat cnt } →
        ∃ t, exec (.ldu f) s = .next t ∧ ReadsMemory s t ∧ WritesRegs s t [] (uregs f.d.toNat cnt) ∧
          ∀ i ∈ s.oneIx f, ∀ k < cnt,
            t.cg.ureg (f.d.toNat + k) = BitVec.ofNat 64 (valueAt s bf f.off r (uBytes f) i / 256 ^ (w * k) % 256 ^ w)) ∧
      (∀ r, s.resolve f (uniAsk f .write) .plain true (s.oneIx f) = .ok r → Plain s r →
        s.Issues (.stu f) { reads := useX f ++ uregs f.d.toNat cnt } →
        ∃ t, exec (.stu f) s = .next t ∧ StoredTo s t bf f.off r (s.oneIx f) (uBytes f)
          (fun _ j => (s.cg.ureg (f.d.toNat + j / w)).extractLsb' (8 * (j % w)) 8))) ∧
    (s.actsAny = true → bf.mode = .interleave →
      (s.Issues (.ldu f) { reads := useX f, writes := uregs f.d.toNat cnt } → exec (.ldu f) s = .next (s.raise 0x04D)) ∧
      (s.Issues (.stu f) { reads := useX f ++ uregs f.d.toNat cnt } → exec (.stu f) s = .next (s.raise 0x04D))) ∧
    (s.Issues (.pfh f) { reads := useX f } → ∃ t, exec (.pfh f) s = .next t ∧ Completed s t [])

/-- R264, R272: buffer records: `ldbf` loads one from memory, bounds always checked, and `mkbf` takes one from uniform registers; a
malformed one takes 0x042 and no slot changes; `bfq` reads a doubleword of one.
R285, R286: `wbl` sends a core's dirty bytes of the lines it names home, and `invl` drops its copies too; `rngw` writes a window's
registers, and a window that was enabled closes: no copy of its lines stays. That `rngw` recalls the owners of all lines, and not only
those of a window that opens, is the model's choice (log 40). -/
def Obligations.BufferRecords : Prop :=
  (∀ (s : State), s.actsAny = true → s.cf.sent = [] →
      let put := fun (t : State) (k : Nat) (x : BitVec 256) =>
        Map.get 0 t.ct.bf k = x ∧ (∀ j, j ≠ k → Map.get 0 t.ct.bf j = Map.get 0 s.ct.bf j) ∧ GoesOnOnly s t ∧
          (∀ a, t.byteAt a = s.byteAt a) ∧ ∀ j, j ≠ s.cur.ref.team → t.teamOf j = s.teamOf j
      (∀ (f : FmtM) (r : Resolved),
        let bf := { s.ct.record f.bf.toNat with oob := false, strict := true }
        let x := fun i => BitVec.ofNat 256 (valueAt s bf f.off r 32 i)
        s.resolveRec bf f.bf.toNat f.off ⟨32, 32, .read, true⟩ .plain true (s.oneIx f) = .ok r → Coherent s r →
        s.Issues (.ldbf f) { reads := useX f } → ∀ i ∈ s.oneIx f,
          (recordBad (x i) = false → ∃ t, exec (.ldbf f) s = .next t ∧ put t f.d.toNat (x i)) ∧
          (recordBad (x i) = true → ∃ u : State, exec (.ldbf f) s = .next (u.raise 0x042) ∧ u.teams = s.teams ∧ ∀ a, u.byteAt a = s.byteAt a)) ∧
      (∀ (f : FmtM) (i : LaneIx),
        let bf := s.ct.record f.bf.toNat
        let o : Int := i.idx + f.off.toInt
        s.oneIx f = [i] → s.Issues (.ldbf f) { reads := useX f } → bf.mode = .raw → (bf.base + o) % 32 = 0 →
        (o < 0 ∨ bf.extent < o + 32) → exec (.ldbf f) s = .next (s.raise 0x040 none (BitVec.ofInt 64 o))) ∧
      ∀ (f : FmtE),
        let x := s.cg.ureg (f.a.toNat + 3) ++ s.cg.ureg (f.a.toNat + 2) ++ s.cg.ureg (f.a.toNat + 1) ++ s.cg.ureg f.a.toNat
        let k := f.imm.toNat % 32
        (s.Issues (.mkbf f) { reads := uregs f.a.toNat 4 } →
          (recordBad x = false → ∃ t, exec (.mkbf f) s = .next t ∧ put t k x) ∧
          (recordBad x = true → exec (.mkbf f) s = .next (s.raise 0x042))) ∧
        UniformResult s (.bfq f) { writes := [.s f.d.toNat] } f.d
          (((Map.get 0 s.ct.bf k : BitVec 256).extractLsb' (64 * f.sub.toNat) 64))) ∧
  (∀ (s : State),
      (∀ (f : FmtM) (reqs : List LineReq), s.windowLines f = .ok reqs →
        (∀ q ∈ reqs, ∀ m, q.place = .nc m → s.compressed m = false ∧ Map.find s.cLines (m / 64) = none ∧ m % 64 = 0 ∧
          ∀ c, s.ncCopy s.ct.core m = some c → c.bytes.length = 64) →
        ∀ i drop, (i = .wbl f ∧ drop = false) ∨ (i = .invl f ∧ drop = true) → s.Issues i { reads := useX f } →
        let w := s.windowLooked f
        ∃ t, exec i s = .next t ∧ GoesOnOnly w t ∧
          (∀ q ∈ reqs, ∀ m c, q.place = .nc m → s.ncCopy s.ct.core m = some c →
            (∀ k < 64, t.byteAt (m + k) = if c.mask.getLsbD k then c.bytes.getD k 0 else w.byteAt (m + k)) ∧
            t.ncCopy s.ct.core m = if drop then none else some { c with mask := 0 }) ∧
          (∀ a, (∀ q ∈ reqs, q.place ≠ .nc (a / 64 * 64)) → t.byteAt a = w.byteAt a) ∧
          ∀ core m, (core ≠ s.ct.core ∨ ∀ q ∈ reqs, q.place ≠ .nc m) → t.ncCopy core m = s.ncCopy core m) ∧
      ∀ f : FmtS, s.actsAny = true → s.Issues (.rngw f) { reads := uregs f.a.toNat 2 } →
        let n := f.imm.toNat % 16
        let b := s.cg.ureg f.a.toNat
        let l := s.cg.ureg (f.a.toNat + 1)
        let ob := s.cc.sreg (0x410 + n)
        let ol := s.cc.sreg (0x420 + n)
        (s.cc.windowBad n b l = true → exec (.rngw f) s = .next (s.raise 0x04D)) ∧
        (s.cc.windowBad n b l = false →
          (∀ core m c, s.ncCopy core m = some c → c.mask = 0 ∨ s.reach m (c.mask == BitVec.allOnes 64) = .ok) → ∃ t, exec (.rngw f) s = .next t ∧ t.cg.v = s.cg.v ∧ t.cg.s = s.cg.s ∧
          t.cg.p = s.cg.p ∧ t.cf = s.cf.goTo (nextPc s.cf.pc) ∧ t.cc.sreg (0x410 + n) = b ∧ t.cc.sreg (0x420 + n) = l ∧
          (∀ k, k ≠ 0x410 + n → k ≠ 0x420 + n → k ≠ 0x430 → t.cc.sreg k = s.cc.sreg k) ∧
          (ob.getLsbD 0 = false → (∀ a, t.byteAt a = s.byteAt a) ∧ t.nc = s.nc ∧ GoesOnOnly s t) ∧
          (b.getLsbD 0 = true → ∀ k, Map.get none t.lineOwner k = none) ∧
          (ob.getLsbD 0 = true → ∀ core m c, t.ncCopy core m = some c → c.ctx = s.ct.ctx →
            c.va < 4096 * field ob 56 12 ∨ 4096 * field ol 56 12 ≤ c.va)))

/-! ## Homes, atomics, versions and fences (R289 to R312) -/

namespace Sys2Proof.Machine.Claims

/-- An access of lines of the plain region that no cache holds for commuting, each at a machine line of its own. -/
structure Settled (s : State) (r : Resolved) : Prop where
  coherent : Coherent s r
  plain : ∀ q ∈ r.lines, ∀ m, q.place = .loc m → s.compressed m = false ∧ m % 64 = 0
  apart : ∀ q ∈ r.lines, ∀ q' ∈ r.lines, q.place = q'.place → q = q'

/-- The accesses of a slot that are not dropped, and those of lanes before one. -/
def touching (s : State) (f : FmtM) (r : Resolved) : List LaneIx := (s.laneIxs f).filter (fun i => decide (i.lane ∉ r.dropped))
def before (s : State) (f : FmtM) (r : Resolved) (l : Nat) : List LaneIx := (touching s f r).filter (fun i => decide (i.lane < l))

/-- The machine addresses of a lane's element of `n` bytes (R265), and the number that bytes hold and take. -/
def spots (s : State) (f : FmtM) (k : Kind) (n : Nat) (i : LaneIx) : List Nat :=
  (List.range n).map (fun j => (machine s (s.ct.record f.bf.toNat) f.off k i j).getD 0)
def numAt (m : Map Byte) (l : List Nat) : Nat := natOfBytes (l.map (Map.get 0 m))
def putAt (m : Map Byte) (l : List Nat) (x : Nat) : Map Byte :=
  l.zipIdx.foldl (fun m p => Map.set 0 m p.1 (BitVec.ofNat 8 (x / 256 ^ p.2))) m

/-- An element lies in one line, from its first byte up. -/
def Whole (l : List Nat) : Prop := ∃ a, l = (List.range l.length).map (a + ·) ∧ a % 64 + l.length ≤ 64

/-- The value of the element that a lane holds from a register on, in one register or two (R308). -/
def element (s : State) (f : FmtM) (skip l : Nat) : Nat :=
  if elemBytes f.ty = 8 then (s.cg.vpair (f.d.toNat + skip) l).toNat else (s.cg.vreg (f.d.toNat + skip) l).toNat

/-- The group's registers, stops and lanes stay, beside what a write of named registers changes. -/
structure GroupGoesOn (s t : State) : Prop where
  rest : t.cg.rest = s.cg.rest
  fragment : t.cf = s.cf.goTo (nextPc s.cf.pc)
  others : ∀ k, k ≠ s.cur.ref.team → t.teamOf k = s.teamOf k
  team : t.ct.rest = s.ct.rest

end Sys2Proof.Machine.Claims

/-- R308, R309: `atm` performs each lane's operation at its home in ascending lane, and every lane gets the old value it found; `red`
on elements that lie whole in a line changes no byte now, and an integer reduction, once its line is merged, has combined every lane's
operand with the element. One on an element that lies in two lines is combined at once, which is the model's choice (log 42). -/
def Obligations.AtomicsAndReductions : Prop :=
  ∀ (s : State) (f : FmtM) (r : Resolved), s.cf.sent = [] →
    s.resolve f (atmAsk f) .atomic true (s.laneIxs f) = .ok r → Settled s r →
    let n := elemBytes f.ty
    let at_ := spots s f .atomic n
    let lanes := touching s f r
    (∀ op : AtmOp,
      let turn := fun (m : Map Byte) (i : LaneIx) =>
        let y := atmNew f.ty op (numAt m (at_ i)) (element s f 0 i.lane) (element s f (n / 4) i.lane)
        if y.2 then putAt m (at_ i) y.1 else m
      s.Issues (.atm op f) (atmUses op f) →
      ∃ t, exec (.atm op f) s = .next t ∧ GroupGoesOn s t ∧ WritesRegs s t s.lanes (vregs f.d.toNat (n / 4)) ∧
        (∀ a, t.byteAt a = Map.get 0 (lanes.foldl turn s.mem) a) ∧
        ∀ i ∈ s.laneIxs f,
          let x := if i.lane ∈ r.dropped then 0 else numAt ((before s f r i.lane).foldl turn s.mem) (at_ i)
          ∀ k < n / 4, t.cg.vreg (f.d.toNat + k) i.lane = BitVec.ofNat 32 (x / 2 ^ (32 * k))) ∧
    (∀ op : MemRedOp, s.Issues (.red op f) { reads := useX f ++ vregs f.d.toNat (atmWords f) } →
      let addr := fun i => (at_ i).headD 0
      let total := fun (i : LaneIx) =>
        (lanes.filter (fun j => decide (at_ j = at_ i))).foldl
          (fun x j => intOp f.ty op x (element s f 0 j.lane)) (numAt s.mem (at_ i))
      ∃ t, exec (.red op f) s = .next t ∧ GoesOnOnly s t ∧
        (∀ a, (∀ i ∈ lanes, a ∉ at_ i) → t.byteAt a = s.byteAt a) ∧
        ((∀ i ∈ lanes, Whole (at_ i)) → OffTables s r → (∀ a, t.byteAt a = s.byteAt a) ∧
          (∀ k, (∀ i ∈ lanes, addr i / 64 ≠ k) → Map.get 0 t.vcount k = Map.get 0 s.vcount k) ∧
          ((∀ k, Map.get 0 s.vcount k < 0xFFFF) →
            ∀ i ∈ lanes, Map.get 0 t.vcount (addr i / 64) = Map.get 0 s.vcount (addr i / 64) + 1) ∧
          ∀ i ∈ lanes, Map.get none t.lineOwner (addr i / 64) = none ∧ Map.get false t.dirty (addr i / 4096) = true ∧
            ∃ c, Map.find t.cLines (addr i / 64) = some c ∧ c.op = (if op = .sub then .add else op) ∧ c.ty = f.ty) ∧
        ((∀ i ∈ lanes, ∀ j ∈ lanes, at_ i = at_ j ∨ ∀ a ∈ at_ i, a ∉ at_ j) →
          f.ty ∈ [Ty.n32, .i32, .n64, .i64] →
          ((∀ i ∈ lanes, Whole (at_ i)) → OffTables s r → s.ct.core < 256 →
            ∀ i ∈ lanes, numAt (t.mergeC (addr i / 64 * 64)).mem (at_ i) = total i) ∧
          ((∀ i ∈ lanes, ¬ Whole (at_ i) ∧ (spotLines (spotsOf r.lines i.lane n)).length = 2) →
            ∀ i ∈ lanes, numAt t.mem (at_ i) = total i)))

/-- R298 to R307: `ldv` and `verq` read lines with their versions; `casv` writes where the version is the expected one, and advances
it; `vadd` and `vstc` gather a validation set and a buffer of at most eight lines each; `vcommit` writes all the buffered bytes if
every version is as recorded, and else none, and says which; `vclr` drops both.
That `vstc` needs no controller to answer for its lines, and `vadd` does, is the model's reading (log 40). -/
def Obligations.VersionsAndConditionalStores : Prop :=
  ∀ (s : State),
    let bfOf := fun f : FmtM => s.ct.record f.bf.toNat
    (∀ (f : FmtM) (r : Resolved) (i : Instr) (n : Nat), (i = .ldv f ∧ n = Ty.bits f.ty / 8 ∨ i = .verq f ∧ n = 0) →
      let uni := f.hint.getLsbD 0
      let ls := if uni then s.oneIx f else s.laneIxs f
      (uni = true → s.actsAny = true) →
      s.resolve f ⟨max n 1, max n 1, .read, uni⟩ .version true ls = .ok r → Settled s r → s.Issues i (versionUses f n) →
      ∃ t, exec i s = .next t ∧ GroupGoesOn s t ∧ (∀ a, t.byteAt a = s.byteAt a) ∧
        WritesRegs s t s.lanes (versionUses f n).writes ∧
        ∀ x ∈ ls,
          let v := if x.lane ∈ r.dropped then 0 else (s.version ((machine s (bfOf f) f.off .read x 0).getD 0 / 64 * 64)).toNat
          let y := valueAt s (bfOf f) f.off r n x
          if uni then
            (n = 0 → t.cg.ureg f.d.toNat = BitVec.ofNat 64 v) ∧
            (n ≠ 0 → t.cg.ureg f.d.toNat = BitVec.ofNat 64 y ∧ t.cg.ureg (f.d.toNat + 1) = BitVec.ofNat 64 v)
          else
            (∀ k < n / 4, t.cg.vreg (f.d.toNat + k) x.lane = BitVec.ofNat 32 (y / 2 ^ (32 * k))) ∧
            t.cg.vpair (f.d.toNat + n / 4) x.lane = BitVec.ofNat 64 v) ∧
    (∀ (f : FmtM) (r : Resolved),
      let n := Ty.bits f.ty / 8
      let w := n / 4
      s.resolve f ⟨n, n, .atomic, false⟩ .version true (s.laneIxs f) = .ok r → Settled s r → (w = 1 ∨ w = 2) →
      let at_ := spots s f .atomic n
      (∀ i ∈ touching s f r, ∀ j ∈ touching s f r, i ≠ j → ∀ a ∈ at_ i, ∀ b ∈ at_ j, a / 64 ≠ b / 64) →
      (∀ i ∈ touching s f r, (at_ i).Nodup) → (∀ k, Map.get 0 s.vcount k < 0xFFFF) →
      s.Issues (.casv f) { reads := useX f ++ vregs f.d.toNat (w + 2), writes := vregs f.d.toNat (w + 2) } →
      ∃ t, exec (.casv f) s = .next t ∧ GroupGoesOn s t ∧ WritesRegs s t s.lanes (vregs f.d.toNat (w + 2)) ∧
        (∀ i ∈ touching s f r,
          let line := (at_ i).headD 0 / 64 * 64
          let found := s.version line
          let hit := found.toNat = (s.cg.vpair (f.d.toNat + w) i.lane).toNat
          let new := if w = 2 then (s.cg.vpair f.d.toNat i.lane).toNat else (s.cg.vreg f.d.toNat i.lane).toNat
          (∀ k < w, t.cg.vreg (f.d.toNat + k) i.lane = BitVec.ofNat 32 (numAt s.mem (at_ i) / 2 ^ (32 * k))) ∧
          t.cg.vpair (f.d.toNat + w) i.lane = found.setWidth 64 ∧
          (hit → numAt t.mem (at_ i) = new ∧ Map.get 0 t.vcount (line / 64) = Map.get 0 s.vcount (line / 64) + 1) ∧
          (¬ hit → numAt t.mem (at_ i) = numAt s.mem (at_ i))) ∧
        ∀ x, (∀ i ∈ touching s f r, x ∉ at_ i) → t.byteAt x = s.byteAt x) ∧
    (∀ f : FmtE,
      let k := (f.imm.extractLsb' 0 5).toNat
      ∀ i u uni (ls : List (LaneIx × DWord)),
        (i = .vaddU f ∧ uni = true ∧ s.actsAny = true ∧ u = { reads := [.s f.a.toNat, .s f.b.toNat] } ∧
            ls = [(⟨0, (s.cg.ureg f.a.toNat).toNat⟩, s.cg.ureg f.b.toNat)]) ∨
          (i = .vadd f ∧ uni = false ∧ u = { reads := .v f.a.toNat :: vregs f.b.toNat 2 } ∧
            ls = s.lanes.map (fun l => (⟨l, (s.cg.vreg f.a.toNat l).toNat⟩, s.cg.vpair f.b.toNat l))) →
        ∀ r, s.Issues i u → (s.ct.record k).mode ≠ .interleave →
        s.resolveRec (s.ct.record k) k 0 ⟨1, 1, .read, uni⟩ .version true (ls.map (·.1)) = .ok r → Coherent s r →
        let va := fun x : LaneIx => (byteAddr s.ct (s.ct.record k) s.cur.ref.group 0 x 0).toNat / 64 * 64
        let entries := (ls.filter (fun p => decide (p.1.lane ∉ r.dropped))).map (fun p => (⟨va p.1, (machine s (s.ct.record k) 0 .read p.1 0).getD 0 / 64 * 64, p.2⟩ : VEntry))
        let x := entries.foldl addEntry (s.cg.vset, s.cg.vfail)
        (∀ q ∈ r.lines, ∀ m, q.place = .loc m → m % 64 = 0) →
        (8 < x.1.length → exec i s = .next (s.raise 0x061)) ∧
        (x.1.length ≤ 8 → ∃ t, exec i s = .next t ∧ t.cg.vset = x.1 ∧ t.cg.vfail = x.2 ∧ (∀ a, t.byteAt a = s.byteAt a) ∧
          t.cg.v = s.cg.v ∧ t.cg.s = s.cg.s ∧ t.cg.sbuf = s.cg.sbuf ∧ t.cf = s.cf.goTo (nextPc s.cf.pc))) ∧
    (∀ (f : FmtM) (r : Resolved), s.resolve f (laneAsk f .write) .buffered false (s.laneIxs f) = .ok r →
      (∀ l ∈ s.cg.sbuf, l.bytes.length = 64) → s.Issues (.vstc f) { reads := useX f ++ vregs f.d.toNat (mCount f) } →
      let va := fun x j => (byteAddr s.ct (bfOf f) s.cur.ref.group f.off x j).toNat
      let lines := s.cg.sbuf.map (·.vline) ++ (r.lines.map (·.va)).filter (fun v => decide (v ∉ s.cg.sbuf.map (·.vline)))
      let w := r.lines.foldl (fun s q => s.cache s.ct.ctx q.va) s
      (8 < lines.length → exec (.vstc f) s = .next (w.raise 0x062)) ∧
      (lines.length ≤ 8 → ∃ t, exec (.vstc f) s = .next t ∧ (∀ a, t.byteAt a = w.byteAt a) ∧ t.cg.v = s.cg.v ∧
        t.cg.vset = s.cg.vset ∧ t.cf = s.cf.goTo (nextPc s.cf.pc) ∧ t.cg.sbuf.map (·.vline) = lines ∧
        (∀ x ∈ touching s f r, ∀ j < mBytes f,
          (∀ y ∈ touching s f r, ∀ k < mBytes f, va y k = va x j → y.lane < x.lane ∨ y.lane = x.lane ∧ k ≤ j) →
          ∃ l ∈ t.cg.sbuf, l.vline = va x j / 64 * 64 ∧
            l.bytes.getD (va x j % 64) none =
              some ((s.cg.vreg (f.d.toNat + j / 4) x.lane).extractLsb' (8 * (j % 4)) 8)) ∧
        ∀ l ∈ s.cg.sbuf, ∀ k < 64, (∀ x ∈ touching s f r, ∀ j < mBytes f, va x j ≠ l.vline + k) → l.vline % 64 = 0 →
          ∃ l' ∈ t.cg.sbuf, l'.vline = l.vline ∧ l'.bytes.getD k none = l.bytes.getD k none)) ∧
    (∀ (f : FmtE), f.d.toNat < 7 → s.Issues (.vcommit f) { writes := [.p f.d.toNat] } →
      let here := fun (k : Kind) (v m : Nat) => s.translate s.ct.ctx (!s.cg.sys) k v = .ok (.loc m) ∧ m % 64 = 0 ∧
        s.reach m true = .ok ∧ s.reach m false = .ok ∧ s.compressed m = false
      (∀ l, Map.find s.cLines l = none) →
      (∀ e ∈ s.cg.vset, here .read e.vline e.mline) → (∀ l ∈ s.cg.sbuf, here .write l.vline l.mline ∧ l.bytes.length = 64) →
      (s.cg.sbuf.map (·.mline)).Nodup →
      let ok := s.cg.vfail = false ∧ ∀ e ∈ s.cg.vset, e.version = (s.version e.mline).setWidth 64
      ∃ t, exec (.vcommit f) s = .next t ∧ t.cg.vset = [] ∧ t.cg.sbuf = [] ∧ t.cg.vfail = false ∧ t.cg.v = s.cg.v ∧
        t.cg.s = s.cg.s ∧ t.cf = s.cf.goTo (nextPc s.cf.pc) ∧
        (∀ l < 64, s.cf.em.getLsbD l = true → ((t.cg.pred f.d.toNat).getLsbD l = true ↔ ok)) ∧
        (¬ ok → ∀ a, t.byteAt a = s.byteAt a) ∧
        (ok → (∀ l ∈ s.cg.sbuf, ∀ k < 64, t.byteAt (l.mline + k) = (l.bytes.getD k none).getD (s.byteAt (l.mline + k))) ∧
          ∀ a, (∀ l ∈ s.cg.sbuf, l.mline ≠ a / 64 * 64) → t.byteAt a = s.byteAt a)) ∧
    (s.Issues .vclr {} → ∃ t, exec .vclr s = .next t ∧ t.cg.vset = [] ∧ t.cg.sbuf = [] ∧ t.cg.vfail = false ∧
      GroupOnly s t ∧ t.cg.v = s.cg.v ∧ t.cg.s = s.cg.s ∧ t.cg.p = s.cg.p ∧ t.cf = s.cf.goTo (nextPc s.cf.pc))

/-- R279, R287, R288: `frply` after a fault that has been resolved restores the group and issues the instruction again; one that still
stands takes 0x049, and none at all 0x047; `dharv` of 64 granules answers how many were written, stores their bits, and clears them.
R284, R290 to R297, R310 to R312, R325: a fence completes where its group's requests to peers, and the host's answers, are in, and
else parks; `fence.nc` first empties the core's non-coherent copies into their homes. What homes and caches do of themselves moves
ownership, and changes no byte but those a write carries.
Which cause a second fault in `frply` takes, and that a cache that is gated gives up every line, are the model's reading (log 40), and
so is that a squash leaves the state as it is, since no load runs ahead in the model (log 17). -/
def Obligations.FencesPagesAndHarvest : Prop :=
  (∀ (s : State),
      (s.Issues .frply {} →
        let g := s.cg
        let code := field (g.tfReg 0x470) 8 0
        let sw := (g.tfReg 0x470).getLsbD 11
        (g.ent = false ∨ sw = true ∨ (code ≠ 0x048 ∧ code ≠ 0x04A) → exec .frply s = .next (s.raise 0x047)) ∧
        (g.ent = true → sw = false →
          (code = 0x048 → ∀ l e, s.walk s.ct.ctx (g.tfReg 0x473).toNat = .fail 0x048 l e →
            exec .frply s = .next (s.frplyWalked.raise 0x049)) ∧
          (code = 0x04A → (s.ct.record (field (g.tfReg 0x475) 4 0)).hwm < (g.tfReg 0x473).toNat →
            exec .frply s = .next (s.raise 0x049)) ∧
          ((code = 0x048 ∧ s.walk s.ct.ctx (g.tfReg 0x473).toNat ≠ .wait ∧
              ∀ l e, s.walk s.ct.ctx (g.tfReg 0x473).toNat ≠ .fail 0x048 l e) ∨
            (code = 0x04A ∧ (g.tfReg 0x473).toNat ≤ (s.ct.record (field (g.tfReg 0x475) 4 0)).hwm) →
            ∃ t, exec .frply s = .next t ∧ KeepsRegs s.frplyWalked t ∧ t.cg.sys = (g.tfReg 0x470).getLsbD 10 ∧ t.cg.ent = false ∧
              t.cf.pc = g.tfReg 0x471 ∧ t.cf.em = g.tfReg 0x478 &&& s.cf.om ∧ t.cf.om = s.cf.om))) ∧
      ∀ (f : FmtE) (m : Nat), s.actsAny = true →
        let a := (s.cg.ureg f.a.toNat).toNat
        let va := (s.cg.ureg f.b.toNat).toNat
        let old := (List.range 64).map (fun j => Map.get false s.dirty (a / 4096 + j))
        a % 4096 = 0 → (s.cg.ureg (f.a.toNat + 1)).toNat = 64 → va % 8 = 0 → va + 8 ≤ 2 ^ 57 → a + 4096 * 64 ≤ s.frameEnd →
        s.translate s.ct.ctx (!s.cg.sys) .write (va / 64 * 64) = .ok (.loc m) → s.reach m false = .ok → s.compressed m = false →
        m % 64 = 0 → s.cLines = [] →
        s.Issues (.dharv f) { reads := uregs f.a.toNat 2 ++ [.s f.b.toNat], writes := [.s f.d.toNat] } →
        ∃ t, exec (.dharv f) s = .next t ∧ t.cg.v = s.cg.v ∧ t.cg.p = s.cg.p ∧ t.cf.pc = nextPc s.cf.pc ∧
          t.cg.ureg f.d.toNat = BitVec.ofNat 64 (old.filter id).length ∧ (∀ r, r ≠ f.d.toNat → t.cg.ureg r = s.cg.ureg r) ∧
          (∀ j < 64, (t.byteAt (m + va % 64 + j / 8)).getLsbD (j % 8) = Map.get false s.dirty (a / 4096 + j)) ∧
          (∀ x, (∀ j < 8, x ≠ m + va % 64 + j) → t.byteAt x = s.byteAt x) ∧
          ∀ j < 64, a / 4096 + j ≠ m / 4096 → Map.get false t.dirty (a / 4096 + j) = false) ∧
  (∀ (s : State),
      let r := s.cur.ref
      let calm := s.remoteDone r.team r.group
      let core := s.ct.core
      let keeps := fun (t : State) => ∀ a, t.byteAt a = s.byteAt a
      let taken := fun (core : Nat) =>
        ∀ p ∈ Map.get [] s.nc core, p.2.mask = 0 ∨ s.reach p.1 (p.2.mask == BitVec.allOnes 64) = .ok
      let emptied := fun (t : State) (core : Nat) =>
        (∀ m, t.ncCopy core m = none) ∧
        (∀ k m, k ≠ core → t.ncCopy k m = s.ncCopy k m) ∧
        ((∀ p ∈ Map.get [] s.nc core, s.compressed p.1 = false ∧ Map.find s.cLines (p.1 / 64) = none ∧ p.1 % 64 = 0 ∧
            p.2.bytes.length = 64) → ((Map.get [] s.nc core).map (·.1)).Nodup →
          ∀ a, t.byteAt a =
            match s.ncCopy core (a / 64 * 64) with
            | some c => if c.mask.getLsbD (a % 64) then c.bytes.getD (a % 64) 0 else s.byteAt a
            | none => s.byteAt a)
      (∀ i nc sys, (i = .fenceDom ∧ nc = false ∧ sys = false) ∨ (i = .fenceNc ∧ nc = true ∧ sys = false) ∨
          (i = .fenceSys ∧ nc = true ∧ sys = true) → s.Issues i {} →
        let done := ((nc = true ∧ sys = false) ∨ calm = true) ∧ (sys = true → s.hostOut = 0)
        (done → (nc = true → taken core) → ∃ t, exec i s = .next t ∧ t.cg.v = s.cg.v ∧ t.cg.s = s.cg.s ∧ t.cg.p = s.cg.p ∧
          t.cf = s.cf.goTo (nextPc s.cf.pc) ∧ (nc = false → NothingElse s t) ∧ (nc = true → emptied t core)) ∧
        (done → nc = true → ∀ m c l, Map.get [] s.nc core = (m, c) :: l → c.mask ≠ 0 →
          s.reach m (c.mask == BitVec.allOnes 64) = .failed → exec i s = .next (s.raise 0x050 none (BitVec.ofNat 64 m))) ∧
        (¬ done → ∃ t, exec i s = .next t ∧ KeepsRegs s t ∧ t.cf.park = some (.again (.fence nc sys)) ∧ t.cf.pc = s.cf.pc)) ∧
      (∀ line : Nat,
        let l := line / 64 * 64
        (∃ t, exec (.homeLineAccess line .fail) s = .next t ∧ keeps t ∧ l ∈ t.badLines) ∧
        (∃ t, exec (.homeLineAccess line .corrected) s = .next t ∧ keeps t ∧ t.teams = s.teams ∧
          field (t.preg 0x818) 63 32 = (field (s.preg 0x818) 63 32 + 1) % 2 ^ 32) ∧
        (∀ agent, Map.find s.cLines (l / 64) = none → s.compressed l = false → s.reach l false = .ok →
          (∃ t, exec (.homeLineAccess line (.fill agent)) s = .next t ∧ keeps t ∧ t.teams = s.teams ∧ t.vcount = s.vcount ∧
            t.dirty = s.dirty ∧ Map.get none t.lineOwner (l / 64) =
              if Map.get none s.lineOwner (l / 64) = some agent then some agent else none) ∧
          (∃ t, exec (.homeLineAccess line (.grant agent)) s = .next t ∧ keeps t ∧
            Map.get none t.lineOwner (l / 64) = some agent ∧
            (Map.get none s.lineOwner (l / 64) ≠ some agent → Map.get false t.dirty (l / 4096) = true)) ∧
          (∀ off bytes, off + bytes.length ≤ 64 → bytes ≠ [] →
            ∃ t, exec (.homeLineAccess line (.write agent off bytes)) s = .next t ∧
              Map.get none t.lineOwner (l / 64) = some agent ∧
              ∀ a, t.byteAt a = if l + off ≤ a ∧ a < l + off + bytes.length then bytes.getD (a - (l + off)) 0 else s.byteAt a)) ∧
        (∀ agent, ∃ t, exec (.homeLineAccess line (.writeBack agent)) s = .next t ∧ keeps t ∧
          Map.get none t.lineOwner (l / 64) ≠ some agent) ∧
        (∀ die op ty off operand, die < 4 → off % elemBytes ty = 0 → off + elemBytes ty ≤ 64 →
          ty ∈ [Ty.n32, .i32, .n64, .i64, .f32, .bf16] → Map.find s.cLines (l / 64) = none → s.reach l false = .ok →
          ∃ t c, exec (.redArrival die line op ty off operand) s = .next t ∧ keeps t ∧ t.teams = s.teams ∧
            Map.find t.cLines (l / 64) = some c ∧ c.ty = ty ∧ c.op = (if op = .sub then .add else op)) ∧
        (∀ core, s.ncCopy core l = none → ∃ t, exec (.l1Eviction core line) s = .next t ∧ keeps t ∧
          Map.get none t.lineOwner (l / 64) ≠ some core ∧ t.vcount = s.vcount) ∧
        (∀ core c, s.ncCopy core l = some c → s.compressed l = false → Map.find s.cLines (l / 64) = none → c.bytes.length = 64 →
          ∃ t, exec (.l1Eviction core line) s = .next t ∧
            (c.mask = 0 ∨ s.reach l (c.mask == BitVec.allOnes 64) = .ok → t.ncCopy core l = none ∧
              (∀ k < 64, t.byteAt (l + k) = if c.mask.getLsbD k then c.bytes.getD k 0 else s.byteAt (l + k)) ∧
              ∀ a, a / 64 * 64 ≠ l → t.byteAt a = s.byteAt a) ∧
            (¬ (c.mask = 0 ∨ s.reach l (c.mask == BitVec.allOnes 64) = .ok) → t.nc = s.nc ∧ keeps t)) ∧
        (∀ core, exec (.signatureSquash core line) s = .next s ∧ exec (.requestReplay core line) s = .next s)) ∧
      (∀ core, taken core → ∃ t, exec (.cachePowerGate core) s = .next t ∧ emptied t core ∧ core ∈ t.gated ∧
        ∀ p ∈ t.lineOwner, p.2 ≠ some core) ∧
      (∀ core, ∃ t, exec (.cacheWake core) s = .next t ∧ core ∉ t.gated ∧ keeps t ∧ t.teams = s.teams ∧
        (core ∉ s.gated → t = s) ∧
        (core ∈ s.gated → (∀ m, t.ncCopy core m = none) ∧ ∀ p ∈ t.lineOwner, p.2 ≠ some core)) ∧
      ∃ t, exec .hostStoreAcknowledgement s = .next t ∧ t.hostOut = s.hostOut - 1 ∧ { t with hostOut := s.hostOut } = s)

/-! ## Copies (R221 to R244) -/

namespace Sys2Proof.Machine.Claims

/-- A copy-queue entry is free, and nobody waits for one (R224). -/
structure EntryFree (s : State) : Prop where
  room : 0 < s.entriesFree s.cur.ref.team
  first : s.ct.entryWait = []
  own : s.cur.ref ∉ s.ct.granted

/-- The shape slot of a copy instruction holds a descriptor (R232). -/
structure Slotted (s : State) (f : FmtE) (x : BitVec 512) : Prop where
  queue : s.ct.copyq ≠ 0
  number : f.ts.toNat < s.ct.slots
  loaded : Map.find s.ct.ts f.ts.toNat = some x

/-- A copy issues: it takes the next number and its lines are to do; the lines of its own scratchpad that it lands in are absent; its
group's batch counts it; the lines it writes in local memory are its own, no cache's any more, and recorded (R239, R291, R298); no byte of
memory and no register changes (R231, R238, R241). -/
def IssuesCopy (s : State) (i : Instr) (u : Uses) (c : Copy) : Prop :=
  let c := { c with
    team := s.cur.ref.team, group := s.cur.ref.group, core := s.ct.core, user := !s.cg.sys, addr := s.cf.pc, batch := s.cg.batch }
  EntryFree s → (∀ l, Map.find s.cLines l = none) → s.Issues i u → ∃ t c', exec i s = .next t ∧ (∀ a, t.byteAt a = s.byteAt a) ∧
    Map.find t.copies s.nextCopy = some c' ∧ { c' with own := [] } = { c with todo := c.units, own := [] } ∧
    t.nextCopy = s.nextCopy + 1 ∧ (∀ k, k ≠ s.nextCopy → Map.find t.copies k = Map.find s.copies k) ∧
    t.cg.v = s.cg.v ∧ t.cg.s = s.cg.s ∧ t.cg.p = s.cg.p ∧ t.ct.sp = s.ct.sp ∧ t.cg.inBatch = s.cg.inBatch + 1 ∧
    t.cf = s.cf.goTo (nextPc s.cf.pc) ∧
    (c.kind = .load → s.ct.status = .resident → ∀ l, t.ct.lineAbsent l = (decide (l ∈ c.units) || s.ct.lineAbsent l)) ∧
    (c.kind.lands = false → ∀ p ∈ c'.own, (p.2, s.nextCopy) ∈ t.locks ∧
      (s.reach p.2 true (s.copies.map (·.1)) = .ok →
        Map.get none t.lineOwner (p.2 / 64) = none ∧ Map.get false t.dirty (p.2 / 4096) = true))

/-- A field of a bit address in bytes. -/
def bitsAt (m : Map Byte) (a w : Nat) : Nat := natOfBytes (Map.bytes m (a / 8) ((w + 7) / 8)) / 2 ^ (a % 8) % 2 ^ w

/-- The machine line of a copy's source or destination line, which its engine can read or write now. -/
def Served (s : State) (id : Nat) (k : Kind) (va m : Nat) : Prop :=
  let c := s.copyOf id
  va < 2 ^ 57 ∧ s.translate (s.teamOf c.team).ctx c.user k va = .ok (.loc m) ∧ m % 64 = 0 ∧
    s.reach m false [id] = .ok ∧ s.reach m true [id] = .ok ∧ s.compressed m = false ∧ ∀ l, Map.find s.cLines l = none

/-- The field at a virtual bit address, in the source lines that a copy has read, and that at a scratchpad bit address. -/
def sourceBits (c : Copy) (a w : Nat) : Nat := natOfBytes (Map.get [] c.src (a / 512 * 64)) / 2 ^ (a % 512) % 2 ^ w
def spSourceBits (c : Copy) (a w : Nat) : Nat := natOfBytes (Map.get [] c.src (a / 1024)) / 2 ^ (a % 1024) % 2 ^ w

/-- The box's n-th element goes to a bit address of destination line u. -/
def Lands (c : Copy) (dst : Nat → Option Nat) (u n a : Nat) : Prop :=
  n < c.shape.boxCount ∧ dst n = some a ∧ a / 512 * 64 = u

/-- A transfer to line u, which is machine line m, writes at the bit address of each of its elements that element's value, a later one over
an earlier one, and no other byte. -/
def WritesLine (s : State) (id u m : Nat) (dst : Nat → Option Nat) (value : Nat → Nat) : Prop :=
  let c := s.copyOf id
  let w := c.shape.ty.bits
  w ∈ [4, 8, 16, 32, 64] → (∀ n a, Lands c dst u n a → a % w = 0) →
    ∃ t, exec (.copyLineTransfer id u) s = .next t ∧ u ∉ (t.copyOf id).todo ∧ t.teams = s.teams ∧
      (∀ n a, Lands c dst u n a → (∀ k b, Lands c dst u k b → n < k → b ≠ a) →
        bitsAt t.mem (8 * m + a % 512) w = value n % 2 ^ w) ∧
      ∀ x, (∀ n a, Lands c dst u n a → ¬ (m + a % 512 / 8 ≤ x ∧ x < m + (a % 512 + w + 7) / 8)) → t.byteAt x = s.byteAt x

end Sys2Proof.Machine.Claims

/-- R229, R231 to R237: `tsload` takes a descriptor that passes its check into a slot, and `tsevict` empties one; a copy whose
operands pass their checks issues with an entry of the queue, and without one parks.
That `tsload` reads at a byte offset through structured and interleave records too is the model's choice (log 42). -/
def Obligations.CopiesIssueOnce : Prop :=
  ∀ (s : State) (f : FmtE), s.actsAny = true →
    let g := s.cg
    let a := f.a.toNat
    let cs := coordsOf (g.ureg a) (g.ureg (a + 1)) (g.ureg (a + 2))
    let b := g.ureg f.b.toNat
    let tile : Copy := { nullCopy with
      coords := cs, sp := field b 31 0, clasp := if b.getLsbD 63 then none else some (field b 62 32) }
    (f.ts.toNat < s.ct.slots →
      (∀ r, s.cf.sent = [] → (g.ureg a).toNat % 64 = 0 →
        let n := (f.imm.extractLsb' 0 5).toNat
        let bf := { s.ct.record n with oob := false, strict := true, flat := true }
        let x := BitVec.ofNat 512 (valueAt s bf 0 r 64 ⟨0, (g.ureg a).toNat⟩)
        s.resolveRec bf n 0 ⟨1, 64, .read, true⟩ .plain true [⟨0, (g.ureg a).toNat⟩] = .ok r → Coherent s r →
        descBad x = false → s.Issues (.tsload f) { reads := [.s a], writes := [.ts f.ts.toNat] } →
        ∃ t, exec (.tsload f) s = .next t ∧ GoesOnOnly s t ∧ (∀ a, t.byteAt a = s.byteAt a) ∧
          Map.find t.ct.ts f.ts.toNat = some x ∧ ∀ k, k ≠ f.ts.toNat → Map.find t.ct.ts k = Map.find s.ct.ts k) ∧
      (s.Issues (.tsevict f) { writes := [.ts f.ts.toNat] } → ∃ t, exec (.tsevict f) s = .next t ∧ GoesOnOnly s t ∧
        TeamAlone s t ∧ Map.find t.ct.ts f.ts.toNat = none ∧
        ∀ k, k ≠ f.ts.toNat → Map.find t.ct.ts k = Map.find s.ct.ts k)) ∧
    (∀ x, Slotted s f x → field (g.ureg (a + 2)) 63 32 = 0 →
      let d := Desc.of x
      let fits := spRangeStop [s.ct.spSize] b d.boxBytes = none
      let even := d.ty.bits = 4 → cs.getD 0 0 % 2 = 0
      (fits → even → IssuesCopy s (.cpyld f) (copyUses f) { tile with kind := .load, desc := x } ∧
        IssuesCopy s (.cpyst f) (copyUses f) { tile with kind := .store, desc := x } ∧
        (s.ct.granted = [] → s.entriesFree s.cur.ref.team = 0 → s.Issues (.cpyld f) (copyUses f) →
          ∃ t, exec (.cpyld f) s = .next t ∧ t.cf.park = some (.again .entry) ∧ t.cf.pc = s.cf.pc ∧ t.copies = s.copies ∧
            t.ct.entryWait = s.ct.entryWait ++ [(s.cur.ref, none)] ∧ t.ct.absent = s.ct.absent)) ∧
      (∀ op, fits → redTypeBad op d.ty = false →
        IssuesCopy s (.cpyred op f) (copyUses f) { tile with kind := .reduce op, desc := x }) ∧
      (let mask := f.imm.toNat % 65536
       let mates := s.teams.filter (fun p => p.2.sameCluster s.ct)
       mask ≠ 0 → (∀ r < 16, mask.testBit r = true → r ∈ mates.map (·.2.rank)) →
         spRangeStop ((s.copyTargets { nullCopy with kind := .multicast mask, team := s.cur.ref.team }).map
           (fun t => (s.teamOf t).spSize)) b d.boxBytes = none →
         IssuesCopy s (.cpymc f) (copyUses f) { tile with kind := .multicast mask, desc := x }) ∧
      (let p := (f.imm.extractLsb' 8 8).toNat + 1
       let r : BitVec 256 := Map.get 0 s.ct.bf (f.imm.extractLsb' 0 5).toNat
       let c : Copy := { nullCopy with kind := .stripe p, desc := x, coords := cs, recX := r, offX := b.toNat }
       d.rank ≤ 2 → d.ty.bits ∈ [4, 8, 16] → d.box.getD 0 1 * d.ty.bits % 512 = 0 → b.toNat % 64 = 0 →
         (∀ i < d.box.getD 1 1, b.toNat + 64 * (stripeUnit p c.segments i (c.segments - 1) + 1) ≤ (BRec.of r).extent) →
         b.toNat + 64 ≤ (BRec.of r).extent →
         IssuesCopy s (.cpystripe f) (copyUses f) c)) ∧
    (let x : BitVec 256 := Map.get 0 s.ct.bf (f.imm.extractLsb' 0 5).toNat
     let y : BitVec 256 := Map.get 0 s.ct.bf (f.imm.extractLsb' 5 5).toNat
     let n := (g.ureg f.d.toNat).toNat
     let offX := (g.ureg a).toNat
     let offY := b.toNat
     s.ct.copyq ≠ 0 → n < 2 ^ 32 → (BRec.of x).mode = .raw → (BRec.of y).mode = .raw → offX % 4 = 0 → offY % 4 = 0 → n % 4 = 0 →
       ((BRec.of x).base + offX + n ≤ (BRec.of y).base + offY ∨ (BRec.of y).base + offY + n ≤ (BRec.of x).base + offX) →
       offX + n ≤ (BRec.of x).extent → offY + n ≤ (BRec.of y).extent → n ≠ 0 →
       IssuesCopy s (.cpyg f) { reads := [.s a, .s f.b.toNat, .s f.d.toNat] }
         { nullCopy with kind := .linear, recX := x, offX := offX, recY := y, offY := offY, len := n })

/-- R238 to R243: a transfer lands every element of its scratchpad line in each team that it goes to, from memory or from the fill, or
writes the elements of its memory line, those of a reduction into the line's partial copy; a copy with nothing left completes, one out of
scratchpad once it has read every line of its box; one that meets a fault ends, its lines present again, with the cause held for its group;
batches close, are awaited and read.
Which cause a failing scratchpad line gives a copy is the model's reading (log 34). -/
def Obligations.CopiesMoveAndComplete : Prop :=
  ∀ (s : State),
    (∀ id u : Nat,
      let c := s.copyOf id
      u ∈ c.todo → c.sent = [] →
      (∀ l m, c.src = [] → c.sourceLines u = [l] → Served s id .read l m → c.kind = .load →
        ∃ t, exec (.copyLineTransfer id u) s = .next t ∧ Map.get [] (t.copyOf id).src l = Map.bytes s.mem m 64 ∧
          u ∉ (t.copyOf id).todo) ∧
      ((∀ l ∈ c.sourceLines u, Map.has c.src l = true) →
      (c.kind.lands = true → descBad c.desc = false → c.sp % 128 = 0 → u ∈ c.units →
        ∃ t, exec (.copyLineTransfer id u) s = .next t ∧ (∀ a, t.byteAt a = s.byteAt a) ∧ u ∉ (t.copyOf id).todo ∧
          ∀ k ∈ s.copyTargets c, (s.teamOf k).status = .resident →
            (t.teamOf k).lineAbsent u = false ∧
            (∀ n, n < c.shape.boxCount → c.spAt n / 1024 = u →
              bitsAt (t.teamOf k).sp (c.spAt n) c.shape.ty.bits =
                match c.elemAt n with
                | some a => sourceBits c a c.shape.ty.bits
                | none => c.shape.fillValue % 2 ^ c.shape.ty.bits) ∧
            ∀ x, x / 128 ≠ u → Map.get 0 (t.teamOf k).sp x = Map.get 0 (s.teamOf k).sp x) ∧
      (∀ m, c.kind = .store → Served s id .write u m →
        WritesLine s id u m c.elemAt (fun n => spSourceBits c (c.spAt n) c.shape.ty.bits)) ∧
      (∀ m p, c.kind = .stripe p → Served s id .write u m → Map.get false s.stripe (m / 4096) = true →
        WritesLine s id u m
          (fun n => let o := c.stripeBit p n; some (8 * recordByte c.recX (c.offX + o / 8) + o % 8))
          (fun n => match c.elemAt n with
            | some a => sourceBits c a c.shape.ty.bits
            | none => c.shape.fillValue)) ∧
      (∀ m op, c.kind = .reduce op → Served s id .atomic u m → c.core < 256 →
        let w := c.shape.ty.bits
        ∃ t l, exec (.copyLineTransfer id u) s = .next t ∧ u ∉ (t.copyOf id).todo ∧ t.teams = s.teams ∧ t.mem = s.mem ∧
          Map.find t.cLines (m / 64) = some l ∧ l.op = op.mem ∧ l.ty = c.shape.ty ∧
          (c.shape.ty ∈ [Ty.n32, .i32, .n64, .i64] →
            (∀ n a, Lands c c.elemAt u n a → a % w = 0 ∧ ∀ k, Lands c c.elemAt u k a → k = n) →
            ∀ n a, Lands c c.elemAt u n a →
              bitsAt (t.mergeC m).mem (8 * m + a % 512) w =
                intOp c.shape.ty op.mem (bitsAt s.mem (8 * m + a % 512) w) (spSourceBits c (c.spAt n) w))) ∧
      (∀ m, c.kind = .linear → Served s id .write u m →
        ∃ t, exec (.copyLineTransfer id u) s = .next t ∧ u ∉ (t.copyOf id).todo ∧ t.teams = s.teams ∧
          (∀ j < c.len, recordByte c.recX (c.offX + j) / 64 * 64 = u →
            (t.byteAt (m + recordByte c.recX (c.offX + j) % 64)).toNat = sourceBits c (8 * recordByte c.recY (c.offY + j)) 8) ∧
          ∀ x, (∀ j < c.len, recordByte c.recX (c.offX + j) / 64 * 64 = u → x ≠ m + recordByte c.recX (c.offX + j) % 64) →
            t.byteAt x = s.byteAt x))) ∧
    (∀ id : Nat, Map.has s.copies id = true →
      let c := s.copyOf id
      (c.todo = [] → s.copyAcked id = true → s.copyRefused id = none → c.kind.fromSp = false →
        ((∀ w, c.kind ≠ .window w) → ∃ t, exec (.copyComplete id) s = .next t ∧ Map.has t.copies id = false ∧ t.mem = s.mem ∧
          t.teams = s.teams ∧ (∀ k, k ≠ id → Map.find t.copies k = Map.find s.copies k) ∧ ∀ p ∈ t.locks, p.2 ≠ id) ∧
        (∀ w, c.kind = .window w → s.copies.find? (fun x => x.2.team == c.team && x.2.kind == .window w) = some (id, c) →
          Map.has (s.teamOf c.team).win w = true →
          ∃ t, exec (.windowCopyLanded c.team w) s = .next t ∧ Map.has t.copies id = false ∧ t.mem = s.mem ∧
            ((t.teamOf c.team).window w).state = 3)) ∧
      (c.todo = [] → s.copyAcked id = true → s.copyRefused id = none → c.kind.fromSp = true →
        let line := fun k => c.sp / 128 + k
        let read := fun k => Map.has c.src (line k) = true
        ((∀ k < c.boxLines, read k ∨ (s.teamOf c.team).lineAbsent (line k) = false ∧ line k ∉ (s.teamOf c.team).badSp) →
          ∃ t, exec (.copyComplete id) s = .next t ∧ Map.has t.copies id = false ∧ t.mem = s.mem ∧
            (t.teamOf c.team).sp = (s.teamOf c.team).sp ∧ (∀ k, k ≠ c.team → t.teamOf k = s.teamOf k) ∧
            (∀ k, k ≠ id → Map.find t.copies k = Map.find s.copies k) ∧ ∀ p ∈ t.locks, p.2 ≠ id) ∧
        ((∃ k < c.boxLines, ¬ read k ∧ (s.teamOf c.team).lineAbsent (line k) = true) → exec (.copyComplete id) s = .next s)) ∧
      (∀ cause addr : Nat, cause < 512 → s.copyMeets id cause addr = true → c.kind = .load →
        (s.groupAt c.team c.group).alive = true → (s.groupAt c.team c.group).held = [] →
        let w := if translationCause (BitVec.ofNat 9 cause) then s.looked (s.teamOf c.team).ctx addr else s
        ∃ t h, exec (.copyFault id cause addr) s = .next t ∧ Map.has t.copies id = false ∧ t.mem = w.mem ∧
          (∀ l ∈ c.todo, (t.teamOf c.team).lineAbsent l = false) ∧ (t.teamOf c.team).sp = (s.teamOf c.team).sp ∧
          (t.groupAt c.team c.group).held = [h] ∧ h.cause.toNat = cause ∧ h.info0 = BitVec.ofNat 64 addr)) ∧
    (∀ team, 0 < s.entriesFree team →
      (∀ r rest, (s.teamOf team).entryWait = (r, none) :: rest →
        ∃ t, exec (.copyEntryGrant team) s = .next t ∧ t.mem = s.mem ∧ (t.teamOf team).entryWait = rest ∧
          r ∈ (t.teamOf team).granted ∧ (t.fragAt r).park = none ∧ (t.fragAt r).pc = (s.fragAt r).pc) ∧
      (∀ r w rest, (s.teamOf team).entryWait = (r, some w) :: rest → ((s.teamOf team).window w).state = 2 →
        ∃ t c, exec (.copyEntryGrant team) s = .next t ∧ t.mem = s.mem ∧ (t.teamOf team).entryWait = rest ∧
          Map.find t.copies s.nextCopy = some c ∧ c.kind = .window w ∧ c.desc = ((s.teamOf team).window w).desc ∧
          c.sp = ((s.teamOf team).window w).base)) ∧
    (s.actsAny = true → ∀ f : FmtE,
      let current := s.copies.any (fun c => c.2.team == s.cur.ref.team && c.2.group == s.cur.ref.group &&
        c.2.batch == s.cg.batch && match c.2.kind with | .window _ => false | _ => true)
      let n := (f.imm.extractLsb' 0 5).toNat
      (s.Issues (.cseal f) { writes := [.s f.d.toNat] } →
        (current = false ∨ s.sealedOpen < 16 → ∃ t, exec (.cseal f) s = .next t ∧ GroupOnly s t ∧
          t.cg.ureg f.d.toNat = BitVec.ofNat 64 s.cg.batch ∧ t.cg.batch = (s.cg.batch + 1) % 2 ^ 32 ∧ t.cg.inBatch = 0 ∧
          t.cg.v = s.cg.v ∧ t.cg.p = s.cg.p ∧ (∀ r, r ≠ f.d.toNat → t.cg.ureg r = s.cg.ureg r) ∧
          t.cf = s.cf.goTo (nextPc s.cf.pc)) ∧
        (current = true → 16 ≤ s.sealedOpen → ∃ t, exec (.cseal f) s = .next t ∧ KeepsRegs s t ∧ t.cg.batch = s.cg.batch ∧
          t.cf.park = some (.again (.batch none)) ∧ t.cf.pc = s.cf.pc)) ∧
      (s.Issues (.cwaitb f) {} →
        (s.sealedOpen ≤ n → ∃ t, exec (.cwaitb f) s = .next t ∧ NothingElse s t) ∧
        (n < s.sealedOpen → ∃ t, exec (.cwaitb f) s = .next t ∧ KeepsRegs s t ∧ t.cf.park = some (.again (.batch (some n))) ∧
          t.cf.pc = s.cf.pc)) ∧
      UniformResult s (.cstat f) { writes := [.s f.d.toNat] } f.d
        (BitVec.ofNat 64 (s.cg.batch + 2 ^ 32 * s.entriesFree s.cur.ref.team + 2 ^ 40 * s.sealedOpen + 2 ^ 48 * min 511 s.cg.inBatch)))

/-! ## The producer (R245 to R260) -/

namespace Sys2Proof.Machine.Claims

/-- Word i of a core's stream can be read, and is v (R252, R256): in the scratchpad its line is present and good; in memory its bytes lie
within the record's extent, in coherent local lines through cached leaves, which their homes serve. -/
def StreamWord (s : State) (core : Nat) (x : Stream) (i v : Nat) : Prop :=
  let p := s.prod core
  let t := s.teamOf p.team
  let o := x.off + 4 * i
  v < 2 ^ 32 ∧
  match x.record with
  | none =>
    o + 4 ≤ t.spSize ∧ t.lineAbsent (o / 128) = false ∧ o / 128 ∉ t.badSp ∧
      ∀ j < 4, v / 256 ^ j % 256 = (Map.get 0 t.sp (o + j)).toNat
  | some y =>
    let r := BRec.of y
    let a := r.base + swizzle r.swz o
    o + 4 ≤ r.extent ∧ a + 4 ≤ 2 ^ 57 ∧ (∀ l, Map.find s.cLines l = none) ∧
      ∀ j < 4, ∃ m, s.translate t.ctx p.user .read ((a + j) / 64 * 64) = .ok (.loc m) ∧
        s.cache t.ctx ((a + j) / 64 * 64) = s ∧ s.reach m false = .ok ∧
        v / 256 ^ j % 256 = (s.byteAt (m + (a + j) % 64)).toNat

/-- The first word of a read is not there yet (R256), or lies out of bounds, with its cause and address (R259). -/
def WordAbsent (s : State) (core : Nat) (x : Stream) (i : Nat) : Prop :=
  let t := s.teamOf (s.prod core).team
  let o := x.off + 4 * i
  x.record = none ∧ o + 4 ≤ t.spSize ∧ t.lineAbsent (o / 128) = true
def WordBeyond (s : State) (core : Nat) (x : Stream) (i : Nat) (c : BitVec 9) (addr : Nat) : Prop :=
  let o := x.off + 4 * i
  (x.record = none ∧ (s.teamOf (s.prod core).team).spSize < o + 4 ∧ c = 0x100 ∧ addr = o) ∨
    ∃ y, x.record = some y ∧ (BRec.of y).extent < o + 4 ∧ c = 0x040 ∧ addr = (BRec.of y).base + o

end Sys2Proof.Machine.Claims

/-- R247, R252, R256, R258, R259: the micro-operations of a running program on x0 to x15 (a write of x0 is discarded), its streams,
tables, queues and clasps: each has its effect and the next word follows, one that cannot go on stalls, and one that fails ends the
program with its cause. -/
def Obligations.MicroOperations : Prop :=
  ∀ (s : State),
    let core := s.cur.core
    let p := s.prod core
    let tm := s.teamOf p.team
    Map.has s.producers core = true → p.busy = true →
    let goes := fun (i : Instr) (pc : Nat) (x : Nat → Word) (st0 st1 : Stream) =>
      ∃ t, exec i s = .next t ∧ t.mem = s.mem ∧ t.teams = s.teams ∧
        let q := t.prod core
        q.state = 2 ∧ q.why = 0 ∧ q.pc = pc ∧ q.store = p.store ∧ q.clasp = p.clasp ∧ q.st0 = st0 ∧ q.st1 = st1 ∧ ∀ r, q.reg r = x r
    let put := fun (d : BitVec 4) (v : Word) (r : Nat) => if r = d.toNat ∧ r ≠ 0 then v else p.reg r
    let puts := fun (i : Instr) (d : BitVec 4) (v : Word) => goes i (p.pc + 1) (put d v) p.st0 p.st1
    let stalls := fun (i : Instr) (why : Nat) => ∃ t, exec i s = .next t ∧ t.mem = s.mem ∧
      (t.prod core).state = 3 ∧ (t.prod core).why = why ∧ (t.prod core).pc = p.pc ∧ (t.prod core).x = p.x ∧
      (t.prod core).st0 = p.st0 ∧ (t.prod core).st1 = p.st1
    let fails := fun (i : Instr) (c : BitVec 9) (addr : Nat) => exec i s = .next (s.producerFault core c addr p.pc)
    let moved := fun (st : Bool) (n : Nat) =>
      (if st then p.st0 else { p.st0 with pos := p.st0.pos + n }, if st then { p.st1 with pos := p.st1.pos + n } else p.st1)
    let stream := fun (st : Bool) => if st then p.st1 else p.st0
    let bank := fun (tb : Bool) => if tb then p.tb1 else p.tb0
    (∀ (d : BitVec 4) st (n : BitVec 3),
      let x := stream st
      let cnt := n.toNat + 1
      (x.pos % 32 ≠ 0 → fails (.rd d st n) 0x154 0) ∧
      (x.pos % 32 = 0 →
        (∀ w : Nat → Nat, (∀ i < cnt, StreamWord s core x (x.pos / 32 + i) (w i)) →
          goes (.rd d st n) (p.pc + 1)
            (fun r => if d.toNat ≤ r ∧ r < d.toNat + cnt ∧ r ≠ 0 then BitVec.ofNat 32 (w (r - d.toNat)) else p.reg r)
            (moved st (32 * cnt)).1 (moved st (32 * cnt)).2) ∧
        (WordAbsent s core x (x.pos / 32) → stalls (.rd d st n) 1) ∧
        ∀ c a, WordBeyond s core x (x.pos / 32) c a → fails (.rd d st n) c a)) ∧
    (∀ (d : BitVec 4) st (k : BitVec 5),
      let x := stream st
      let cnt := k.toNat + 1
      (∀ (w : Nat → Nat) (v : Word), (∀ i, x.pos / 32 ≤ i → i ≤ (x.pos + cnt - 1) / 32 → StreamWord s core x i (w i)) →
        (∀ j < 32, v.getLsbD j = (decide (j < cnt) && (w ((x.pos + j) / 32)).testBit ((x.pos + j) % 32))) →
        goes (.unp d st k) (p.pc + 1) (put d v) (moved st cnt).1 (moved st cnt).2) ∧
      (WordAbsent s core x (x.pos / 32) → stalls (.unp d st k) 1) ∧
      ∀ c a, WordBeyond s core x (x.pos / 32) c a → fails (.unp d st k) c a) ∧
    (∀ (d a : BitVec 4) tb,
      let b := bank tb
      (b.landed = true → ∀ e, b.entries[(p.reg a.toNat).toNat % b.size]? = some e → puts (.lut d a tb) d e) ∧
      (b.landed = false → stalls (.lut d a tb) 2 ∧ ∃ t, exec (.lut d a tb) s = .next t ∧
        (t.prod core).tblstall = if p.counted then p.tblstall else min (p.tblstall + 1) (2 ^ 24 - 1))) ∧
    (∀ tb st (e : BitVec 3),
      let x := stream st
      let m := 8 * 2 ^ e.toNat
      ((bank tb).load ≠ none → stalls (.tld tb st e) 5) ∧
      ((bank tb).load = none → x.pos % 32 ≠ 0 → fails (.tld tb st e) 0x154 0) ∧
      ((bank tb).load = none → x.pos % 32 = 0 →
        goes (.tld tb st e) (p.pc + 1) p.reg (moved st (32 * m)).1 (moved st (32 * m)).2 ∧
        ∃ t, exec (.tld tb st e) s = .next t ∧
          (t.prod core).bank tb = ⟨[], m, false, some ⟨st, x.pos, p.pc, false⟩⟩ ∧ (t.prod core).bank (!tb) = bank (!tb))) ∧
    (∀ (d a : BitVec 4) dty sty (pol : BitVec 3) rm, Ty.bits dty ≤ 32 → Ty.bits sty ≤ 32 →
      let x := Ty.value sty ((p.reg a.toNat).toNat % 2 ^ Ty.bits sty)
      let policy := Map.get 0 tm.cvpol pol.toNat
      ((∀ c, ¬ Faults dty rm policy x c) → ∃ y, Delivers dty rm policy x y ∧
        puts (.streamCvt d a dty sty pol rm) d
          (BitVec.ofNat 32 (if Ty.signed dty = true ∧ 2 ^ (Ty.bits dty - 1) ≤ y then 2 ^ 32 - 2 ^ Ty.bits dty + y else y))) ∧
      ∀ c, Faults dty rm policy x c → fails (.streamCvt d a dty sty pol rm) (ConvClass.cause c) 0) ∧
    (∀ (d a b : BitVec 4) rm (sh : BitVec 5) (imm : BitVec 15),
      (∃ r, Muls .f32 rm false (p.reg a.toNat).toNat (p.reg b.toNat).toNat r ∧ puts (.scl d a b rm) d (BitVec.ofNat 32 r)) ∧
      puts (.streamAddShift d a b sh) d (p.reg a.toNat + p.reg b.toNat * BitVec.ofNat 32 (2 ^ sh.toNat)) ∧
      puts (.streamAddImm d a imm) d (BitVec.ofInt 32 ((p.reg a.toNat).toInt + imm.toInt))) ∧
    (∀ (a : BitVec 4) (target : BitVec 8),
      let left := if a = 0 then p.reg 0 else p.reg a.toNat - 1
      goes (.streamLoop a target) (if left = 0 then p.pc + 1 else target.toNat) (put a left) p.st0 p.st1) ∧
    (∀ (par : Bool) (addr : BitVec 16),
      let a := 8 * addr.toNat
      (tm.spSize < a + 16 → fails (.waitc par addr) 0x100 a) ∧
      (a + 16 ≤ tm.spSize → (∀ k < 16, tm.lineAbsent ((a + k) / 128) = false ∧ (a + k) / 128 ∉ tm.badSp) →
        ((tm.clasp a).phase ≠ par → goes (.waitc par addr) (p.pc + 1) p.reg p.st0 p.st1) ∧
        ((tm.clasp a).phase = par → stalls (.waitc par addr) 4)) ∧
      (a + 16 ≤ tm.spSize → (∃ k < 16, tm.lineAbsent ((a + k) / 128) = true) → stalls (.waitc par addr) 4)) ∧
    (∀ (a q : BitVec 4) land,
      let qu := tm.queue q.toNat
      let there := fun (k : Nat) => ∀ b < 4, tm.lineAbsent ((qu.slotAddr k + b) / 128) = false
      decodeStream (Map.get 0 p.store p.pc) = some (.push a land q) → core ∉ s.pushServed → p.queued = false →
      (qu.cfg = false → fails (.push a land q) 0x102 0) ∧
      (qu.cfg = true → qu.closed = true → fails (.push a land q) 0x103 0) ∧
      (qu.cfg = true → qu.closed = false → qu.poppers = [] → qu.first = none →
        (qu.pushers = [] → qu.count < qu.depth → there qu.tail →
          ∃ t, exec (.push a land q) s = .next t ∧ t.mem = s.mem ∧ (t.prod core).pc = p.pc + 1 ∧ (t.prod core).state = 2 ∧
            (t.teamOf p.team).queue q.toNat = { qu with tail := (qu.tail + 1) % 2 ^ 32 } ∧
            (t.teamOf p.team).spRead (qu.slotAddr qu.tail) 4 = (p.reg a.toNat).toNat ∧
            (∀ y, y < qu.slotAddr qu.tail ∨ qu.slotAddr qu.tail + 4 ≤ y →
              Map.get 0 (t.teamOf p.team).sp y = Map.get 0 tm.sp y) ∧
            (t.teamOf p.team).landings = tm.landings ++
              match p.clasp with
              | some c => if land then [⟨c, 4, .producer core p.pc⟩] else []
              | none => []) ∧
        (qu.depth ≤ qu.count → (∀ r ∈ qu.pushers, r.n ≠ 0) → stalls (.push a land q) 3 ∧
          ∃ t, exec (.push a land q) s = .next t ∧ (t.prod core).queued = true ∧ (t.teamOf p.team).queue q.toNat =
            { qu with pushers := qu.pushers ++ [⟨none, core, [p.reg a.toNat], 1, [], 0, 7, true, p.start⟩] }))) ∧
    (∀ mask : BitVec 16, (∃ q < 16, mask.getLsbD q = true ∧ (s.queueStuck p.team q).isSome = true) → stalls (.endp mask) 3) ∧
    (∀ mask : BitVec 16,
      (∀ q < 16, mask.getLsbD q = true →
        (tm.queue q).pushers = [] ∧ (tm.queue q).poppers = [] ∧ (tm.queue q).first = none) →
      ∃ t, exec (.endp mask) s = .next t ∧ t.mem = s.mem ∧ (t.prod core).state = 6 ∧ (t.prod core).pc = p.pc ∧
        ∀ q < 16, (t.teamOf p.team).queue q =
          if mask.getLsbD q = true ∧ (tm.queue q).cfg = true then { tm.queue q with closed := true } else tm.queue q)

/-- R248 to R254, R258, R259: `pdload` takes the core's producer for its team with a program that passes its check, and waits where
another team holds it; `pdstart` begins or goes on with it, `pdstop` halts it and may free the slot, `pdstat` reads it; a table load
lands whole, and one that meets a fault stops the program.
That `pdload` waits for a holder's landing, and what it keeps, are the model's readings (log 30). -/
def Obligations.ProducerIsControlled : Prop :=
  ∀ (s : State), s.actsAny = true →
    let core := s.ct.core
    let p := s.prod core
    let held := Map.has s.producers core
    let mine := held = true ∧ p.team = s.cur.ref.team
    (∀ (f : FmtE) i, (i = .pdload f ∨ i = .pdloadTry f) →
      s.Issues i { reads := [.s f.a.toNat], writes := [.s f.d.toNat] } →
      let n := (f.imm.extractLsb' 8 8).toNat + 1
      let k := (f.imm.extractLsb' 0 5).toNat
      let off := (s.cg.ureg f.a.toNat).toNat
      let bf := { s.ct.record k with oob := false, strict := true, flat := true }
      let ixs := (List.range n).map (fun i => (⟨i, off + 4 * i⟩ : LaneIx))
      (held = true → p.team ≠ s.cur.ref.team →
        (i = .pdload f → ∃ t, exec i s = .next t ∧ KeepsRegs s t ∧ t.cf.park = some (.again .producer) ∧ t.cf.pc = s.cf.pc) ∧
        (i = .pdloadTry f → ∃ t, exec i s = .next t ∧ RegsOnly s t [] [.s f.d.toNat] (nextPc s.cf.pc) ∧
          t.cg.ureg f.d.toNat = 1)) ∧
      (held = false ∨ p.team = s.cur.ref.team → held = false ∨ p.busy = false → off % 4 = 0 → s.cf.sent = [] →
        ∀ r, s.resolveRec bf k 0 ⟨1, 4, .read, true⟩ .plain true ixs = .ok r → Coherent s r →
        let ws := ixs.map (fun i => BitVec.ofNat 32 (valueAt s bf 0 r 4 i))
        (∀ w ∈ ws, microBad n w = false) →
        ∃ t, exec i s = .next t ∧ (∀ a, t.byteAt a = s.byteAt a) ∧ t.cg.ureg f.d.toNat = 0 ∧ t.cf.pc = nextPc s.cf.pc ∧
          t.cg.v = s.cg.v ∧ t.cg.p = s.cg.p ∧ Map.has t.producers core = true ∧
          let q := t.prod core
          q.team = s.cur.ref.team ∧ q.n = n ∧ q.pc = 0 ∧ q.state = 1 ∧
          (∀ j w, ws[j]? = some w → Map.get 0 q.store j = w) ∧
          ∀ c, c ≠ core → t.prod c = s.prod c)) ∧
    (∀ (f : FmtE) i cont, (i = .pdstart f ∧ cont = false ∨ i = .pdstartCont f ∧ cont = true) →
      s.Issues i { reads := [.s f.a.toNat, .s f.b.toNat] } →
      let a := s.cg.ureg f.a.toNat
      let b := s.cg.ureg f.b.toNat
      let c := (f.imm.extractLsb' 0 19).toNat
      let clasp := if f.imm.getLsbD 31 then some c else if cont then p.clasp else none
      (¬ mine → exec i s = .next (s.raise 0x151)) ∧
      (mine → p.busy = true ∨ (cont = true ∧ p.state ≠ 4) → exec i s = .next (s.raise 0x152)) ∧
      (mine → p.busy = false → (cont = true → p.state = 4 ∧ a = 0 ∧ b = 0) →
        (cont = false → streamBad s.ct a = false ∧ streamBad s.ct b = false) →
        (f.imm.getLsbD 31 = true → c % 8 = 0 ∧ c + 16 ≤ s.ct.spSize) → (p.lands = true → clasp ≠ none) →
        ∃ t, exec i s = .next t ∧ t.mem = s.mem ∧ t.cg.v = s.cg.v ∧ t.cg.s = s.cg.s ∧
          t.cg.p = s.cg.p ∧ t.cf = s.cf.goTo (nextPc s.cf.pc) ∧
          let q := t.prod core
          q.state = 2 ∧ q.team = p.team ∧ q.store = p.store ∧ q.clasp = clasp ∧ q.group = s.cur.ref.group ∧ q.user = !s.cg.sys ∧
            (cont = false → q.pc = 0 ∧ q.x = [] ∧ q.st0 = Stream.of s.ct a ∧ q.st1 = Stream.of s.ct b ∧
              q.tb0.landed = false ∧ q.tb1.landed = false) ∧
            (cont = true → q.pc = p.pc ∧ q.x = p.x ∧ q.st0 = p.st0 ∧ q.st1 = p.st1))) ∧
    (∀ i rel, (i = .pdstop ∧ rel = false ∨ i = .pdstopRel ∧ rel = true) → s.Issues i {} →
      (¬ mine → exec i s = .next (s.raise 0x151)) ∧
      (mine → p.queued = false → core ∉ s.pushServed → p.tb0.load = none → p.tb1.load = none →
        ∃ t, exec i s = .next t ∧ t.mem = s.mem ∧ t.cf.pc = nextPc s.cf.pc ∧ t.cg.v = s.cg.v ∧ t.cg.s = s.cg.s ∧
          (rel = true → Map.has t.producers core = false) ∧
          (rel = false → (t.prod core).state = (if p.busy then 4 else p.state) ∧ (t.prod core).pc = p.pc ∧
            (t.prod core).x = p.x ∧ (t.prod core).store = p.store))) ∧
    (∀ f : FmtE, UniformResult s (.pdstat f) { writes := [.s f.d.toNat] } f.d
      (BitVec.ofNat 64
        (if held = false then 0
         else if p.team ≠ s.cur.ref.team then 5
         else p.state + 2 ^ 8 * min p.tblstall (2 ^ 24 - 1) + 2 ^ 36 * p.why + 2 ^ 40 * (p.pc % 256) + 2 ^ 55 * p.cause.toNat))) ∧
    ∀ (core : Nat) (tb : Bool) (l : TableLoad),
      let p := s.prod core
      let b := p.bank tb
      let x := if l.stream then p.st1 else p.st0
      Map.has s.producers core = true → b.load = some l → l.abandoned = false →
      (∀ w : Nat → Nat, (∀ i < b.size, StreamWord s core x (l.start / 32 + i) (w i)) →
        ∃ t, exec (.tableLanded core tb) s = .next t ∧ t.mem = s.mem ∧ t.teams = s.teams ∧
          (t.prod core).bank tb = ⟨(List.range b.size).map (fun i => BitVec.ofNat 32 (w i)), b.size, true, none⟩ ∧
          (t.prod core).bank (!tb) = p.bank (!tb) ∧ (t.prod core).pc = p.pc ∧ (t.prod core).x = p.x) ∧
      (∀ c (a : Nat), WordBeyond s core x (l.start / 32) c a → b.size ≠ 0 →
        (p.bank (!tb)).load = none → p.queued = false → (∀ q ∈ p.pushed, ((s.teamOf p.team).queue q).cfg = false) →
        (s.groupAt p.team p.group).alive = true → (s.groupAt p.team p.group).held = [] →
        ∃ t h, exec (.producerFault core c.toNat a) s = .next t ∧ t.mem = s.mem ∧ (t.prod core).state = 7 ∧
          (t.prod core).cause = c ∧ (t.groupAt p.team p.group).held = [h] ∧ h.cause = c ∧ h.info0 = BitVec.ofNat 64 a)

/-! ## The in-bank executor (R329 to R355) -/

namespace Sys2Proof.Machine.Claims

/-- The executing group's session, which is in no error, and whose queue is empty or begins with steps (R345). -/
structure Owned (s : State) (x : Session) : Prop where
  own : s.session s.cur.ref.team s.cur.ref.group = some x
  good : x.error = none
  head : ∀ op ∈ x.queue.head?, ∃ n c, op = .steps (n + 1) c

/-- Of the package, only sessions change; of the sessions only the executing group's, which becomes `y` if it has nothing to do, and
else has one entry more to do (R345). -/
structure SessionBecomes (s t : State) (x : Session) (op : BankOp) (y : Session) : Prop where
  outside : { t.rest with sessions := [] } = { s.rest with sessions := [] }
  mine : ∃ z, t.session s.cur.ref.team s.cur.ref.group = some z ∧
    { z with since := 0 } = { (if x.queue = [] then y else { x with queue := x.queue ++ [op] }) with since := 0 }
  others : ∀ k g, (k, g) ≠ (s.cur.ref.team, s.cur.ref.group) → t.session k g = s.session k g

/-- A session instruction completes: its entry has its turn. -/
def Turn (s : State) (i : Instr) (u : Uses) (x : Session) (op : BankOp) (y : Session) : Prop :=
  s.Issues i u → ∃ t, exec i s = .next t ∧ GoesOnOnly s t ∧ t.ct.rest = s.ct.rest ∧ SessionBecomes s t x op y

/-- A session steps (R344): its next entry is a step of a word that decodes, and no BGU's copy of the word fails its parity. -/
structure Stepping (s : State) (x : Session) (n : Nat) (addr : CodePtr) (cmd : BguCmd) : Prop where
  own : s.session x.team x.group = some x
  queue : x.queue = [.steps (n + 1) addr]
  word : decodeBgu (Map.get 0 x.store x.pc) = some cmd
  parity : ∀ g < x.bguCount, (g, x.pc) ∉ x.badWords

/-- The machine line of the column that a BGU refers to (R343): its bank has an open in-bank row. -/
def Column (s : State) (x : Session) (g line : Nat) : Prop :=
  ∃ row, Map.find (x.bgu g).opened x.bank = some row ∧ Map.get false s.rowOwner row = true ∧ line = s.columnLine row x.col

/-- A column of the BGU that can be read. -/
def Reads (s : State) (x : Session) (g line : Nat) : Prop := Column s x g line ∧ line ∉ s.badLines

/-- Element e, of w bits, of a column. -/
def columnElem (s : State) (line w e : Nat) : Nat :=
  natOfBytes ((List.range 64).map (fun i => s.byteAt (line + i))) / 2 ^ (w * e) % 2 ^ w

/-- A step without error (R343, R344): the pending steps are one fewer, the pointers and counters are as given, each BGU is as its
claim says, and memory but for the lines written is unchanged. -/
def Stepped (s : State) (x : Session) (n : Nat) (addr : CodePtr) (pc bank col : Nat) (c : Nat → Nat) (bgu : Nat → Bgu → Prop)
    (lines : List Nat) (wrote : State → Prop) : Prop :=
  ∃ t y, exec (.ibStep x.team x.group) s = .next t ∧ t.session x.team x.group = some y ∧
    y.queue = (if n = 0 then [] else [.steps n addr]) ∧ y.pc = pc ∧ y.bank = bank ∧ y.col = col ∧ (∀ k, Map.get 0 y.c k = c k) ∧
    y.store = x.store ∧ y.error = x.error ∧ (∀ g < x.bguCount, bgu g (y.bgu g)) ∧ t.teams = s.teams ∧ wrote t ∧
    ∀ a, a / 64 * 64 ∉ lines → t.byteAt a = s.byteAt a

/-- A BGU in which one accumulator is written, and which is then valid. -/
def WroteAcc (b : Bgu) (j : Nat) (v : Word) (y : Bgu) : Prop :=
  Map.get 0 y.acc j = v ∧ j ∉ y.invalid ∧ (∀ k, k ≠ j → Map.get 0 y.acc k = Map.get 0 b.acc k ∧ (k ∈ y.invalid ↔ k ∈ b.invalid)) ∧
    y.bv = b.bv ∧ y.sc = b.sc ∧ y.opened = b.opened

end Sys2Proof.Machine.Claims

/-- R334 to R337: a fence whose operands pass its checks parks with the rows of its range; at its flip they become in-bank, or
load-store, and the fragment goes on.
R338 to R340, R351: `ibsess` opens a session with every field zero where its pseudo-channels are free, and else parks, or with the
try form says so; parked openers are served in order; `ibend` ends the session, as the end of its group's lanes does. A fence over a
page that has no such rows takes 0x184, and so does one whose pages have come to have none before its flip.
That the `try` form respects earlier openers is the model's reading (logs 31 and 32). -/
def Obligations.RowsAndSessions : Prop :=
  ((∀ (s : State) (f : FmtM) (out : Bool) (o : Int), s.actsAny = true →
      let i : Instr := if out then .ibfenceOut f else .ibfenceIn f
      let u : Uses := { reads := .s f.d.toNat :: (if f.ix == 1 then [.s f.x.toNat] else []) }
      let r := s.ct.record f.bf.toNat
      let len := (s.cg.ureg f.d.toNat).toNat
      let va := r.base + o.toNat
      o = (if f.ix = 1 then ((s.cg.ureg f.x.toNat).toNat : Int) else 0) + f.off.toInt →
      s.Issues i u →
      (r.mode ≠ .raw ∨ 2 ^ 32 ≤ len ∨ len = 0 ∨ (r.base + o) % 1024 ≠ 0 ∨ len % 1024 ≠ 0 → exec i s = .next (s.raise 0x188)) ∧
      (r.mode = .raw → len < 2 ^ 32 → 0 < len → (r.base + o) % 1024 = 0 → len % 1024 = 0 →
        (o < 0 ∨ r.extent < o + len → exec i s = .next (s.raise 0x040 none (BitVec.ofInt 64 o))) ∧
        (0 ≤ o → o + len ≤ r.extent → va + len ≤ 2 ^ 57 →
          ∀ m : Nat → Nat,
          (∀ k < len / 1024, let a := va + 1024 * k
            (s.translate s.ct.ctx (!s.cg.sys) .write (4096 * (a / 4096)) = .ok (.loc (m k)) ∨
              s.translate s.ct.ctx (!s.cg.sys) .write (4096 * (a / 4096)) = .ok (.nc (m k)))) →
          let fits := fun k : Nat =>
            let page := 4096 * ((va + 1024 * k) / 4096)
            s.compressed (m k) = false ∧ (Map.get false s.stripe (m k / 4096) = false → va ≤ page ∧ page + 4096 ≤ va + len)
          ((∃ k < len / 1024, ¬ fits k) → exec i s = .next (s.raise 0x184)) ∧
          ((∀ k < len / 1024, fits k) →
          ∃ t x, exec i s = .next t ∧ { t.rest with bankFences := [] } = { s.rest with bankFences := [] } ∧
            t.bankFences = s.bankFences ++ [x] ∧ x.ref = s.cur.ref ∧ x.out = out ∧ x.act = s.act ∧
            (∀ w, w ∈ x.rows ↔ ∃ k < len / 1024, w = (m k + (va + 1024 * k) % 4096) / 1024) ∧
            t.cf.park = some .bankFence ∧ t.cf.pc = s.cf.pc ∧ t.cg.v = s.cg.v ∧ t.cg.s = s.cg.s ∧ t.cg.p = s.cg.p)))) ∧
    ∀ (s : State) (x : BankFence), s.bankFences.find? (fun y => y.ref == x.ref && y.out == x.out) = some x →
      let whole := ∀ f ∈ x.frames, s.compressed (4096 * f) = false ∧
        (Map.get false s.stripe f = false → ∀ k < 4, 4 * f + k ∈ x.rows)
      (x.out = false → ¬ whole → ∃ t, exec (.ibfenceInFlip x.ref) s = .next t ∧ x ∉ t.bankFences ∧ t.rowOwner = s.rowOwner ∧
        t.mem = s.mem) ∧
      (x.out = false → whole → (∀ l ∈ s.locks, l.1 / 1024 ∉ x.rows) →
        ∃ t, exec (.ibfenceInFlip x.ref) s = .next t ∧
          (∀ w, Map.get false t.rowOwner w = (decide (w ∈ x.rows) || Map.get false s.rowOwner w)) ∧
          x ∉ t.bankFences ∧ (t.fragAt x.ref).park = none ∧ (t.fragAt x.ref).pc = nextPc (s.fragAt x.ref).pc ∧
          ∀ w ∈ x.rows, ∀ l, l / 1024 = w → Map.find t.cLines (l / 64) = none) ∧
      (x.out = true →
        ∃ t, exec (.ibfenceOutFlip x.ref) s = .next t ∧
          (∀ w, Map.get false t.rowOwner w = (!decide (w ∈ x.rows) && Map.get false s.rowOwner w)) ∧ t.mem = s.mem ∧
          x ∉ t.bankFences ∧ (t.fragAt x.ref).park = none ∧ (t.fragAt x.ref).pc = nextPc (s.fragAt x.ref).pc ∧
          (∀ w ∈ x.rows, Map.get false s.rowOwner w = true → Map.get false t.dirty (w / 4) = true ∧
            ∀ y ∈ t.sessions, ∀ g b, Map.find (y.bgu g).opened b ≠ some w) ∧
          ∀ f, (∀ w ∈ x.rows, w / 4 ≠ f) → Map.get false t.dirty f = Map.get false s.dirty f)) ∧
  ((∀ (s : State) (f : FmtE), s.actsAny = true →
      let r := s.cur.ref
      let a := f.a.toNat
      let m : BitVec 256 := s.cg.ureg (a + 3) ++ s.cg.ureg (a + 2) ++ s.cg.ureg (a + 1) ++ s.cg.ureg a
      let die := s.ct.core / 64
      let free := ∀ x ∈ s.sessions, x.die = die → x.mask &&& m = 0
      let waits := ∀ o ∈ s.openers, o.die = die → o.mask &&& m = 0
      let opened := fun (t : State) => t.session r.team r.group =
        some ⟨r.team, r.group, die, m, [], [], 0, [], 0, 0, [], [], s.now, none⟩ ∧ t.openers = s.openers ∧
          ∀ k g, (k, g) ≠ (r.team, r.group) → t.session k g = s.session k g
      let u : Uses := { reads := uregs a 4 }
      let v : Uses := { reads := uregs a 4, writes := [.p f.d.toNat] }
      (m = 0 ∨ (s.session r.team r.group).isSome →
        (s.Issues (.ibsess f) u → exec (.ibsess f) s = .next (s.raise 0x180)) ∧
        (s.Issues (.ibsessTry f) v → exec (.ibsessTry f) s = .next (s.raise 0x180))) ∧
      (m ≠ 0 → s.session r.team r.group = none →
        (free → waits →
          (s.Issues (.ibsess f) u → ∃ t, exec (.ibsess f) s = .next t ∧ GoesOnOnly s t ∧ t.mem = s.mem ∧ opened t) ∧
          (f.d.toNat < 7 → s.Issues (.ibsessTry f) v → ∃ t, exec (.ibsessTry f) s = .next t ∧ t.mem = s.mem ∧ opened t ∧
            t.cf = s.cf.goTo (nextPc s.cf.pc) ∧ ∀ l ∈ s.lanes, (t.cg.pred f.d.toNat).getLsbD l = true)) ∧
        (¬ (free ∧ waits) →
          (s.Issues (.ibsess f) u → ∃ t, exec (.ibsess f) s = .next t ∧ t.sessions = s.sessions ∧
            t.openers = s.openers ++ [⟨r, die, m⟩] ∧ t.cf.park = some .opener ∧ t.cf.pc = s.cf.pc ∧ t.mem = s.mem) ∧
          (f.d.toNat < 7 → PredResult s (.ibsessTry f) v f.d (fun _ => false))))) ∧
    (∀ (s : State) (o : Opener) (l r : List Opener), s.openers = l ++ o :: r →
      (∀ x ∈ s.sessions, x.die = o.die → x.mask &&& o.mask = 0) →
      (∀ p ∈ l, p.die = o.die → p.mask &&& o.mask = 0 ∧ ∃ x ∈ s.sessions, x.die = p.die ∧ x.mask &&& p.mask ≠ 0) →
      s.session o.ref.team o.ref.group = none →
      ∃ t x, exec (.sessionGrant o.die) s = .next t ∧ t.session o.ref.team o.ref.group = some x ∧ x.mask = o.mask ∧ x.die = o.die ∧
        x.bgus = [] ∧ x.store = [] ∧ x.pc = 0 ∧ x.queue = [] ∧ t.openers = s.openers.filter (· != o) ∧
        (t.fragAt o.ref).park = none ∧ (t.fragAt o.ref).pc = nextPc (s.fragAt o.ref).pc ∧ t.mem = s.mem) ∧
    (∀ (s : State), s.actsAny = true → s.Issues .ibend {} →
      (s.session s.cur.ref.team s.cur.ref.group = none → exec .ibend s = .next (s.raise 0x180)) ∧
      ∀ x, s.session s.cur.ref.team s.cur.ref.group = some x →
        (x.queue = [] → ∃ t, exec .ibend s = .next t ∧ GoesOnOnly s t ∧ t.mem = s.mem ∧ t.rowOwner = s.rowOwner ∧
          t.session s.cur.ref.team s.cur.ref.group = none ∧
          ∀ k g, (k, g) ≠ (s.cur.ref.team, s.cur.ref.group) → t.session k g = s.session k g) ∧
        (∀ n c, x.queue = [.steps (n + 1) c] → ∃ t, exec .ibend s = .next t ∧ t.cf.park = some .bankTurn ∧ t.cf.pc = s.cf.pc ∧
          (t.session s.cur.ref.team s.cur.ref.group).map (·.queue) = some (x.queue ++ [.fin s.cur.ref]) ∧ t.mem = s.mem)) ∧
    ∀ (s : State) (team group : Nat) x, s.session team group = some x →
      (Map.has s.teams team = true → (s.groupAt team group).alive = false → x.queue = [] →
        ∃ t, exec (.sessionEnd team group) s = .next t ∧ t.session team group = none ∧ t.mem = s.mem ∧ t.rowOwner = s.rowOwner ∧
          t.teams = s.teams ∧ ∀ k g, (k, g) ≠ (team, group) → t.session k g = s.session k g) ∧
      ((s.groupAt team group).alive = true ∨ x.queue ≠ [] → exec (.sessionEnd team group) s = .next s))

/-- R345 to R351, R354: what the session instructions do to the session of their group in its turn. -/
def Obligations.SessionInstructions : Prop :=
  ∀ (s : State) (f : FmtE), s.actsAny = true →
    let g := s.cg
    let a := g.ureg f.a.toNat
    let bank := fun (i : Instr) (u : Uses) =>
      s.Issues i u →
      (s.session s.cur.ref.team s.cur.ref.group = none → exec i s = .next (s.raise 0x180)) ∧
      (∀ x c, s.session s.cur.ref.team s.cur.ref.group = some x → x.error = some c → exec i s = .next (s.raise 0x18A))
    bank (.ibprog f) { reads := [.s f.a.toNat] } ∧ bank (.ibvec f) { reads := [.v f.a.toNat] } ∧
    bank (.ibscale f) { reads := [.v f.a.toNat, .s f.b.toNat] } ∧ bank (.ibscaleU f) { reads := [.s f.a.toNat] } ∧
    bank (.ibstep f) {} ∧ bank (.ibstepReg f) { reads := [.s f.a.toNat] } ∧
    (∀ x, Owned s x →
      (let n := (f.imm.extractLsb' 8 6).toNat + 1
       let k := (f.imm.extractLsb' 0 5).toNat
       let bf := { s.ct.record k with oob := false, strict := true, flat := true }
       let ixs := (List.range n).map (fun i => (⟨i, a.toNat + 4 * i⟩ : LaneIx))
       a.toNat % 4 = 0 → s.cf.sent = [] →
       ∀ r, s.resolveRec bf k 0 ⟨1, 4, .read, true⟩ .plain true ixs = .ok r → Coherent s r →
       let ws := ixs.map (fun i => BitVec.ofNat 32 (valueAt s bf 0 r 4 i))
       s.Issues (.ibprog f) { reads := [.s f.a.toNat] } →
       (∀ w ∈ ws, bankWordBad n w = false) →
       ∃ t z, exec (.ibprog f) s = .next t ∧ GoesOnOnly s t ∧ (∀ a, t.byteAt a = s.byteAt a) ∧
         t.session s.cur.ref.team s.cur.ref.group = some z ∧
         (x.queue ≠ [] → z.queue = x.queue ++ [.prog ws] ∧ z.store = x.store ∧ z.pc = x.pc) ∧
         (x.queue = [] → z.queue = [] ∧ z.pc = 0 ∧ z.bgus = x.bgus ∧ z.c = x.c ∧
           ∀ i, Map.get 0 z.store i = if i < n then ws.getD i 0 else Map.get 0 x.store i)) ∧
      (let k := (f.imm.extractLsb' 0 3).toNat
       let u : Uses := { reads := [.v f.a.toNat] }
       (8 < k + (s.ct.width + 15) / 16 → s.Issues (.ibvec f) u → exec (.ibvec f) s = .next (s.raise 0x180)) ∧
       (k + (s.ct.width + 15) / 16 ≤ 8 → ∃ y, Turn s (.ibvec f) u x (.vec (s.lanes.map (fun l => (16 * k + l, g.vreg f.a.toNat l)))) y ∧
         { y with bgus := [] } = { x with bgus := [] } ∧
         ∀ h < x.bguCount, { y.bgu h with bv := [] } = { x.bgu h with bv := [] } ∧ ∀ r < 8, ∀ j < 16,
           (Map.get 0 (y.bgu h).bv r).extractLsb' (32 * j) 32 =
             if 16 * k ≤ 16 * r + j ∧ 16 * r + j - 16 * k ∈ s.lanes then g.vreg f.a.toNat (16 * r + j - 16 * k)
             else (Map.get 0 (x.bgu h).bv r).extractLsb' (32 * j) 32)) ∧
      (let k := (f.imm.extractLsb' 0 2).toNat
       let b := (g.ureg f.b.toNat).toNat
       let u : Uses := { reads := [.v f.a.toNat, .s f.b.toNat] }
       let scaled := fun (y : Session) (v : Nat → Option Word) =>
         { y with bgus := [] } = { x with bgus := [] } ∧
           ∀ h < x.bguCount, { y.bgu h with sc := [] } = { x.bgu h with sc := [] } ∧
             ∀ r, Map.get 0 (y.bgu h).sc r = if r = k then (v h).getD (Map.get 0 (x.bgu h).sc r) else Map.get 0 (x.bgu h).sc r
       (2 ^ 16 ≤ b ∨ (∃ l ∈ s.lanes, x.bguCount ≤ b + l) → s.Issues (.ibscale f) u →
         exec (.ibscale f) s = .next (s.raise 0x180)) ∧
       (b < 2 ^ 16 → (∀ l ∈ s.lanes, b + l < x.bguCount) → ∃ y,
         Turn s (.ibscale f) u x (.scale k (s.lanes.map (fun l => (some (b + l), g.vreg f.a.toNat l)))) y ∧
         scaled y (fun h => if b ≤ h ∧ h - b ∈ s.lanes then some (g.vreg f.a.toNat (h - b)) else none)) ∧
       (2 ^ 32 ≤ a.toNat → s.Issues (.ibscaleU f) { reads := [.s f.a.toNat] } → exec (.ibscaleU f) s = .next (s.raise 0x180)) ∧
       (a.toNat < 2 ^ 32 → ∃ y,
         Turn s (.ibscaleU f) { reads := [.s f.a.toNat] } x (.scale k [(none, a.setWidth 32)]) y ∧
         scaled y (fun _ => some (a.setWidth 32)))) ∧
      (∀ i u n, (i = .ibstep f ∧ u = {} ∧ n = f.imm.toNat) ∨
          (i = .ibstepReg f ∧ u = { reads := [.s f.a.toNat] } ∧ n = a.toNat ∧ a.toNat < 2 ^ 32) →
        (2 ^ 40 ≤ x.pending + n → s.Issues i u → exec i s = .next (s.raise 0x180)) ∧
        (x.pending + n < 2 ^ 40 → n = 0 → s.Issues i u → ∃ t, exec i s = .next t ∧ Completed s t []) ∧
        (x.pending + n < 2 ^ 40 → n ≠ 0 → Turn s i u x (.steps n s.cf.pc) { x with queue := [.steps n s.cf.pc] } ∧
          (s.Issues i u → s.GoesOn → ∃ t, exec i s = .next t ∧ t.cg.inflight = s.cg.inflight ∧ t.cg.k = s.cg.k))) ∧
      (2 ^ 32 ≤ a.toNat → s.Issues (.ibstepReg f) { reads := [.s f.a.toNat] } →
        exec (.ibstepReg f) s = .next (s.raise 0x180))) ∧
    (∀ x, s.session s.cur.ref.team s.cur.ref.group = some x →
      let w := s.ct.width
      let u : Uses := { reads := [.s f.a.toNat], writes := vregs f.d.toNat (64 / w) }
      let b := x.bgu a.toNat
      let fails := fun l => ∃ r < 64 / w, r * w + l ∈ b.invalid ∨ r * w + l ∈ b.bad
      s.Issues (.ibread f) u →
      (2 ^ 16 ≤ a.toNat ∨ x.bguCount ≤ a.toNat → exec (.ibread f) s = .next (s.raise 0x180)) ∧
      (a.toNat < 2 ^ 16 → a.toNat < x.bguCount →
        (x.queue = [] → (∀ l ∈ s.lanes, ¬ fails l) →
          ∃ t, exec (.ibread f) s = .next t ∧ RegsOnly s t s.lanes (vregs f.d.toNat (64 / w)) (nextPc s.cf.pc) ∧
            ∀ l ∈ s.lanes, ∀ r < 64 / w, t.cg.vreg (f.d.toNat + r) l = Map.get 0 b.acc (r * w + l)) ∧
        (x.queue = [] → (∃ l ∈ s.lanes, fails l) → ∃ m : Mask,
          (∀ l < 64, m.getLsbD l = true ↔ l ∈ s.lanes ∧ fails l) ∧ exec (.ibread f) s = .next (s.raise 0x187 (some m) a)) ∧
        (∀ n c, x.queue = [.steps (n + 1) c] → ∃ t, exec (.ibread f) s = .next t ∧ t.cg.v = s.cg.v ∧ t.cg.s = s.cg.s ∧ t.cg.p = s.cg.p ∧ t.mem = s.mem ∧
          t.cf.park = some .bankTurn ∧ t.cf.pc = s.cf.pc ∧
          (t.session s.cur.ref.team s.cur.ref.group).map (·.queue) =
            some (x.queue ++ [.read s.cur.ref f.d.toNat a.toNat s.act])))) ∧
    UniformResult s (.ibstat f) { writes := [.s f.d.toNat] } f.d
      (BitVec.ofNat 64
        (match s.session s.cur.ref.team s.cur.ref.group with
        | none => 0
        | some x =>
          (if x.error ≠ none then 4 else if 0 < x.pending then 2
            else if decodeBgu (Map.get 0 x.store x.pc) = some .halt then 3 else 1)
          + 2 ^ 9 * x.pc + 2 ^ 15 * (match x.error with | some c => c.toNat | none => 0) + 2 ^ 24 * x.pending))

/-- R343, R344: what a step of each command does in every BGU, to the pointers and counters, and to memory. -/
def Obligations.CommandsStep : Prop :=
  ∀ (s : State) (x : Session) n addr,
    let pc := (x.pc + 1) % 64
    let c := fun k => Map.get 0 x.c k
    let same := fun (g : Nat) (y : Bgu) => y = x.bgu g
    let col := fun (inc : Bool) => if inc then (if x.col = 15 then 0 else x.col + 1) else x.col
    let bank := fun (inc : Bool) => if inc ∧ x.col = 15 then (x.bank + 1) % 4 else x.bank
    let jj := fun (cj : Bool) (k : BitVec 2) (j : BitVec 6) => if cj then (j.toNat + c k.toNat) % 64 else j.toNat
    let f32 := fun (l : List FVal) => BitVec.ofNat 32 (FFmt.f32.encode (FFmt.f32.roundV .rne (exactSum false l)))
    let bf := fun (v : BitVec 512) (e : Nat) => Ty.value .bf16 (v.toNat / 2 ^ (16 * e) % 2 ^ 16)
    (∀ cmd, Stepping s x n addr cmd → (cmd = .nop ∨ cmd = .halt) →
      Stepped s x n addr (if cmd = .halt then x.pc else pc) x.bank x.col c same [] (fun _ => True)) ∧
    (∀ v, Stepping s x n addr (.col v) → Stepped s x n addr pc x.bank v.toNat c same [] (fun _ => True)) ∧
    (∀ k v, Stepping s x n addr (.setc k v) →
      Stepped s x n addr pc x.bank x.col (fun i => if i = k.toNat then v.toNat else c i) same [] (fun _ => True)) ∧
    (∀ k v, Stepping s x n addr (.incr k v) →
      Stepped s x n addr pc x.bank x.col (fun i => if i = k.toNat then (c k.toNat + v.toNat) % 65536 else c i) same []
        (fun _ => True)) ∧
    (∀ k v, Stepping s x n addr (.loop k v) →
      let d := (c k.toNat + 65535) % 65536
      Stepped s x n addr (if d = 0 then pc else v.toNat) x.bank x.col (fun i => if i = k.toNat then d else c i) same []
        (fun _ => True)) ∧
    (Stepping s x n addr .nextb → Stepped s x n addr pc ((x.bank + 1) % 4) 0 c same [] (fun _ => True)) ∧
    (∀ all b cx k row, Stepping s x n addr (.openRow all b cx k row) →
      let r := if cx then (row.toNat + c k.toNat) % 65536 else row.toNat
      let at_ := fun g i => rowAddr x.die (x.pcOf g) (g % 4) i r / 1024
      (∀ g < x.bguCount, ∀ i < 4, all = true ∨ i = b.toNat → Map.get false s.rowOwner (at_ g i) = true) →
      Stepped s x n addr pc (if all then 0 else b.toNat) 0 c
        (fun g y => { y with opened := [] } = { x.bgu g with opened := [] } ∧ ∀ i < 4,
          Map.find y.opened i = if all = true ∨ i = b.toNat then some (at_ g i) else Map.find (x.bgu g).opened i) []
        (fun _ => True)) ∧
    (∀ m, Stepping s x n addr (.zacc m) →
      Stepped s x n addr pc x.bank x.col c
        (fun g y => y.bv = (x.bgu g).bv ∧ y.sc = (x.bgu g).sc ∧ y.opened = (x.bgu g).opened ∧ ∀ j < 64,
          Map.get 0 y.acc j = (if m.getLsbD (j / 16) then 0 else Map.get 0 (x.bgu g).acc j) ∧
          (j ∈ y.invalid ↔ m.getLsbD (j / 16) = false ∧ j ∈ (x.bgu g).invalid)) [] (fun _ => True)) ∧
    (∀ line : Nat → Nat, (∀ g < x.bguCount, Reads s x g (line g)) →
      (∀ inc cj k j b, Stepping s x n addr (.mac inc cj k j b) →
        (∀ g < x.bguCount, jj cj k j ∉ (x.bgu g).bad) →
        Stepped s x n addr pc (bank inc) (col inc) c
          (fun g y => WroteAcc (x.bgu g) (jj cj k j)
            (f32 (Ty.value .f32 (Map.get 0 (x.bgu g).acc (jj cj k j)).toNat :: (List.range 32).map (fun e =>
              (Ty.value .bf16 (columnElem s (line g) 16 e)).mul (bf (Map.get 0 (x.bgu g).bv b.toNat) e)))) y) [] (fun _ => True)) ∧
      (∀ inc cj k j sc q, Stepping s x n addr (.macx inc cj k j sc q) →
        (∀ g < x.bguCount, jj cj k j ∉ (x.bgu g).bad) →
        Stepped s x n addr pc (bank inc) (col inc) c
          (fun g y => WroteAcc (x.bgu g) (jj cj k j)
            (f32 (Ty.value .f32 (Map.get 0 (x.bgu g).acc (jj cj k j)).toNat :: (List.range 128).map (fun e =>
              ((Ty.value .e2m1 (columnElem s (line g) 4 e)).mul
                (e8m0 ((Map.get 0 (x.bgu g).sc sc.toNat).toNat / 2 ^ (8 * (e / 32)) % 256))).mul
                (bf (Map.get 0 (x.bgu g).bv ((if q then 4 else 0) + e / 32)) (e % 32))))) y) [] (fun _ => True)) ∧
      (∀ inc b, Stepping s x n addr (.ldbv inc b) →
        Stepped s x n addr pc (bank inc) (col inc) c
          (fun g y => { y with bv := [] } = { x.bgu g with bv := [] } ∧ ∀ r,
            Map.get 0 y.bv r = if r = b.toNat then BitVec.ofNat 512 (columnElem s (line g) 512 0) else Map.get 0 (x.bgu g).bv r)
          [] (fun _ => True))) ∧
    (∀ (line : Nat → Nat) inc half hi q, (∀ g < x.bguCount, Column s x g (line g)) →
      (∀ g < x.bguCount, ∀ h < x.bguCount, g ≠ h → line g ≠ line h) → (∀ g < x.bguCount, line g % 64 = 0) →
      Stepping s x n addr (.stacc inc half hi q) → (∀ g < x.bguCount, ∀ e < 16, 16 * q.toNat + e ∉ (x.bgu g).bad) →
      Stepped s x n addr pc (bank inc) (col inc) c same ((List.range x.bguCount).map line) (fun t =>
        ∀ g < x.bguCount, ∀ e < 16,
          let v := Map.get 0 (x.bgu g).acc (16 * q.toNat + e)
          (half = false → columnElem t (line g) 32 e = v.toNat) ∧
          (half = true →
            columnElem t (line g) 16 ((if hi then 16 else 0) + e) =
              (Ty.ffmt .bf16).encode ((Ty.ffmt .bf16).roundV .rne (Ty.value .f32 v.toNat)) ∧
            columnElem t (line g) 16 ((if hi then 0 else 16) + e) = columnElem s (line g) 16 ((if hi then 0 else 16) + e))))

/-- R352, R353, R355: a command that meets an error in one BGU has no effect in that channel and its effect elsewhere; its session
stays on the word, in error, with the later steps discarded and the channel's accumulators invalid; the group will take the cause; a
watchdog that expires is such an error.
The conversion of nanoseconds to cycles, and which of several failing units decides, are the model's choices (logs 11 and 31). -/
def Obligations.SessionErrors : Prop :=
  ∀ (s : State) (x : Session) n addr,
    let own := (s.groupAt x.team x.group).alive = true ∧ (s.groupAt x.team x.group).held = [] ∧ Map.has s.teams x.team = true
    let fails := fun (i : Instr) (code : BitVec 9) (g : Nat) => ∃ t y h, exec i s = .next t ∧
      t.session x.team x.group = some y ∧ y.error = some code ∧ y.pc = x.pc ∧ y.queue = [] ∧ y.store = x.store ∧
      (∀ k < x.bguCount, x.pcOf k / 2 = x.pcOf g / 2 → (∀ j < 64, j ∈ (y.bgu k).invalid) ∧ (y.bgu k).acc = (x.bgu k).acc ∧
        (y.bgu k).bv = (x.bgu k).bv ∧ (y.bgu k).opened = (x.bgu k).opened) ∧
      t.rowOwner = s.rowOwner ∧ (t.groupAt x.team x.group).held = [h] ∧ h.cause = code ∧ h.addr = addr ∧
      h.info0 = BitVec.ofNat 64 x.pc ∧ h.info2 = BitVec.ofNat 64 (x.pcOf g + 256 * (g % 4)) ∧
      h.info3 = BitVec.ofNat 64 (2 ^ 61)
    x.queue = [.steps (n + 1) addr] → s.session x.team x.group = some x → own →
    (∀ g < x.bguCount, (g, x.pc) ∈ x.badWords → (∀ k < x.bguCount, k < g → (k, x.pc) ∉ x.badWords) →
      (decodeBgu (Map.get 0 x.store x.pc) = some .nop → fails (.ibStep x.team x.group) 0x182 g)) ∧
    (∀ g, Stepping s x n addr (.ldbv false 0) → g < x.bguCount →
      (∀ k < x.bguCount, k ≠ g → ∃ l, Reads s x k l) →
      (((∀ l, ¬ Column s x g l) → fails (.ibStep x.team x.group) 0x185 g) ∧
        (∀ l, Column s x g l → l ∈ s.badLines → fails (.ibStep x.team x.group) 0x189 g))) ∧
    (let ns := field (s.preg 0x820) 31 0
     (∀ g < x.bguCount, (∀ k < g, x.pcOf k / 2 ≠ x.pcOf g / 2) → ns ≠ 0 → 33 * ns ≤ 10 * (s.now - x.since) →
       Stepping s x n addr .nop →
       (∃ i, x.mask.getLsbD i = true ∧ i < 256 ∧ i / 2 = x.pcOf g / 2) →
       fails (.ibWatchdogExpiry x.team x.group (x.pcOf g / 2)) 0x181 g ∧
       ∃ t, exec (.ibWatchdogExpiry x.team x.group (x.pcOf g / 2)) s = .next t ∧
         field (t.preg 0x821) 63 48 = (field (s.preg 0x821) 63 48 + 1) % 2 ^ 16) ∧
     ∀ channel, ns = 0 ∨ 10 * (s.now - x.since) < 33 * ns → exec (.ibWatchdogExpiry x.team x.group channel) s = .next s)

/-! ## The fabric (R357 to R381) -/

namespace Sys2Proof.Machine.Claims

/-- A message with the current tag is applied (R364). -/
def Current (s : State) (tag : Tag) : Prop := s.view.isSome = true ∧ tag = s.tag

/-- A package's share of the reduced rows: from and below (R377). -/
def shareOf (rows members rank : Nat) : Nat × Nat :=
  let q := (rows + members - 1) / members
  (min rows (rank * q), min rows ((rank + 1) * q))

/-- Live members, and the members below one (R374). -/
def liveCount (m : BitVec 288) : Nat := ((List.range 288).filter (fun i => m.getLsbD i)).length

def rankIn (m : BitVec 288) (p : Nat) : Nat := ((List.range 288).filter (fun i => m.getLsbD i && decide (i < p))).length

/-- The data bytes of a result at member p (R377). -/
def resultSize (kind : CollKind) (members : BitVec 288) (p rows bytes : Nat) : Nat :=
  match kind with
  | .allred | .bcast => bytes
  | .redscat => let h := shareOf rows (liveCount members) (rankIn members p); (h.2 - h.1) * (bytes / rows)
  | .allgath => liveCount members * bytes
  | .barrier => 0

/-- What a collective delivered at this member: data, then the trailer of R377. -/
structure Delivered (t : Team) (sp trailer : Nat) (data : List Byte) (mask : BitVec 288) (status : Nat) (tag : Tag) : Prop where
  data : ∀ j, j < data.length → Map.get 0 t.sp (sp + j) = data.getD j 0
  members : t.spRead (sp + trailer) 36 = mask.toNat
  count : t.spRead (sp + trailer + 36) 2 = liveCount mask
  status : t.spRead (sp + trailer + 38) 2 = status
  tag : t.spRead (sp + trailer + 40) 6 = tag.toNat
  zero : t.spRead (sp + trailer + 46) 18 = 0

end Sys2Proof.Machine.Claims

/-- R374, R376, R377: a collective whose checks pass issues: its snapshot and issue view are fixed, its range becomes absent, and the
fragment goes on; its checks come in order, and without a copy-queue entry it parks.
The order of its checks where the manual gives none is the model's reading (log 27). -/
def Obligations.CollectivesIssue : Prop :=
  ∀ (s : State) (f : FmtE) (kind : CollKind), s.actsAny = true →
    let i : Instr := match kind with
      | .allred => .collAllred f | .redscat => .collRedscat f | .allgath => .collAllgath f | .bcast => .collBcast f
      | .barrier => .collBarrier f
    let a := s.cg.ureg f.a.toNat
    let b := s.cg.ureg f.b.toNat
    let tile := s.ct.tile f.bt
    let rop := (f.imm.extractLsb' 0 2).toNat
    let root := (f.imm.extractLsb' 4 9).toNat
    s.Issues i { reads := [.s f.a.toNat, .s f.b.toNat] } →
    (s.excluded = true → exec i s = .next (s.refuse (.trap 0x1C2 none 0 0 0))) ∧
    (s.viewStop = none →
      (s.ct.copyq = 0 → exec i s = .next (s.refuse (.trap 0x144 none 0 0 0))) ∧
      (s.ct.copyq ≠ 0 → kind ≠ .barrier → tile.en = false → exec i s = .next (s.refuse (.trap 0x012 none 0 0 0))) ∧
      (s.ct.copyq ≠ 0 → kind = .barrier ∨ tile.en = true → field (s.preg 0x832) 4 0 = 0 ∨ 64 ≤ a.toNat →
        exec i s = .next (s.refuse (.trap 0x1C3 none 0 0 0))) ∧
      (∀ m : Nat,
        let entry := 4096 * field (s.cc.sreg 0x440) 56 12 + 64 * a.toNat
        let e := Map.bytes s.mem m 64
        let w := ((s.cache s.ct.ctx entry).readLine m).2
        s.cf.sent = [] → (∀ l, Map.find s.cLines l = none) → (∀ x ∈ s.early, x.1 ≠ s.nextColl) →
        s.translate s.ct.ctx (!s.cg.sys) .read entry = .ok (.loc m) ∨ s.translate s.ct.ctx (!s.cg.sys) .read entry = .ok (.nc m) →
        s.reach m false = .ok → s.ct.copyq ≠ 0 → kind = .barrier ∨ tile.en = true → field (s.preg 0x832) 4 0 ≠ 0 → a.toNat < 64 →
        let live := BitVec.ofNat 288 (natOfBytes (e.take 36)) &&& s.members
        let bytes := if kind = .barrier then [] else Map.bytes s.ct.tiles (4096 * tile.base) tile.bytes
        let size := resultSize kind live s.selfPkg tile.rows bytes.length
        let sp := (b.extractLsb' 0 32).toNat
        let clasp := (b.extractLsb' 32 31).toNat
        let trailer := (size + 63) / 64 * 64
        let good := natOfBytes ((e.drop 36).take 4) % 2 = 1 ∧ live.getLsbD s.selfPkg = true ∧
          (kind = .allred ∨ kind = .redscat → tile.ty = .f32 ∨ tile.ty = .bf16 ∨ tile.ty = .i32) ∧
          (kind = .allgath ∨ kind = .bcast ∨ kind = .barrier → rop = 0) ∧ (kind ≠ .bcast → root = 0) ∧
          (kind = .bcast → live.getLsbD root = true) ∧ (kind = .barrier → f.bt = 0) ∧ b.getLsbD 63 = false ∧
          2 * liveCount live * bytes.length ≤ natOfBytes ((e.drop 48).take 8)
        (¬ good → exec i s = .next (w.refuse (.trap 0x1C3 none 0 0 0))) ∧
        (good →
          (sp % 128 ≠ 0 → exec i s = .next (w.refuse (.trap 0x101 none (BitVec.ofNat 64 sp) 0 0))) ∧
          (sp % 128 = 0 → clasp % 8 = 0 → s.ct.spSize < sp + trailer + 64 →
            exec i s = .next (w.refuse (.trap 0x100 none (BitVec.ofNat 64 sp) 0 0))) ∧
          (sp % 128 = 0 → clasp % 8 = 0 → sp + trailer + 64 ≤ s.ct.spSize → clasp + 16 ≤ s.ct.spSize →
            UnitsFree s ⟨if kind = .barrier then [] else tile.units, []⟩ →
            (EntryFree s → ∃ t c, exec i s = .next t ∧ t.mem = s.mem ∧ Map.find t.colls s.nextColl = some c ∧
              t.nextColl = s.nextColl + 1 ∧
              (kind ≠ .barrier → ∀ k, k ≠ s.nextColl → Map.find t.colls k = Map.find s.colls k) ∧
              c.kind = kind ∧ c.rop = rop ∧ c.policy = f.sub.toNat ∧ c.root = root ∧ c.team = s.cur.ref.team ∧
              c.group = s.cur.ref.group ∧ c.tag = s.tag ∧ c.members = live ∧ c.live = live ∧ c.bytes = bytes ∧
              c.sp = sp ∧ c.clasp = clasp ∧ c.failed = false ∧ c.restarted = false ∧ c.result = none ∧
              (kind ≠ .barrier → c.ty = tile.ty ∧ c.rows = tile.rows) ∧
              (∀ l, t.ct.lineAbsent l = (decide (sp / 128 ≤ l ∧ l < (sp + trailer + 64 + 127) / 128) || s.ct.lineAbsent l)) ∧
              t.cg.v = s.cg.v ∧ t.cg.s = s.cg.s ∧ t.cg.p = s.cg.p ∧ t.ct.sp = s.ct.sp ∧ t.cf = s.cf.goTo (nextPc s.cf.pc)) ∧
            (s.entriesFree s.cur.ref.team = 0 → s.ct.granted = [] → ∃ t, exec i s = .next t ∧ t.colls = s.colls ∧
              t.cf.park = some (.again .entry) ∧ t.cf.pc = s.cf.pc ∧ t.ct.absent = s.ct.absent)))))

/-- R375, R377, R378, R431: contributions are gathered where the round reduces; a collective completes once every live member has
contributed (a barrier once every one has arrived), with the reduced data of the
members in its mask, its trailer, and one landing for its clasp; under `.reweight` the straggler timeout leaves the late ones out,
and a late contribution is discarded and counted; one that comes before its collective is issued here waits (log 27). Data that write
all of a scratchpad line end its failure (R198). That the lowest live member reduces is the model's reading of what R375 leaves open
(DEDUCED from R431, log 26), and that 3300 cycles are a microsecond is DEDUCED too (log 11). That a member at which a collective failed
tells the others is the model's choice (log 27). -/
def Obligations.CollectivesComplete : Prop :=
  (∀ (s : State) (id : Nat) (c : Coll), Map.find s.colls id = some c → (s.teamOf c.team).status = .resident →
    let me := s.selfPkg
    let low := ((List.range 288).find? (fun i => c.live.getLsbD i)).getD 0
    let size := resultSize c.kind c.members me c.rows c.bytes.length
    let trailer := (size + 63) / 64 * 64
    let status := if c.restarted then 1 else 0
    let done := fun (data : List Byte) (mask : BitVec 288) (status : Nat) (tag : Tag) =>
      ∃ t, exec (.collectiveComplete id) s = .next t ∧ t.mem = s.mem ∧ Map.find t.colls id = none ∧
        (∀ k, k ≠ id → Map.find t.colls k = Map.find s.colls k) ∧
        Delivered (t.teamOf c.team) c.sp trailer data mask status tag ∧
        (∀ b, c.sp ≤ 128 * b → 128 * b + 128 ≤ c.sp + data.length → b ∉ (t.teamOf c.team).badSp) ∧
        (t.teamOf c.team).landings = (s.teamOf c.team).landings ++ [⟨c.clasp, size + 64, .group c.team c.group c.addr⟩] ∧
        (∀ l, c.sp / 128 ≤ l → l < (c.sp + trailer + 64 + 127) / 128 → (t.teamOf c.team).lineAbsent l = false) ∧
        ∀ a, a < c.sp ∨ c.sp + trailer + 64 ≤ a → Map.get 0 (t.teamOf c.team).sp a = Map.get 0 (s.teamOf c.team).sp a
    ((c.failed = true → done [] 0 2 s.tag) ∧
      (c.failed = false →
        (∀ r, c.result = some r → r.data.length = size → done r.data r.mask r.status r.tag) ∧
        (c.result = none →
          (c.kind = .barrier → c.live &&& ~~~c.arrived = 0 → done [] (c.arrived &&& c.live) status s.tag) ∧
          ((∀ p < 288, c.live.getLsbD p = true → Map.has c.got p = true) → (∀ p, Map.has c.got p = true → c.live.getLsbD p = true) →
            (∀ p x, Map.find c.got p = some x → x.length = c.bytes.length) →
            (c.kind = .bcast → done ((Map.find c.got c.root).getD (List.replicate c.bytes.length 0)) c.live status s.tag) ∧
            (c.kind = .allgath → done ((membersOf c.members).flatMap
              (fun p => (Map.find c.got p).getD (List.replicate c.bytes.length 0))) c.live status s.tag) ∧
            (me = low → c.bytes.length % (c.ty.bits / 8) = 0 →
              (c.kind = .allred → done c.reduced c.live status s.tag) ∧
              (c.kind = .redscat → c.rows ≠ 0 → c.bytes.length % c.rows = 0 →
                let h := shareOf c.rows (liveCount c.members) (rankIn c.members me)
                let row := c.bytes.length / c.rows
                done ((c.reduced.drop (h.1 * row)).take ((h.2 - h.1) * row)) c.live status s.tag)))))) ∧
    (c.failed = false → c.result = none →
      (c.kind ≠ .barrier ∧ ∃ p < 288, c.live.getLsbD p = true ∧ Map.has c.got p = false) ∨
        (c.kind = .barrier ∧ ∃ p < 288, c.live.getLsbD p = true ∧ c.arrived.getLsbD p = false) →
      exec (.collectiveComplete id) s = .next s) ∧
    (∀ t0, c.first = some t0 → c.failed = false → c.result = none → c.kind ≠ .barrier →
      let us := field (s.preg 0x833) 31 0
      (us = 0 ∨ c.policy ≠ 1 ∨ s.now < t0 + 3300 * us → exec (.collectiveStragglerTimeout id) s = .next s) ∧
      (us ≠ 0 → c.policy = 1 → t0 + 3300 * us ≤ s.now → ∃ t d r, exec (.collectiveStragglerTimeout id) s = .next t ∧
        Map.find t.colls id = some d ∧ { d with result := none } = c ∧ d.result = some r ∧ r.status = status ∧ r.tag = s.tag ∧
        (∀ p < 288, r.mask.getLsbD p = Map.has c.got p) ∧ t.teams = s.teams ∧ t.mem = s.mem))) ∧
  (∀ (ty : Ty) (xs : List Nat), xs ≠ [] → ty = .f32 ∨ ty = .bf16 ∨ ty = .i32 →
    let n := xs.length
    let total := (xs.map (Ty.intOf .i32)).sum
    let f := Ty.ffmt ty
    let fs := xs.map f.decode
    let sum := fs.tail.foldl (FFmt.f32.add .rne) (fs.headD (.nan false))
    (ty = .i32 → reduceElem ty 0 xs = Ty.wrap .i32 total ∧ reduceElem ty 1 xs = Ty.wrap .i32 (total.tdiv n)) ∧
    (ty ≠ .i32 → reduceElem ty 0 xs = f.encode (f.roundV .rne sum) ∧
      reduceElem ty 1 xs = f.encode (f.roundV .rne (sum.div (.fin false n 0))) ∧
      reduceElem ty 2 xs = f.encode (fs.tail.foldl FVal.min (fs.headD (.nan false))) ∧
      reduceElem ty 3 xs = f.encode (fs.tail.foldl FVal.max (fs.headD (.nan false))))) ∧
  (∀ (c : Coll) e, c.bytes.length % (c.ty.bits / 8) = 0 → e < c.bytes.length / (c.ty.bits / 8) → c.ty.bits ∈ [16, 32] →
    let w := c.ty.bits / 8
    natOfBytes ((c.reduced.drop (w * e)).take w) =
      reduceElem c.ty c.rop (c.got.map (fun g => natOfBytes ((g.2.drop (w * e)).take w))) % 2 ^ c.ty.bits) ∧
  ∀ (s : State) (id sender : Nat) (tag : Tag) (c : Coll) (body : CollMsg),
    let i : Instr := .collectiveMessage id sender tag body
    (tag ≠ s.tag → s.accepted = none → ∃ t, exec i s = .next t ∧ t.colls = s.colls ∧ t.teams = s.teams ∧ t.mem = s.mem ∧
      field (t.preg 0x834) 63 32 = (field (s.preg 0x834) 63 32 + 1) % 2 ^ 32) ∧
    (Current s tag → Map.find s.colls id = none →
      (s.nextColl ≤ id → ∃ t, exec i s = .next t ∧ t.early = s.early ++ [(id, sender, body)] ∧ t.colls = s.colls ∧
        t.teams = s.teams ∧ t.mem = s.mem) ∧
      (id < s.nextColl → ∀ bs, body = .contribution bs → ∃ t, exec i s = .next t ∧ t.colls = s.colls ∧
        field (t.preg 0x834) 31 0 = (field (s.preg 0x834) 31 0 + 1) % 2 ^ 32)) ∧
    (Current s tag → Map.find s.colls id = some c → c.live.getLsbD sender = true →
      (∀ bs, body = .contribution bs →
        (c.result.isSome = true → ∃ t, exec i s = .next t ∧ t.colls = s.colls ∧
          field (t.preg 0x834) 31 0 = (field (s.preg 0x834) 31 0 + 1) % 2 ^ 32) ∧
        (c.result = none → c.gathers s.selfPkg = true → Map.has c.got sender = false → bs.length = c.bytes.length →
          ∃ t d, exec i s = .next t ∧ Map.find t.colls id = some d ∧ Map.find d.got sender = some bs ∧
            (∀ p, p ≠ sender → Map.find d.got p = Map.find c.got p) ∧ d.first = some (c.first.getD s.now) ∧
            { d with got := [], first := none } = { c with got := [], first := none } ∧ t.teams = s.teams ∧ t.mem = s.mem)) ∧
      (∀ mask bs status view, body = .result mask bs status view →
        (status = 2 → ∃ t, exec i s = .next t ∧ Map.find t.colls id = some { c with failed := true, got := [], result := none } ∧
          t.teams = s.teams ∧ t.mem = s.mem) ∧
        (status ≠ 2 → sender = c.reducer → c.gathers s.selfPkg = false → c.kind ≠ .barrier → bs.length = c.size s.selfPkg →
          ∃ t, exec i s = .next t ∧ Map.find t.colls id = some { c with result := some ⟨mask, bs, status, view⟩ } ∧
            t.teams = s.teams ∧ t.mem = s.mem)) ∧
      (body = .arrived → sender < 288 → ∃ t d, exec i s = .next t ∧ Map.find t.colls id = some d ∧
        { d with arrived := 0 } = { c with arrived := 0 } ∧
        (∀ p < 288, d.arrived.getLsbD p = (c.arrived.getLsbD p || decide (p = sender))) ∧ t.teams = s.teams ∧ t.mem = s.mem))

/-- R310, R357, R358, R360 to R365, R380: a request with the current tag is applied at its home once and answered, or waits there with the
later ones of its sender and line; its reply reaches who waits for it; a notification joins its context's queue; any other tag is
discarded, counted and answered as stale, or held for the proposed view; links train and go down; replays and retransmissions are
counted; a request is sent again through its port, or, where that is down, with all of its pair through the next; heartbeats leave on
every working port, and prove that their sender lives, which ends a suspicion unless every link is down.
Through which port an answer leaves is the model's choice (log 28), which slice of its die a line's home is, and that a requester is a
port of a peer, are too (log 44), and 3300 cycles are a microsecond (log 11). -/
def Obligations.MessagesArrive : Prop :=
  ∀ (s : State) (sender : Nat) (tag : Tag),
    let stale := fun (i : Instr) => ∃ t, exec i s = .next t ∧
      field (t.preg 0x834) 63 32 = (field (s.preg 0x834) 63 32 + 1) % 2 ^ 32 ∧ t.mem = s.mem ∧ t.ctxs = s.ctxs ∧ t.reqs = s.reqs ∧
      t.teams = s.teams ∧ t.replies = s.replies
    let answers := fun (t : State) (q : ReqNo) (r : RemoteReply) =>
      ∃ port, t.out = s.out ++ [⟨port, some sender, s.tag, .reply (some q) r⟩]
    let up := fun k : Nat => (Map.get ⟨false, false, false, 0⟩ s.ports k).up
    let carries := fun k : Nat => (Map.get ⟨false, false, false, 0⟩ s.ports k).extensions
    let tells := fun (t : State) (x : Sent) => ∀ k, s.extFrom sender = some k → t.out = s.out ++ [⟨k, some sender, s.tag, x⟩]
    let holds := fun (i : Instr) (m : HeldMsg) => ∃ t, exec i s = .next t ∧ t.heldMsgs = s.heldMsgs ++ [(tag, m)] ∧ t.mem = s.mem ∧
      t.ctxs = s.ctxs ∧ t.reqs = s.reqs ∧ t.teams = s.teams ∧ t.preg 0x834 = s.preg 0x834
    (∀ i m, ((∃ k v, i = .notificationArrival sender k tag v ∧ m = .note sender k v) ∨
        (∃ q l k, s.pendingReqs = [] ∧ i = .remoteRequestArrival sender q tag l k ∧ m = .request sender q l k) ∨
        (∃ q x, i = .remoteReplyArrival q tag x ∧ m = .reply q x) ∨
        (∃ q b, i = .collectiveMessage q sender tag b ∧ m = .coll q sender b)) → ¬ Current s tag →
      (s.accepted = none → stale i) ∧
      (∀ p, s.accepted = some p → p.tag ≠ tag → stale i) ∧
      (∀ p, s.accepted = some p → p.tag = tag → holds i m)) ∧
    (∀ q l k, s.pendingReqs = [] → ¬ Current s tag → s.accepted = none →
      ∃ t, exec (.remoteRequestArrival sender q tag l k) s = .next t ∧ answers t q .stale) ∧
    (∀ i, ((∃ k v, i = .notificationArrival sender k tag v) ∨ ∃ q b, i = .collectiveMessage q sender tag b) → ¬ Current s tag →
      s.accepted = none → ∃ t, exec i s = .next t ∧ tells t (.reply none .stale)) ∧
    (∀ line, homeOf line / 48 = dieOfLine line) ∧
    (∀ (k id : Nat) (v : DWord) (c : Ctx), Current s tag → s.ctxs.find? (fun c => field (c.2.sreg 0x440) 11 0 == k) = some (id, c) →
      Map.find s.ctxs id = some c →
      ∃ t, exec (.notificationArrival sender k tag v) s = .next t ∧ t.mem = s.mem ∧ t.teams = s.teams ∧
        (t.ctxOf id).notes = (if c.notes.length < 64 then c.notes ++ [(BitVec.ofNat 64 sender, v)] else c.notes) ∧
        tells t (.reply none (.appended (decide (c.notes.length < 64)))) ∧
        ∀ j, j ≠ id → Map.find t.ctxs j = Map.find s.ctxs j) ∧
    (∀ (q : ReqNo) (line : Nat) (k : RemoteKind), Current s tag → line % 64 = 0 →
      let i : Instr := .remoteRequestArrival sender q tag line k
      let home := homeOf line
      let kept := Map.get [] s.replies (requester sender q)
      let new := ∀ r ∈ kept, r.1 = q.count → r.2.1 ≠ home
      (s.pendingReqs = [] → k = .read → s.compressed line = false → line < s.frameEnd → Map.find s.cLines (line / 64) = none →
        s.reach line false = .ok →
        ∃ t, exec i s = .next t ∧ t.mem = s.mem ∧ t.teams = s.teams ∧ t.replies = s.replies ∧
          answers t q (.data (Map.bytes s.mem line 64))) ∧
      (s.pendingReqs = [] → k ≠ .read →
        (∀ r, kept.find? (fun r => r.1 == q.count && r.2.1 == home) = some r → ∃ t, exec i s = .next t ∧ answers t q r.2.2 ∧
          { t with out := [] } = { s.hear sender with out := [] }) ∧
        (∀ bs, k = .write bs → new → s.compressed line = false → line < s.frameEnd → Map.find s.cLines (line / 64) = none →
          (∀ p ∈ bs, p.1 < 64) → (bs.map (·.1)).Nodup → (∀ w, s.reach line w = .ok) →
          ∃ t, exec i s = .next t ∧ t.teams = s.teams ∧
            (∀ a, t.byteAt a = match bs.find? (fun p => line + p.1 == a) with | some p => p.2 | none => s.byteAt a) ∧
            (Map.get [] t.replies (requester sender q)).head? = some (q.count, home, .done) ∧ answers t q .done) ∧
        (line < s.frameEnd → (∀ w, s.reach line w = .inBank) → (∀ f v, k ≠ .note f v) → new →
          ∃ t, exec i s = .next t ∧ t.mem = s.mem ∧ t.teams = s.teams ∧
            (Map.get [] t.replies (requester sender q)).head? = some (q.count, home, .refused 0x04C) ∧ answers t q (.refused 0x04C))) ∧
      (line < s.frameEnd → (∀ w, s.reach line w = .wait) → (∀ f v, k ≠ .note f v) → k = .read ∨ new →
        (s.pendingReqs = [] → ∃ t, exec i s = .next t ∧ t.mem = s.mem ∧ t.teams = s.teams ∧ t.out = s.out ∧
          t.replies = s.replies ∧ t.pendingReqs = [⟨sender, q, line, k⟩]) ∧
        ∀ (q' : ReqNo) k', s.pendingReqs = [⟨sender, q', line, k'⟩] → (∀ f v, k' ≠ .note f v) →
          k' = .read ∨ (∀ r ∈ Map.get [] s.replies (requester sender q'), r.1 ≠ q'.count) → q ≠ q' →
          ∃ t, exec i s = .next t ∧ t.mem = s.mem ∧ t.teams = s.teams ∧ t.out = s.out ∧
            t.pendingReqs = [⟨sender, q', line, k'⟩, ⟨sender, q, line, k⟩])) ∧
    (∀ (q : Nat) (x : RemoteReply) (r : Req), Current s tag → Map.find s.reqs q = some r → r.reply = none →
      (s.awaited q r = true → ∃ t, exec (.remoteReplyArrival q tag x) s = .next t ∧
        Map.find t.reqs q = some { r with reply := some x } ∧ t.teams = s.teams ∧ t.mem = s.mem) ∧
      (s.awaited q r = false → r.posted = true → Map.has s.teams r.ref.team = true → (∀ f v, r.kind ≠ .note f v) →
        (s.groupAt r.ref.team r.ref.group).alive = true → (s.groupAt r.ref.team r.ref.group).held = [] →
        ∀ c, x = .refused c →
        ∃ t h, exec (.remoteReplyArrival q tag x) s = .next t ∧ Map.find t.reqs q = none ∧ t.mem = s.mem ∧
          (t.groupAt r.ref.team r.ref.group).held = [h] ∧ h.cause = BitVec.ofNat 9 c ∧ h.addr = r.addr ∧
          h.info0 = BitVec.ofNat 64 r.va ∧ h.info3 = BitVec.ofNat 64 (2 ^ 60))) ∧
    (∀ port, ∃ t, exec (.flitCrcReplay port) s = .next t ∧ t.mem = s.mem ∧ t.teams = s.teams ∧
      field (t.preg 0x835) 63 32 = (field (s.preg 0x835) 63 32 + 1) % 2 ^ 32 ∧
      field (t.preg 0x835) 31 0 = field (s.preg 0x835) 31 0) ∧
    (∀ q r, Map.find s.reqs q = some r →
      let works := fun k => up k = true ∧ ((∃ f v, r.kind = .note f v) → carries k = true)
      let place := fun k => (r.peer + addrLane r.line + k) % 24
      let counted := fun (t : State) (n : Nat) => t.mem = s.mem ∧ t.teams = s.teams ∧
        field (t.preg 0x835) 31 0 = (field (s.preg 0x835) 31 0 + n) % 2 ^ 32 ∧
        field (t.preg 0x835) 63 32 = field (s.preg 0x835) 63 32
      (r.reply = none → r.time + 8 * 3300 ≤ s.now →
        (works r.port → ∃ t, exec (.requestRetransmit q) s = .next t ∧ counted t 1 ∧
          Map.find t.reqs q = some { r with time := s.now } ∧ ∀ k, k ≠ q → Map.find t.reqs k = Map.find s.reqs k) ∧
        (¬ works r.port → ∀ j < 24, (∀ k < j, ¬ works (place k)) → works (place j) → (s.reqs.map (·.1)).Nodup →
          ∃ t, exec (.requestRetransmit q) s = .next t ∧ counted t (s.reqs.filter (fun x => r.pairs x.2)).length ∧
            ∀ k x, Map.find s.reqs k = some x →
              Map.find t.reqs k = some (if r.pairs x then { x with time := s.now, port := place j } else x)) ∧
        (¬ works r.port → (∀ k < 24, ¬ works k) → exec (.requestRetransmit q) s = .next s)) ∧
      (r.reply ≠ none ∨ s.now < r.time + 8 * 3300 → exec (.requestRetransmit q) s = .next s)) ∧
    (∀ port, port < 24 →
      (up port = false → exec (.linkDown port) s = .next s) ∧
      (∀ p, Map.find s.ports port = some p → p.up = true → ∃ t, exec (.linkDown port) s = .next t ∧
        Map.find t.ports port = some { p with up := false, since := s.now } ∧ { t with ports := [] } = { s with ports := [] } ∧
        ∀ k, k ≠ port → Map.find t.ports k = Map.find s.ports k) ∧
      (∀ ext full, s.bringUp < 2 → exec (.linkTraining port ext full) s = .next s) ∧
      (∀ ext full, 2 ≤ s.bringUp → ∃ t, exec (.linkTraining port ext full) s = .next t ∧
        Map.find t.ports port = some ⟨true, ext, full, s.now⟩ ∧
        t.teams = s.teams ∧ t.mem = s.mem ∧ ∀ k, k ≠ port → Map.find t.ports k = Map.find s.ports k)) ∧
    (let every := 3300 * field (s.preg 0x831) 15 0
     (s.now < s.beat + every → exec .heartbeatSend s = .next s) ∧
     (s.beat + every ≤ s.now → ∃ t, exec .heartbeatSend s = .next t ∧ t.beat = s.now ∧
       { t with beat := s.beat, out := s.out } = s ∧
       ∀ k < 24, up k = true → (Map.get ⟨false, false, false, 0⟩ s.ports k).extensions = true →
         ⟨k, none, s.tag, .heartbeat⟩ ∈ t.out)) ∧
    (let cut := ∀ k < 24, up k = false ∧ (Map.get ⟨false, false, false, 0⟩ s.ports k).since + 3300 * field (s.preg 0x831) 31 16 ≤ s.now
     ∃ t, exec (.heartbeatReceive sender) s = .next t ∧ t = s.hear sender ∧ Map.find t.heard sender = some s.now ∧
      (∀ k, k ≠ sender → Map.find t.heard k = Map.find s.heard k) ∧
      { t with heard := s.heard, suspects := s.suspects, suspected := s.suspected } = s ∧
      (cut → t.suspects = s.suspects ∧ t.suspected = s.suspected) ∧
      (¬ cut → (∀ k < 288, t.suspects.getLsbD k = (s.suspects.getLsbD k && decide (k ≠ sender))) ∧
        t.suspected = if t.suspects = 0 then none else s.suspected))

/-- R366, R367, R369, R373: silence, or links that are down, make a member suspected; the proposer proposes the rest; a receiver accepts
what it does not contradict, of the lowest proposer it has heard from, and else returns what stands against it; a proposal that every
member accepted and that holds a majority is committed and installed; a package that finds no view in time is excluded; attested joiners
wait for a barrier, others are refused. What a held message of another tag becomes, and how suspicions of several members merge, are the
model's readings (log 28); 3300 cycles are a microsecond (DEDUCED, log 11). -/
def Obligations.ViewsChange : Prop :=
  ∀ (s : State) (sender : Nat) (m : BitVec 288) (count : BitVec 16),
    let me := s.selfPkg
    let limit := 3300 * field (s.preg 0x831) 31 16
    let port := fun k : Nat => Map.get ⟨false, false, false, 0⟩ s.ports k
    let carried := ∃ k < 24, (port k).up = true ∧ (port k).extensions = true
    let tells := fun (t : State) (q : Nat) (x : Sent) => ∃ k, ⟨k, some q, s.tag, x⟩ ∈ t.out
    let tagBits := fun (t : Tag) => t = count ++ digest m
    let w := s.hear sender
    let installs := fun (i : Instr) (believed : BitVec 288) => ∃ t g, exec i s = .next t ∧ t.view = some (m, g) ∧ tagBits g ∧
      t.excluded = !m.getLsbD me ∧ t.suspects = believed &&& m ∧ t.reported = s.reported &&& m ∧ t.accepted = none ∧ t.proposing = none
    (∀ p, p < 288 →
      let silent := ∀ h, Map.find s.heard p = some h → h + limit ≤ s.now
      let cut := ∀ k < 24, (port k).up = false ∧ (port k).since + limit ≤ s.now
      let due := s.member p = true ∧ p ≠ me ∧ s.suspects.getLsbD p = false ∧ (silent ∨ cut)
      (due → ∃ t, exec (.memberSuspect p) s = .next t ∧ t.suspects.getLsbD p = true ∧
        (∀ q < 288, q ≠ p → t.suspects.getLsbD q = s.suspects.getLsbD q) ∧ t.suspected = some (s.suspected.getD s.now) ∧
        t.view = s.view ∧ t.mem = s.mem ∧ t.teams = s.teams) ∧
      (¬ due → exec (.memberSuspect p) s = .next s)) ∧
    (w.proposer = me ∨ s.proposing.isSome = true → ∃ t, exec (.suspicion sender m) s = .next t ∧
      (∀ q < 288, t.reported.getLsbD q = (s.reported.getLsbD q || (m.getLsbD q && decide (q ≠ me)))) ∧
      { t with reported := s.reported } = w) ∧
    (w.proposer ≠ me → s.proposing = none → exec (.suspicion sender m) s = .next w) ∧
    (∀ v, s.view = some v → s.excluded = false → (∀ q c, s.lowest = some (q, c) → q < me → c = count → s.suspects.getLsbD q = true) →
      s.suspects ||| s.reported ≠ 0 ∨ s.admitted ≠ 0 →
      (∀ q < me, v.1.getLsbD q = true → s.suspects.getLsbD q = true) → v.1.getLsbD me = true → s.suspects.getLsbD me = false →
      m = (v.1 &&& ~~~(s.suspects ||| s.reported)) ||| s.admitted → count = s.viewCount + 1 →
      ∃ t, exec (.proposal me m count) s = .next t ∧ t.accepted = some ⟨me, m, count⟩ ∧
        t.proposing.map (·.1) = some ⟨me, m, count⟩ ∧ t.view = s.view ∧ t.mem = s.mem ∧ t.teams = s.teams ∧
        (carried → ∀ q < 288, m.getLsbD q = true → q ≠ me → tells t q (.proposal m count))) ∧
    (∀ v, s.view = some v → sender ≠ me → s.joining = false →
      let lower := ∃ q, s.lowest = some (q, count) ∧ q < sender ∧ s.suspects.getLsbD q = false
      let asked := m.getLsbD me = true ∧ s.excluded = false ∧ count = s.viewCount + 1
      let kept := fun (t : State) => t.view = s.view ∧ t.mem = s.mem ∧ t.teams = s.teams ∧ (sender < me → t.proposing = none)
      (asked → ¬ lower → w.suspects &&& m = 0 →
        ∃ t, exec (.proposal sender m count) s = .next t ∧ kept t ∧ t.accepted = some ⟨sender, m, count⟩ ∧
          t.lowest = some (sender, count) ∧ (carried → tells t sender (.accept ⟨m, count⟩))) ∧
      (asked → ¬ lower → w.suspects &&& m ≠ 0 →
        ∃ t, exec (.proposal sender m count) s = .next t ∧ kept t ∧ (me < sender → t.accepted = s.accepted) ∧
          (carried → tells t sender (.refusal count (w.suspects &&& m)))) ∧
      (¬ asked ∨ lower → exec (.proposal sender m count) s = .next w)) ∧
    (∀ p got, s.proposing = some (p, got) → (p.members ≠ m ∨ p.count ≠ count) → exec (.accept sender ⟨m, count⟩) s = .next w) ∧
    (∀ p got, s.proposing = some (p, got) → p.members = m → p.count = count → m.getLsbD sender = true → sender < 288 →
      ∃ t g, exec (.accept sender ⟨m, count⟩) s = .next t ∧ t.proposing = some (p, g) ∧
        (∀ q < 288, g.getLsbD q = (got.getLsbD q || decide (q = sender))) ∧ t.view = s.view ∧ t.mem = s.mem ∧ t.teams = s.teams) ∧
    (s.heldMsgs = [] → ∀ v, s.view = some v →
      let half := liveCount v.1
      let survivors := liveCount (m &&& v.1)
      let majority := half < 2 * survivors ∨
        (2 * survivors = half ∧ ∀ q < 288, v.1.getLsbD q = true → (∀ k < q, v.1.getLsbD k = false) → m.getLsbD q = true)
      (∀ got, s.proposing = some (⟨me, m, count⟩, got) → liveCount v.1 ≠ 0 →
        (m &&& ~~~got = 0 → majority → installs (.commit me m count) s.suspects) ∧
        (m &&& ~~~got ≠ 0 ∨ ¬ majority → exec (.commit me m count) s = .next s)) ∧
      (sender ≠ me → (s.accepted = some ⟨sender, m, count⟩ → installs (.commit sender m count) w.suspects) ∧
        (s.accepted ≠ some ⟨sender, m, count⟩ → exec (.commit sender m count) s = .next w))) ∧
    (∀ h, s.suspected = some h →
      (h + 4 * limit ≤ s.now → exec .exclusionTimeout s = .next { s with excluded := true }) ∧
      (s.now < h + 4 * limit → exec .exclusionTimeout s = .next s)) ∧
    (∀ session : BitVec 16,
      let known := ∃ a ∈ s.attested, a.exchange.map (·.peer) = some ⟨session, sender⟩
      (s.shutOut = true → exec (.joinRequest sender session) s = .next w) ∧
      (s.shutOut = false → known → sender < s.domainSize → s.member sender = false → sender ∉ s.joiners →
        exec (.joinRequest sender session) s = .next { w with joiners := s.joiners ++ [sender] }) ∧
      (s.shutOut = false → ¬ known → ∃ t, exec (.joinRequest sender session) s = .next t ∧
        { t with out := [] } = { w with out := [] } ∧ (carried → tells t sender .joinRefusal))) ∧
    (∃ t, exec (.joinRefusal sender) s = .next t ∧ t.view = s.view ∧ t.mem = s.mem ∧
      ∀ r d, s.live r = true → (s.fragAt r).park = some (.joining d) → (t.fragAt r).park = some (.got d 0))

/-- R371 to R373, R380: `vwq` reads the view, `vack` acknowledges it, `vjoin` waits on an excluded package; `fnote` leaves once the
group's earlier accesses have taken effect, and `fwait` takes the oldest notification, waits for one, or says that there is none.
What `fnote` reports with a stale reply or an illegal target is the model's reading (log 29). -/
def Obligations.ViewInstructions : Prop :=
  ∀ (s : State) (f : FmtE), s.actsAny = true →
    let me := s.selfPkg
    let a := s.cg.ureg f.a.toNat
    let b := s.cg.ureg f.b.toNat
    (f.sub.toNat < 8 → UniformResult s (.vwq f) { writes := [.s f.d.toNat] } f.d
      (match f.sub.toNat with
      | 0 => s.tag.setWidth 64
      | 5 => (s.members.extractLsb' 256 32).setWidth 64
      | 6 => s.cg.ackTag.setWidth 64
      | 7 => BitVec.ofNat 64 (me + (if s.shutOut then 0 else 2 ^ 16) + (if s.accepted = none then 0 else 2 ^ 17))
      | q => s.members.extractLsb' (64 * (q - 1)) 64)) ∧
    (s.Issues .vack {} →
      (s.shutOut = true → exec .vack s = .next (s.raise 0x1C2)) ∧
      (s.shutOut = false → ∃ t, exec .vack s = .next t ∧ KeepsRegs s t ∧ t.cg.ackTag = s.tag ∧ t.cg.notified = false ∧
        t.cf = s.cf.goTo (nextPc s.cf.pc))) ∧
    (s.Issues (.vjoin f) { writes := [.s f.d.toNat] } →
      (s.shutOut = false → exec (.vjoin f) s = .next (s.raise 0x1C5)) ∧
      (s.shutOut = true → ∃ t, exec (.vjoin f) s = .next t ∧
        KeepsRegs s { t with out := s.out, suspects := s.suspects, suspected := s.suspected, reported := s.reported } ∧
        t.suspects = 0 ∧ t.suspected = none ∧ t.reported = 0 ∧
        t.cf.park = some (.joining f.d.toNat) ∧ t.cf.pc = s.cf.pc ∧
        ∀ k < 24, (Map.get ⟨false, false, false, 0⟩ s.ports k).up = true →
          (Map.get ⟨false, false, false, 0⟩ s.ports k).extensions = true → ⟨k, none, s.tag, .joinRequest⟩ ∈ t.out)) ∧
    (f.d.toNat < 7 → s.Issues (.fnote f) { reads := [.s f.a.toNat, .s f.b.toNat], writes := [.p f.d.toNat] } →
      let p := a.toNat
      (∀ e, s.viewStop = some e → exec (.fnote f) s = .next (s.refuse e)) ∧
      (s.viewStop = none →
        (2 ^ 9 ≤ p ∨ s.domainSize ≤ p ∨ s.member p = false → exec (.fnote f) s = .next (s.raise 0x1C4 none a)) ∧
        (p < 2 ^ 9 → p < s.domainSize → s.member p = true →
          (s.remoteDone s.cur.ref.team s.cur.ref.group = false → exec (.fnote f) s = .next s) ∧
          (s.remoteDone s.cur.ref.team s.cur.ref.group = true →
            (p = me →
              let mine := s.ctxs.find? (fun c => field (c.2.sreg 0x440) 11 0 == field (s.cc.sreg 0x440) 11 0)
              let goes := fun (ok : Bool) (notes : State → Prop) => ∃ t, exec (.fnote f) s = .next t ∧ t.mem = s.mem ∧
                t.cf = s.cf.goTo (nextPc s.cf.pc) ∧ (∀ l ∈ s.lanes, (t.cg.pred f.d.toNat).getLsbD l = ok) ∧ notes t
              (mine = none → goes false (fun t => t.ctxs = s.ctxs)) ∧
              (∀ id c, mine = some (id, c) → Map.find s.ctxs id = some c →
                (64 ≤ c.notes.length → goes false (fun t => t.ctxs = s.ctxs)) ∧
                (c.notes.length < 64 → goes true (fun t => (t.ctxOf id).notes = c.notes ++ [(BitVec.ofNat 64 p, b)])))) ∧
            (p ≠ me → s.extFrom p = none → exec (.fnote f) s = .next s) ∧
            (p ≠ me → s.extFrom p ≠ none → ∃ t r, exec (.fnote f) s = .next t ∧ t.cg.v = s.cg.v ∧ t.cg.s = s.cg.s ∧ t.cg.p = s.cg.p ∧ t.cf = s.cf.goTo (nextPc s.cf.pc) ∧
              t.mem = s.mem ∧ Map.find t.reqs s.nextReq = some r ∧ r.peer = p ∧ r.tag = s.tag ∧ r.reply = none ∧ some r.port = s.extFrom p ∧
              r.kind = .note (field (s.cc.sreg 0x440) 11 0) b ∧ (s.GoesOn → .p f.d.toNat ∈ t.cg.pendingRegs)))))) ∧
    (∀ i, (i = .fwait f ∨ i = .fwaitTry f) → s.Issues i { writes := uregs f.d.toNat 2 } →
      (∀ e, s.viewStop = some e → exec i s = .next (s.refuse e)) ∧
      (s.viewStop = none → Map.has s.ctxs s.ct.ctx = true →
        (∀ from_ v rest, s.cc.notes = (from_, v) :: rest → ∃ t, exec i s = .next t ∧ t.mem = s.mem ∧
          t.cg.ureg f.d.toNat = v ∧ t.cg.ureg (f.d.toNat + 1) = from_ ∧ (t.ctxOf s.ct.ctx).notes = rest ∧
          (∀ r, r ≠ f.d.toNat → r ≠ f.d.toNat + 1 → t.cg.ureg r = s.cg.ureg r) ∧ t.cg.v = s.cg.v ∧ t.cg.p = s.cg.p ∧
          t.cf = s.cf.goTo (nextPc s.cf.pc)) ∧
        (s.cc.notes = [] →
          (i = .fwait f → ∃ t, exec i s = .next t ∧ KeepsRegs s t ∧ t.cf.park = some (.again .note) ∧ t.cf.pc = s.cf.pc) ∧
          (i = .fwaitTry f → ∃ t, exec i s = .next t ∧ RegsOnly s t [] (uregs f.d.toNat 2) (nextPc s.cf.pc) ∧
            t.cg.ureg f.d.toNat = s.cg.ureg f.d.toNat ∧ t.cg.ureg (f.d.toNat + 1) = BitVec.ofNat 64 (2 ^ 63)))))

/-! ## Capacity (R316 to R327) -/

namespace Sys2Proof.Machine.Claims

/-- A resident frame that is not pinned, has no held write, and lies under no in-bank row: one that step 3 may choose, but for what
returned and was not swept (R320). -/
structure Movable (s : State) (n : Nat) (f : Frame) : Prop where
  resident : f.state = .resident
  unpinned : f.pin = false
  free : ∀ h ∈ s.held, h.line / 4096 ≠ n
  rows : ∀ i < 4, Map.get false s.rowOwner (4 * n + i) = false

/-- The capacity engine's own fields set aside. -/
def besidesCapacity (t : State) : State :=
  { t with frames := [], free := 0, held := [], evUsed := 0, readyQ := [], sweep := 0, reserve := 0, balloon := false }

/-- One frame of the table becomes another, and the others stay. -/
def FrameBecomes (s t : State) (n : Nat) (f : Frame) : Prop :=
  Map.find t.frames n = some f ∧ ∀ k, k ≠ n → Map.find t.frames k = Map.find s.frames k

/-- A package register changes, and no other. -/
def RegisterBecomes (s t : State) (n : Nat) (v : DWord) : Prop := t.preg n = v ∧ ∀ k, k ≠ n → t.preg k = s.preg k

/-- The write of a master that is not the owner: it is counted in `errcnt.deny`, which may interrupt the driver, and has no other
effect (R404). -/
def Denied (s : State) (i : Instr) : Prop :=
  ∃ t, exec i s = .next t ∧
    { t with pregs := [], irqMsgs := 0 } = { s with pregs := [], irqMsgs := 0 } ∧
    field (t.preg 0x854) 15 0 = (field (s.preg 0x854) 15 0 + 1) % 2 ^ 16 ∧
    (t.preg 0x854).toNat / 2 ^ 16 = (s.preg 0x854).toNat / 2 ^ 16 ∧ ∀ n, n ≠ 0x854 → n ≠ 0x851 → t.preg n = s.preg n

/-- The number that the manual gives a master (R404). -/
def numberOf : Master → Nat
  | .host => 0
  | .board => 1
  | .fabric => 2

end Sys2Proof.Machine.Claims

/-- R319 to R324: the oldest held write is placed once the pool has the chunks that its frame lacks; the sweeper clears an accessed bit
or queues a frame; reclaim takes from the reserve, then compacts, then evicts, for the oldest held write or for the watermark; it
sets `capstat.full` and, for a held write, `capstat.fail`, with the interrupt; an evicted frame comes back when the pool has its
need; a held write that waits too long is discarded with all of its context.
R327, R331, R404: each capacity command acts on `count` frames from `capfrm.frame`, or on none of them where one breaks its rule; of a
master that is not the owner, it is denied.
A resident frame that waits for a fresh chunk for a failed one gives that up then (R325). What the sweeper passes over, when the evictor
reads the lists, how a failed chunk is replaced, and the conversion of microseconds to cycles, are the model's readings (logs 11, 35 and
45). -/
def Obligations.Capacity : Prop :=
  (∀ (s : State),
      let lacks := fun (h : HeldWrite) (f : Frame) => h.need - f.chunks
      let rest := besidesCapacity
      (s.held = [] → exec .heldWritePlace s = .next s) ∧
      (∀ h hs f, s.held = h :: hs → Map.find s.frames (h.line / 4096) = some f →
        (s.free < lacks h f → exec .heldWritePlace s = .next s) ∧
        (lacks h f ≤ s.free → h.back = true → f.state ≠ .evicted → ∃ t, exec .heldWritePlace s = .next t.settleHand ∧
          rest { t with chunkBad := s.chunkBad } = rest s ∧ t.held = hs ∧ t.free = s.free - lacks h f ∧ t.chunkBad = s.chunkBad + 1 ∧
          FrameBecomes s t (h.line / 4096) { f with chunks := f.chunks + lacks h f - 1 }) ∧
        (lacks h f ≤ s.free → (h.back = true → f.state = .evicted) → ∃ t, exec .heldWritePlace s = .next t.settleHand ∧
          rest t = rest s ∧ t.held = hs ∧ t.free = s.free - lacks h f ∧
          t.evUsed = s.evUsed - (if h.back then 1 else 0) ∧
          FrameBecomes s t (h.line / 4096) { f with
            chunks := f.chunks + lacks h f, state := .resident, accessed := h.back || f.accessed
            returned := h.back || f.returned })) ∧
      ((s.preg 0x811).toNat / 2 ^ 32 ≤ s.readyQ.length → exec .clockSweep s = .next s) ∧
      (∀ n f l r, s.readyQ.length < (s.preg 0x811).toNat / 2 ^ 32 → s.frames = l ++ (n, f) :: r → Movable s n f →
        Map.find s.frames n = some f →
        (s.sweep ≤ n ∧ ∀ p ∈ l, p.1 < s.sweep ∨ ¬ Movable s p.1 p.2) ∨
          ((∀ p ∈ s.frames, Movable s p.1 p.2 → p.1 < s.sweep) ∧ ∀ p ∈ l, ¬ Movable s p.1 p.2) →
        ∃ t, exec .clockSweep s = .next t ∧ rest t = rest s ∧ t.sweep = n + 1 ∧ t.free = s.free ∧ t.held = s.held ∧
          (f.accessed = true → FrameBecomes s t n { f with accessed := false, returned := false } ∧ t.readyQ = s.readyQ) ∧
          (f.accessed = false → FrameBecomes s t n f ∧ t.readyQ = if n ∈ s.readyQ then s.readyQ else s.readyQ ++ [n])) ∧
      (let low := (s.preg 0x811).toNat % 2 ^ 32
       let slots := (s.preg 0x816).toNat % 2 ^ 32
       let runs := s.free < low ∨ (s.balloon = true ∧ s.free = low)
       let noSurplus := ∀ p ∈ s.frames, p.2.state ≠ .resident ∨ p.2.chunks ≤ s.frameKeeps p.1
       let onlyRegs := fun (t : State) => { t with pregs := [], irqMsgs := 0, balloon := false } =
         { s with pregs := [], irqMsgs := 0, balloon := false }
       (s.held = [] → ¬ runs → exec .balloonReclaim s = .next { s with balloon := false }) ∧
       (s.held = [] → runs →
         let want := low + 1 - s.free
         (0 < s.reserve → ∃ t, exec .balloonReclaim s = .next t ∧ rest t = rest s ∧ t.frames = s.frames ∧ t.balloon = true ∧
           t.reserve = s.reserve - min want s.reserve ∧ t.free = s.free + min want s.reserve) ∧
         (s.reserve = 0 →
           (∀ n f l r, s.frames = l ++ (n, f) :: r → Map.find s.frames n = some f → f.state = .resident → s.frameNeed n < f.chunks →
             (∀ p ∈ l, p.2.state ≠ .resident ∨ p.2.chunks ≤ s.frameNeed p.1) →
             ∃ t, exec .balloonReclaim s = .next t ∧ rest t = rest s ∧ t.free = s.free + (f.chunks - s.frameNeed n) ∧
               FrameBecomes s t n { f with chunks := s.frameNeed n }) ∧
           (noSurplus →
             (slots = 0 → ∃ t, exec .balloonReclaim s = .next t ∧ onlyRegs t ∧ t.pregs = s.pregs) ∧
             (slots ≠ 0 → slots ≤ s.evUsed → ∃ t, exec .balloonReclaim s = .next t ∧ onlyRegs t ∧
               RegisterBecomes s t 0x817 (s.preg 0x817 ||| 2)) ∧
             (s.evUsed < slots →
               let w := if s.searches then s.searched else s
               ∀ n f, w.held = [] → w.victim = some n → Map.find w.frames n = some f →
               ∃ t, exec .balloonReclaim s = .next t ∧ rest { t with hostOut := 0 } = rest { w with hostOut := 0 } ∧
                 t.evUsed = w.evUsed + 1 ∧ t.free = w.free + f.chunks ∧ t.hostOut = w.hostOut + 1 ∧ t.held = [] ∧
                 t.readyQ = w.readyQ.filter (· != n) ∧ FrameBecomes w t n { f with state := .evicted, chunks := 0 })))) ∧
       ((s.preg 0x810).getLsbD 23 = false → ∀ n f l r, s.readyQ = l ++ n :: r → Map.find s.frames n = some f → Movable s n f →
         f.returned = false →
         (∀ k ∈ l, ∀ g, Map.find s.frames k = some g → g.returned = true ∨ ¬ Movable s k g) → s.victim = some n) ∧
       (∀ h hs f, s.held = h :: hs → Map.find s.frames (h.line / 4096) = some f → s.free < lacks h f →
         let want := lacks h f - s.free
         (0 < s.reserve → ∃ t, exec .balloonReclaim s = .next t ∧ rest t = rest s ∧ t.held = s.held ∧ t.free = s.free ∧
           t.reserve = s.reserve - min want s.reserve ∧
           FrameBecomes s t (h.line / 4096) { f with chunks := f.chunks + min want s.reserve }) ∧
         (s.reserve = 0 → noSurplus → slots = 0 → ∃ t, exec .balloonReclaim s = .next t ∧ onlyRegs t ∧
           t.preg 0x817 = s.preg 0x817 ||| 1 ∧ t.preg 0x851 = s.preg 0x851 ||| 4 ∧
           ∀ k, k ≠ 0x817 → k ≠ 0x851 → t.preg k = s.preg k))) ∧
      (∀ n f, Map.find s.frames n = some f →
        (f.state ≠ .evicted → exec (.evictedFrameReturn n) s = .next s.settleHand) ∧
        (f.state = .evicted → (∀ h ∈ s.held, h.back = true → h.line / 4096 ≠ n) →
          (s.frameNeed n ≤ s.free → ∃ t, exec (.evictedFrameReturn n) s = .next t.settleHand ∧ rest t = rest s ∧
            t.free = s.free - s.frameNeed n ∧ t.held = s.held ∧ t.evUsed = s.evUsed - 1 ∧
            FrameBecomes s t n { f with state := .resident, chunks := s.frameNeed n, accessed := true, returned := true }) ∧
          (s.free < s.frameNeed n → exec (.evictedFrameReturn n) s = .next ({ s with
            held := s.held ++ [⟨4096 * n, [], false, f.ctx, s.now, s.frameNeed n, true⟩] } : State).settleHand))) ∧
      ∀ l h r, s.held = l ++ h :: r → (∀ g ∈ l, g.back = true) → h.back = false →
        let us := (s.preg 0x814).toNat % 2 ^ 32
        (us = 0 ∨ s.now ≤ h.time + 3300 * us → exec .reclaimTimeout s = .next s) ∧
        (us ≠ 0 → h.time + 3300 * us < s.now → (∀ g ∈ s.held, g.before.length = 64 ∧ g.line % 64 = 0) →
          ∃ t, exec .reclaimTimeout s = .next t ∧ (t.ctxOf h.ctx).faulted = true ∧
            t.held = s.held.filter (fun g => g.back || g.ctx != h.ctx) ∧ t.frames = s.frames ∧ t.free = s.free ∧
            (∀ g ∈ s.held, g.ctx = h.ctx → g.back = false → g.failed = true → g.line ∈ t.badLines) ∧
            (∀ a, (∀ g ∈ s.held, g.ctx = h.ctx → g.back = false → a / 64 * 64 ≠ g.line) → t.byteAt a = s.byteAt a) ∧
            ∀ x y g, s.held = x ++ g :: y → g.ctx = h.ctx → g.back = false →
              (∀ k ∈ x, k.ctx = h.ctx → k.back = false → k.line ≠ g.line) → ∀ j < 64, t.byteAt (g.line + j) = g.before.getD j 0)) ∧
  (∀ (s : State) (count : BitVec 20), s.handing = none →
      let m := s.writer
      let first := field (s.preg 0x819) 47 12
      let owner := field (s.preg 0x819) 63 48
      let named := fun n => first ≤ n ∧ n < first + count.toNat
      let region := fun n => s.plainEnd ≤ 4096 * n ∧ 4096 * n < s.frameEnd
      let assigned := fun n => region n ∧ Map.has s.frames n = true
      let plain := fun n => 4096 * n < s.plainEnd ∧ ∀ i < 4, Map.get false s.rowOwner (4 * n + i) = false
      let stays := fun (i : Instr) => exec i s = .next s
      let others := fun (t : State) => ∀ n, ¬ named n → Map.find t.frames n = Map.find s.frames n
      (s.owner ≠ numberOf m → Denied s (.capcmdAssign count) ∧ Denied s (.capcmdReturn count) ∧ Denied s (.capcmdPin count) ∧
        Denied s (.capcmdUnpin count) ∧ Denied s (.capcmdStripeOn count) ∧ Denied s (.capcmdStripeOff count)) ∧
      (s.owner = numberOf m →
        (count = 0 ∨ (∃ n, named n ∧ ¬ (region n ∧ Map.has s.frames n = false ∧ n ∉ s.badFrames)) → stays (.capcmdAssign count)) ∧
        (count ≠ 0 → (∀ n, named n → region n ∧ Map.has s.frames n = false ∧ n ∉ s.badFrames) →
          ∃ t, exec (.capcmdAssign count) s = .next t ∧ others t ∧
            (∀ n, named n → Map.find t.frames n = some ⟨.empty, owner, 0, false, false, false⟩) ∧ t.free = s.free ∧ t.teams = s.teams ∧
            (∀ a, t.byteAt a = if first ≤ a / 4096 ∧ a / 4096 < first + count.toNat then 0 else s.byteAt a) ∧
            ∀ p ∈ t.cLines, ¬ named (p.1 / 64)) ∧
        (count = 0 ∨ (∃ n, named n ∧ ¬ assigned n) →
          stays (.capcmdReturn count) ∧ stays (.capcmdPin count) ∧ stays (.capcmdUnpin count)) ∧
        (count ≠ 0 → (∀ n, named n → assigned n) →
          (∃ t, exec (.capcmdReturn count) s = .next t ∧ others t ∧ (∀ n, named n → Map.find t.frames n = none) ∧
            ((∀ h ∈ s.held, h.back = true → ¬ named (h.line / 4096)) → t.reserve = s.reserve +
              ((List.range count.toNat).map (fun i => ((Map.find s.frames (first + i)).map (·.chunks)).getD 0)).sum) ∧
            t.mem = s.mem ∧ t.teams = s.teams ∧ (∀ h ∈ t.held, ¬ named (h.line / 4096)) ∧ ∀ n ∈ t.readyQ, ¬ named n) ∧
          ((∀ n f, named n → Map.find s.frames n = some f → f.state ≠ .evicted) →
            ∃ t, exec (.capcmdPin count) s = .next t ∧ others t ∧ t.mem = s.mem ∧ t.teams = s.teams ∧
              ∀ n f, named n → Map.find s.frames n = some f → Map.find t.frames n = some { f with pin := true }) ∧
          (∀ f, count = 1 → Map.find s.frames first = some f → f.state = .evicted → s.held = [] → s.frameNeed first ≤ s.free →
            ∃ t, exec (.capcmdPin count) s = .next t ∧ t.free = s.free - s.frameNeed first ∧ t.evUsed = s.evUsed - 1 ∧
              FrameBecomes s t first ⟨.resident, f.ctx, s.frameNeed first, true, true, true⟩) ∧
          (∃ t, exec (.capcmdUnpin count) s = .next t ∧ others t ∧ t.mem = s.mem ∧ t.teams = s.teams ∧
            ∀ n f, named n → Map.find s.frames n = some f → Map.find t.frames n = some { f with pin := false })) ∧
        (count = 0 ∨ (∃ n, named n ∧ ¬ plain n) → stays (.capcmdStripeOn count) ∧ stays (.capcmdStripeOff count)) ∧
        (count ≠ 0 → (∀ n, named n → plain n) →
          ∀ i on, (i = .capcmdStripeOn count ∧ on = true ∨ i = .capcmdStripeOff count ∧ on = false) →
          ∃ t, exec i s = .next t ∧ { t with stripe := [] } = { s with stripe := [] } ∧
            (∀ n, named n → Map.get false t.stripe n = on) ∧ ∀ n, ¬ named n → Map.get false t.stripe n = Map.get false s.stripe n)))

/-! ## The owner, the host and the package (R404 to R413) -/

/-- R404 to R407: claims open an election, whose close makes the best claim's master the owner; only the owner hands over; an owner
whose path stays down is dropped; and only the owner's register writes count, but for `capcfg` and `fbself` during bring-up.
R277, R404, R408 to R413: the host's writes of memory land line by line, its reads change no value, and where it is the owner its
driver creates contexts and writes their registers; the enables of `hostirq` may send a message; firmware, attestation and power
act as described; a reset leaves the state right after reset; an invalidation drops exactly the cached translations of its range.
A hand waits until every earlier owner-register write has completed (R407), and a step of bring-up that fails sets `hostirq.pkg` (R412).
That a reset keeps the agenda, which writes bring-up allows, and the firmware's versions are the model's choices (logs 3, 23 and 25), and
so are 3300 cycles to a microsecond (DEDUCED, log 11), how a late claim and a hand of another master are treated (log 22), what counts as
an episode or a refused image (log 24), and the values that attestation derives (log 37). -/
def Obligations.OwnerHostAndPackage : Prop :=
  (∀ (s : State) (m : Master),
      let number := numberOf m
      let window := 3300 * 100
      let entered := fun (prio : BitVec 8) (nonce : BitVec 32) =>
        s.claims.filter (fun c => c.1 != number) ++ [(number, prio.toNat, nonce.toNat)]
      (∀ prio nonce,
        ((∀ c, s.election = some c → s.now < c + window) →
          (s.owner ≠ 3 ∨ s.bringUp < 3 → exec (.ownclaimClaim m prio nonce) s = .next s) ∧
          (s.owner = 3 → 3 ≤ s.bringUp → exec (.ownclaimClaim m prio nonce) s = .next { s with
            election := some (s.election.getD s.now), claims := entered prio nonce })) ∧
        (∀ c, s.election = some c → c + window ≤ s.now → s.claims ≠ [] → (∀ p ∈ s.claims, p.1 ≠ 3) →
          exec (.ownclaimClaim m prio nonce) s = exec .electionClose s)) ∧
      (s.election = none → exec .electionClose s = .next s) ∧
      (∀ c, s.election = some c →
        (s.now < c + window → exec .electionClose s = .next s) ∧
        (c + window ≤ s.now → ∀ w, w ∈ s.claims →
          (∀ x ∈ s.claims, x = w ∨ x.2.1 < w.2.1 ∨ (x.2.1 = w.2.1 ∧ x.2.2 < w.2.2) ∨
            (x.2.1 = w.2.1 ∧ x.2.2 = w.2.2 ∧ w.1 < x.1)) →
          exec .electionClose s = .next { s.setPreg 0x850 (BitVec.ofNat 64 (w.2.1 * 2 ^ 32 + w.2.2)) with
            owner := w.1, claims := [], election := none })) ∧
      (∀ succ : BitVec 2,
        (s.owner ≠ number → Denied s (.ownclaimHand m succ)) ∧
        (s.owner = number → exec (.ownclaimHand m succ) s = .next ({ s with handing := some succ.toNat } : State).settleHand)) ∧
      (let waits := ∃ p ∈ s.frames, p.2.state = .evicted ∧ p.2.pin = true
       (s.handing = none → s.settleHand = s) ∧
       ∀ succ, s.handing = some succ →
        (waits → s.settleHand = s) ∧
        (¬ waits → Map.has s.pathDown succ = true → s.settleHand = { s with handing := none }) ∧
        (¬ waits → Map.has s.pathDown succ = false →
          s.settleHand = { s with owner := succ, handing := none, claims := [], election := none })) ∧
      ((Map.find s.pathDown s.owner = none → exec .ownerPathTimeout s = .next s) ∧
        ∀ c, Map.find s.pathDown s.owner = some c →
          (s.now < c + 3300 * 1000000 → exec .ownerPathTimeout s = .next s) ∧
          (c + 3300 * 1000000 ≤ s.now → exec .ownerPathTimeout s = .next { s with
            owner := 3, handing := none, claims := [], election := none })) ∧
      (∀ v : DWord, exec (.registerWrite m 0x850 v) s =
        if v.getLsbD 61 then exec (.ownclaimHand m (v.extractLsb' 59 2)) s
        else exec (.ownclaimClaim m (v.extractLsb' 32 8) (v.extractLsb' 0 32)) s) ∧
      (∀ (n : BitVec 12) v, n ≠ 0x850 →
        let allowed := s.owner = number ∨
          (m = .board ∧ n = 0x810 ∧ (s.bringUp = 1 ∨ s.bringUp = 2) ∧ .obhal ∈ s.trained) ∨
          (m = .fabric ∧ n = 0x830 ∧ (s.bringUp = 3 ∨ s.bringUp = 4))
        let i : Instr := .registerWrite m n v
        let stops := fun (step : Nat) => (s.bringUp ≠ step → exec i s = .next s) ∧
          (s.bringUp = step → ∃ t, exec i s = .next t ∧ t.preg 0x851 = s.preg 0x851 ||| 1 ∧ (∀ k, k ≠ 0x851 → t.preg k = s.preg k) ∧
            { t with pregs := [], irqMsgs := 0 } = { s with pregs := [], irqMsgs := 0 })
        (¬ allowed → Denied s i) ∧
        (allowed → n.toNat < 0x800 ∨ writableSreg n.toNat = false → exec i s = .next s) ∧
        (allowed → n = 0x833 ∨ n = 0x814 ∨ n = 0x820 ∨ n = 0x842 → ∃ t, exec i s = .next t ∧
          field (t.preg n.toNat) 31 0 = v.toNat % 2 ^ 32 ∧ (∀ k, k ≠ n.toNat → t.preg k = s.preg k) ∧
          { t with pregs := [] } = { s with pregs := [] }) ∧
        (allowed → n = 0x810 →
          let same := field v 39 29 = field (s.preg 0x810) 39 29 ∧ field v 28 24 = field (s.preg 0x810) 28 24
          let ok := field v 39 29 ≤ 1024 ∧ field v 28 24 ≤ 16 ∧ (same ∨ s.frames = []) ∧
            ∀ p ∈ s.rowOwner, p.2 = true → 1024 * p.1 < 2 ^ 30 * field v 39 29
          (¬ ok → stops 1) ∧
          (ok → ∃ t, exec i s = .next t ∧ t.mem = s.mem ∧ t.teams = s.teams ∧ t.bringUp = (if s.bringUp = 1 then 2 else s.bringUp) ∧
            field (t.preg 0x810) 39 29 = field v 39 29 ∧ field (t.preg 0x810) 28 24 = field v 28 24 ∧
            (t.preg 0x810).getLsbD 23 = v.getLsbD 23 ∧ (∀ k, k ≠ 0x810 → t.preg k = s.preg k) ∧
            t.free = (if field v 39 29 = field (s.preg 0x810) 39 29 then s.free
              else (2 ^ 40 - 2 ^ 30 * field v 39 29) / 512 - s.chunkBad - s.reserve))) ∧
        (allowed → n = 0x830 →
          let ok := field v 8 0 < field v 24 16 ∧ field v 24 16 ≤ 288 ∧ s.view = none
          (¬ ok → stops 3) ∧
          (ok → ∃ t, exec i s = .next t ∧ t.mem = s.mem ∧ t.teams = s.teams ∧ t.bringUp = (if s.bringUp = 3 then 4 else s.bringUp) ∧
            field (t.preg 0x830) 24 16 = field v 24 16 ∧ field (t.preg 0x830) 8 0 = field v 8 0 ∧
            ∀ k, k ≠ 0x830 → t.preg k = s.preg k)) ∧
        (allowed → n = 0x853 →
          let x := s.preg 0x853
          let limit := field v 47 32
          let fits := 500 ≤ limit ∧ limit ≤ 3400
          ∃ t, exec i s = .next t ∧ { t with pregs := [] } = { s with pregs := [] } ∧ (∀ k, k ≠ 0x853 → t.preg k = s.preg k) ∧
            field (t.preg 0x853) 15 0 = field x 15 0 ∧ field (t.preg 0x853) 47 32 = (if fits then limit else field x 47 32) ∧
            field (t.preg 0x853) 63 48 = (field v 63 48 +
              (if fits ∧ limit < field x 15 0 ∧ field x 15 0 ≤ field x 47 32 then 1 else 0)) % 2 ^ 16)) ∧
      ∀ en : BitVec 5,
        let x := s.preg 0x851
        (s.owner ≠ numberOf s.writer → Denied s (.hostirqEnable en)) ∧
        (s.owner = numberOf s.writer → ∃ t, exec (.hostirqEnable en) s = .next t ∧ field (t.preg 0x851) 36 32 = en.toNat ∧
          field (t.preg 0x851) 31 0 = field x 31 0 ∧ (∀ n, n ≠ 0x851 → t.preg n = s.preg n) ∧
          { t with pregs := [], irqMsgs := 0 } = { s with pregs := [], irqMsgs := 0 } ∧
          t.irqMsgs = s.irqMsgs + (if field x 4 0 &&& field x 36 32 = 0 ∧ field x 4 0 &&& en.toNat ≠ 0 then 1 else 0))) ∧
  (∀ (s : State),
      (∀ addr bytes, s.owner ≠ 0 → Denied s (.hostAccess (.memWrite addr bytes))) ∧
      (∀ addr (bytes : List Byte), s.owner = 0 → bytes ≠ [] → addr + bytes.length ≤ s.frameEnd →
        (∀ a, addr ≤ a → a < addr + bytes.length →
          (∀ w, s.reach (a / 64 * 64) w = .ok) ∧ s.compressed a = false ∧ Map.find s.cLines (a / 64) = none) →
        ∃ t, exec (.hostAccess (.memWrite addr bytes)) s = .next t ∧ t.teams = s.teams ∧
          ∀ a, t.byteAt a = if addr ≤ a ∧ a < addr + bytes.length then bytes.getD (a - addr) 0 else s.byteAt a) ∧
      (∀ addr n, ∃ t, exec (.hostAccess (.memRead addr n)) s = .next t ∧
        (s.cLines = [] → t.mem = s.mem ∧ t.teams = s.teams)) ∧
      (∀ n, exec (.hostAccess (.regRead n)) s = .next s) ∧
      (s.owner ≠ numberOf s.writer → (∀ id own, Denied s (.hostAccess (.newContext id own))) ∧ (∀ id n v, Denied s (.hostAccess (.context id n v))) ∧
        ∀ id k v, Denied s (.hostAccess (.policy id k v))) ∧
      (s.owner = numberOf s.writer →
        (∀ id own, s.bringUp < 5 → exec (.hostAccess (.newContext id own)) s = .next s) ∧
        (∀ id own, 5 ≤ s.bringUp → 0 < id → id < 65536 → (∀ t ∈ s.teams, t.2.ctx ≠ id) →
          ∃ t, exec (.hostAccess (.newContext id own)) s = .next t ∧ Map.find t.ctxs id = some { nullCtx with owner := own } ∧
            (∀ k, k ≠ id → Map.find t.ctxs k = Map.find s.ctxs k) ∧ t.mem = s.mem ∧ t.teams = s.teams) ∧
        (∀ id n v c, Map.find s.ctxs id = some c → n = 0x40C ∨ n = 0x40A ∨ n = 0x440 → ∃ t,
          exec (.hostAccess (.context id n v)) s = .next t ∧ t.mem = s.mem ∧ t.teams = s.teams ∧
            (t.ctxOf id).sreg n = (c.sreg n &&& ~~~storedBits n) ||| (v &&& storedBits n) ∧
            (∀ k, k ≠ n → (t.ctxOf id).sreg k = c.sreg k) ∧ ∀ k, k ≠ id → Map.find t.ctxs k = Map.find s.ctxs k) ∧
        (∀ id k v, Map.has s.ctxs id = false → exec (.hostAccess (.policy id k v)) s = .next s) ∧
        (∀ id k v c, Map.find s.ctxs id = some c → ∃ t, exec (.hostAccess (.policy id k v)) s = .next t ∧ t.mem = s.mem ∧
          t.teams = s.teams ∧ (t.ctxOf id).policy = c.policy.set k (v &&& 0xFF) ∧
          ∀ j, j ≠ id → Map.find t.ctxs j = Map.find s.ctxs j)) ∧
      (∀ (version : FwImage) rsa slh,
        (rsa = true → slh = true → s.fwMin ≤ version.version.toNat → exec (.firmwareLoad version rsa slh) s = .next { s with
          firmware := version :: s.firmware.filter (fun i => i.kind != version.kind)
          bringUp := if version.kind = .boot ∧ s.bringUp = 0 then 1 else s.bringUp }) ∧
        (rsa = false ∨ slh = false ∨ version.version.toNat < s.fwMin → ∃ t, exec (.firmwareLoad version rsa slh) s = .next t ∧
          field (t.preg 0x854) 31 16 = (field (s.preg 0x854) 31 16 + 1) % 2 ^ 16 ∧
          { t with pregs := [], irqMsgs := 0 } = { s with pregs := [], irqMsgs := 0 })) ∧
      (∀ k i, s.firmware.find? (fun x => x.kind == k) = some i → s.fwImage k = i) ∧
      (∀ nonce (peer : Option AttestPeer),
        let images := [s.fwImage .boot, s.fwImage .runtime, s.fwImage .kernels]
        let derived := peer.map (fun p =>
          (⟨p, Config.ephemeral s.tick, Config.sessionKey p.session, Config.sessionSalt p.session⟩ : Exchange))
        ∃ t rest, exec (.attestation nonce peer) s = .next t ∧
          t.attested = ⟨nonce, Config.partNumber, Config.packageId, images, s.tag, Config.signRsa s.tick, Config.signSlh s.tick, derived⟩
            :: rest ∧
          (∀ a, a ∈ rest ↔ a ∈ s.attested ∧ (peer ≠ none → a.session ≠ peer.map (·.session))) ∧
          (∀ p, peer = some p → t.preg 0x843 = p.session.setWidth 64) ∧ (peer = none → t.preg 0x843 = s.preg 0x843) ∧
          (∀ k, k ≠ 0x843 → t.preg k = s.preg k) ∧ { t with attested := [], pregs := [] } = { s with attested := [], pregs := [] }) ∧
      exec .packageReset s = .next { State.reset with agenda := s.agenda, tick := s.tick + 1 } ∧
      (∀ watts : BitVec 16, let x := s.preg 0x853
        ∃ t, exec (.powerThrottle watts) s = .next t ∧ field (t.preg 0x853) 15 0 = watts.toNat ∧
          field (t.preg 0x853) 47 32 = field x 47 32 ∧ (∀ n, n ≠ 0x853 → t.preg n = s.preg n) ∧
          { t with pregs := [] } = { s with pregs := [] } ∧
          field (t.preg 0x853) 63 48 = (field x 63 48 +
            (if field x 47 32 < watts.toNat ∧ field x 15 0 ≤ field x 47 32 then 1 else 0)) % 2 ^ 16)) ∧
  ∀ (s : State) (ctx : Nat) (v : DWord),
    let scope := field v 2 0
    let n := [4096, 65536, 2 ^ 21, 2 ^ 25, 2 ^ 30].getD scope 0
    let va := 4096 * field v 56 12
    (s.owner ≠ numberOf s.writer → Denied s (.tlbinv ctx v)) ∧
    (s.owner = numberOf s.writer → 5 < scope → exec (.tlbinv ctx v) s = .next s) ∧
    (s.owner = numberOf s.writer → scope ≤ 5 → ∃ t, exec (.tlbinv ctx v) s = .next t ∧ { t with tlb := [] } = { s with tlb := [] } ∧
      ∀ e, e ∈ t.tlb ↔ e ∈ s.tlb ∧ ¬ (e.ctx = ctx ∧ (scope = 5 ∨ (e.va < va + n ∧ va < e.va + e.size))))

/-! ## Locket (R400 to R403) -/

namespace Sys2Proof.Machine.Claims

/-- Entry j of the range table, as R400 lays it out, can be read and is a range. -/
structure EntryIs (s : State) (j : Nat) (r : Range) : Prop where
  readable : s.reach ((16 * field (s.preg 0x841) 47 4 + 16 * j) / 64 * 64) false = .ok
  base : natOfBytes (Map.bytes s.mem (16 * field (s.preg 0x841) 47 4 + 16 * j) 8) = r.base
  count : natOfBytes (Map.bytes s.mem (16 * field (s.preg 0x841) 47 4 + 16 * j + 8) 8) = r.count
  granular : r.base % 4096 = 0 ∧ r.base < 2 ^ 48 ∧ r.count < 2 ^ 32
  installed : r.base + 4096 * r.count ≤ s.frameEnd

/-- The whole table, entries 0 to `lkrng.n`. -/
def TableIs (s : State) (rs : List Range) : Prop :=
  rs.length = field (s.preg 0x841) 59 48 + 1 ∧ ∀ j r, rs[j]? = some r → EntryIs s j r

/-- No line of the table makes a reader wait, and one of its entries is no range. -/
def TableBreaks (s : State) : Prop :=
  (∀ j ≤ field (s.preg 0x841) 59 48, s.reach ((16 * field (s.preg 0x841) 47 4 + 16 * j) / 64 * 64) false ≠ .wait) ∧
    ∃ j ≤ field (s.preg 0x841) 59 48, ∀ r, ¬ EntryIs s j r

/-- A range holds an in-bank row, or the context that Locket sends an in-bank session, on a core or in an image (R402). -/
def AnyInBank (s : State) (rs : List Range) : Prop :=
  (∃ p ∈ s.rowOwner, p.2 = true ∧ ∃ r ∈ rs, r.base ≤ 1024 * p.1 ∧ 1024 * p.1 < r.base + 4096 * r.count) ∨
    ∃ x ∈ s.sessions, (Map.has s.teams x.team = true ∧ (s.teamOf x.team).ctx = field (s.preg 0x840) 63 48) ∨
      ∃ i ∈ (s.ctxOf (field (s.preg 0x840) 63 48)).images, (field (s.preg 0x840) 63 48, i.1) ∉ s.received ∧
        ∃ r ∈ i.2, r.names x.team = true

/-- Every granule of the ranges that is to be sent can be read: all of them, or those that a harvest finds. -/
def Deliverable (s : State) (rs : List Range) (all : Bool) : Prop :=
  ∀ r ∈ rs, ∀ i < r.count, all = true ∨ Map.get false s.dirty (r.base / 4096 + i) = true →
    ∀ k < 64, s.reach (r.base + 4096 * i + 64 * k) false = .ok

/-- The messages that an update adds are sealed in order, each with the session's salt and the next value of the counter (R403). -/
def Seals (s t : State) (n : Nat) : Prop :=
  ∃ l, t.locket.out = s.locket.out ++ l ∧ l.length = n ∧ t.locket.counter = s.locket.counter + n ∧
    ∀ k m, l[k]? = some m → m.seq = s.locket.counter + k ∧
      m.nonce = Config.sessionSalt ((s.preg 0x843).extractLsb' 0 16) ++ BitVec.ofNat 64 (s.locket.counter + k)

/-- A round of granules by a harvest: each recorded granule of the ranges is sent under the round's number, and none is recorded any
more (R401). -/
def Harvests (s t : State) (rs : List Range) (round extra bytes : Nat) : Prop :=
  Seals s t (t.locket.sent + extra) ∧ t.preg 0x845 = s.preg 0x845 + BitVec.ofNat 64 (4096 * t.locket.sent + bytes) ∧
    (∀ r ∈ rs, ∀ i < r.count, Map.get false t.dirty (r.base / 4096 + i) = false ∧
      (Map.get false s.dirty (r.base / 4096 + i) = true →
        ∃ m ∈ t.locket.out, m.source = r.base + 4096 * i ∧ m.round = round)) ∧
    t.mem = s.mem ∧ t.teams = s.teams

end Sys2Proof.Machine.Claims

/-- R400 to R403: a pre-copy sends every granule of its ranges and then what each harvest finds, to its last round; stop-and-copy stops
the context, sends the last harvest and the images once its teams are saved, and ends with the last acknowledgement; a receiver
writes a granule where its own table says, unless a later round's data is there; refusals, failures and an abort end a transfer
with their status; a command of a master that is not the owner is denied.
The rounds by granule, the bytes of an image, and the status of a session that is not attested, are the model's readings (logs 12 and
37). -/
def Obligations.LocketTransfers : Prop :=
  ∀ s : State,
    let m := s.writer
    let l := s.locket
    let ctx := field (s.preg 0x840) 63 48
    let becomes := fun (i : Instr) (x : Locket) => exec i s = .next { s with locket := x }
    let ends := fun (i : Instr) (st : Nat) => ∃ t, exec i s = .next t ∧ t.locket = { l with
        st := st, receives := false, out := [], stopping := false } ∧ t.mem = s.mem ∧ t.teams = s.teams ∧
      (l.st = 3 → (t.ctxOf ctx).stopped = false)
    let first := fun (i : Instr) (l : Locket) (rs : List Range) =>
      let n := (rs.map (·.count)).sum
      ∃ t, exec i s = .next t ∧ t.locket.st = 1 ∧ t.locket.round = 1 ∧ t.locket.sent = n ∧
        Seals { s with locket := l } t n ∧
        (∀ j r, rs[j]? = some r → ∀ i < r.count, ∃ p ∈ t.locket.out, p.range = j ∧ p.offset = i ∧ p.source = r.base + 4096 * i ∧
          p.round = 1) ∧
        t.preg 0x845 = s.preg 0x845 + BitVec.ofNat 64 (4096 * n) ∧ t.mem = s.mem ∧ t.teams = s.teams
    let idle := l.st ≠ 1 ∧ l.st ≠ 3 ∧ l.receives = false
    let attested := ∃ a ∈ s.attested, a.session = some ((s.preg 0x843).extractLsb' 0 16)
    let active := l.st = 1 ∨ l.st = 2 ∨ l.st = 3 ∨ l.receives = true
    (s.owner ≠ numberOf m → Denied s .locketPrecopy ∧ Denied s .locketStopAndCopy ∧ Denied s .locketAbort ∧
      Denied s .locketReceive) ∧
    (s.owner = numberOf m →
      (¬ idle → exec .locketPrecopy s = .next s ∧ exec .locketStopAndCopy s = .next s) ∧
      (idle → ¬ attested → ends .locketPrecopy 7 ∧ ends .locketStopAndCopy 7) ∧
      (idle → attested → s.cLines = [] → TableBreaks s → ends .locketStopAndCopy 5 ∧
        ∃ t, exec .locketPrecopy s = .next t ∧ t.mem = s.mem ∧ t.teams = s.teams ∧
          t.locket = { l with st := 5, round := 0, sent := 0, receives := false, out := [], stopping := false }) ∧
      (idle → attested → s.cLines = [] → ∀ rs, TableIs s rs →
        (Deliverable s rs true → first .locketPrecopy { l with out := [] } rs) ∧
        (AnyInBank s rs → ends .locketStopAndCopy 5) ∧
        (¬ AnyInBank s rs → Deliverable s rs false → ∃ t, exec .locketStopAndCopy s = .next t ∧ t.locket.st = 3 ∧ (t.ctxOf ctx).stopped = true ∧
          ((∃ x ∈ s.teams, x.2.ctx = ctx ∧ x.2.groups ≠ []) → t.locket = { l with st := 3, stopping := true } ∧
            ∀ x ∈ s.teams, x.2.ctx = ctx → x.2.groups ≠ [] → Map.find s.teams x.1 = some x.2 → x.2.status = .resident →
              x.2.ending = none → s.canSave x.1 = true → (∀ y ∈ s.teams, y.2.ctx = ctx → y.2.groups ≠ [] → y = x) →
              (t.teamOf x.1).request ≠ none) ∧
          ((∀ x ∈ s.teams, x.2.ctx = ctx → x.2.groups = []) → t.locket.stopping = false ∧
            Harvests s t rs l.round ((s.ctxOf ctx).images.length + 1) ((s.ctxOf ctx).imageBytes (s.view.map (·.2)))))) ∧
      (active → ends .locketAbort 8) ∧ (¬ active → exec .locketAbort s = .next s) ∧
      (l.st = 1 ∨ l.st = 3 → exec .locketReceive s = .next s) ∧
      (l.st ≠ 1 → l.st ≠ 3 → (¬ attested → ends .locketReceive 7) ∧
        (attested → becomes .locketReceive { l with st := 0, receives := true, out := [], got := [] }))) ∧
    (l.st ≠ 1 → (l.st = 3 → l.stopping = false) → exec .preCopyRoundEnd s = .next s) ∧
    (l.st = 1 → l.round = 0 → s.cLines = [] → ∀ rs, TableIs s rs → Deliverable s rs true → first .preCopyRoundEnd l rs) ∧
    (l.st = 1 → l.round ≠ 0 →
      (l.sent ≤ (s.preg 0x842).toNat % 2 ^ 32 ∨ field (s.preg 0x840) 7 4 ≤ l.round → becomes .preCopyRoundEnd { l with st := 2 }) ∧
      ((s.preg 0x842).toNat % 2 ^ 32 < l.sent → l.round < field (s.preg 0x840) 7 4 → s.cLines = [] →
        (TableBreaks s → ends .preCopyRoundEnd 5) ∧
        ∀ rs, TableIs s rs → Deliverable s rs false → ∃ t, exec .preCopyRoundEnd s = .next t ∧ t.locket.st = 1 ∧
          t.locket.round = l.round + 1 ∧
          Harvests s t rs (l.round + 1) 0 0)) ∧
    (l.st = 3 → l.stopping = true → (∀ x ∈ s.teams, x.2.ctx = ctx → x.2.groups = []) → s.cLines = [] → ∀ rs, TableIs s rs →
      (AnyInBank s rs → ends .preCopyRoundEnd 5) ∧
      (¬ AnyInBank s rs → Deliverable s rs false → ∃ t, exec .preCopyRoundEnd s = .next t ∧ t.locket.st = 3 ∧
        t.locket.stopping = false ∧
        Harvests s t rs l.round ((s.ctxOf ctx).images.length + 1) ((s.ctxOf ctx).imageBytes (s.view.map (·.2))))) ∧
    (active → ends .scaleOutLinkFailure 6) ∧ (¬ active → exec .scaleOutLinkFailure s = .next s) ∧
    (∀ seq body,
      let i : Instr := .locketMessage seq body
      (l.receives = false → exec i s = .next s) ∧
      (l.receives = true →
        (body = .badTag → ends i 7) ∧
        (∀ slot, body = .image slot → exec i s = .next s) ∧
        ∀ round j off source bytes, body = .granule round j off source bytes →
          (field (s.preg 0x841) 59 48 < j → ends i 5) ∧
          (j ≤ field (s.preg 0x841) 59 48 → s.cLines = [] →
            (s.reach ((16 * field (s.preg 0x841) 47 4 + 16 * j) / 64 * 64) false = .wait → exec i s = .next s) ∧
            (s.reach ((16 * field (s.preg 0x841) 47 4 + 16 * j) / 64 * 64) false ≠ .wait → (∀ r, ¬ EntryIs s j r) → ends i 5) ∧
            ∀ r, EntryIs s j r →
              let at_ := r.base + 4096 * off
              let key := 4294967296 * j + off
              (r.count ≤ off → ends i 5) ∧
              (off < r.count →
                (round < Map.get 0 l.got key → ∃ t, exec i s = .next t ∧ t.locket = l ∧ t.mem = s.mem ∧ t.teams = s.teams) ∧
                (Map.get 0 l.got key ≤ round →
                  ((∃ k < 64, s.reach (at_ + 64 * k) true = .wait) → exec i s = .next s) ∧
                  ((∃ k < 64, s.reach (at_ + 64 * k) true ≠ .ok) → (∀ k < 64, s.reach (at_ + 64 * k) true ≠ .wait) → ends i 5) ∧
                  (bytes.length = 4096 → s.compressed (at_ + 4095) = false → (∀ k < 64, s.reach (at_ + 64 * k) true = .ok) →
                    ∃ t, exec i s = .next t ∧ t.locket = { l with got := Map.put l.got key round } ∧ t.teams = s.teams ∧
                      ∀ a, t.byteAt a = if at_ ≤ a ∧ a < at_ + 4096 then bytes.getD (a - at_) 0 else s.byteAt a)))))) ∧
    ∀ st,
      let i : Instr := .locketAcknowledgement st
      let sends := l.st = 1 ∨ l.st = 2 ∨ l.st = 3
      (¬ sends → exec i s = .next s) ∧
      (sends →
        (st = 5 ∨ st = 7 → ends i st) ∧ (st ≠ 0 → st ≠ 5 → st ≠ 7 → exec i s = .next s) ∧
        (st = 0 → becomes i { l with
          out := l.out.tail, st := if l.st = 3 ∧ l.stopping = false ∧ l.out.length ≤ 1 then 4 else l.st }))

/-- R64, R97, R198, R215, R220, R224, R241, R296: a parked fragment whose wait has ended either issues its instruction again or goes on
after it, and one whose wait has not ended keeps waiting; where the instruction was an explicit safe point and pre-emption is
requested, its group stops once it goes on. A wait on another team's clasp ends only with the phase, or with 0x10A where that
team is frozen.
That an instruction which issues again does so in a step of its own is the model's choice (log 18). -/
def Obligations.FragmentsUnpark : Prop :=
  ∀ (s : State) (r : FragRef) (w : Park), (s.fragAt r).park = some w →
    let tm := s.teamOf r.team
    let f := s.fragAt r
    let i : Instr := .fragmentUnpark r
    let others := fun (t : State) => ∀ x, x ≠ r → t.fragAt x = s.fragAt x
    let again := ∃ t, exec i s = .next t ∧ t.rest = s.rest ∧ t.fragAt r = { f with park := none, later := [], sp := false } ∧
      { t.groupAt r.team r.group with frags := [] } = { s.groupAt r.team r.group with frags := [] } ∧ others t
    let stops := f.sp = true ∧ tm.request ≠ none
    let goesOn := fun (left : State → Prop) => ∃ t, exec i s = .next t ∧ left t ∧ t.rest = s.rest ∧
      (t.fragAt r).park = none ∧ (t.fragAt r).pc = nextPc f.pc ∧ (t.fragAt r).em = f.em ∧ (t.fragAt r).om = f.om ∧
      (t.groupAt r.team r.group).v = (s.groupAt r.team r.group).v ∧ (t.groupAt r.team r.group).p = (s.groupAt r.team r.group).p ∧
      (stops → (t.groupAt r.team r.group).stop ≠ none) ∧ (¬ stops → (t.groupAt r.team r.group).stop = none ∧ others t)
    let keeps := fun (t : State) => (t.groupAt r.team r.group).s = (s.groupAt r.team r.group).s
    let stays := exec i s = .next s
    (s.live r = false ∨ (s.groupAt r.team r.group).stop ≠ none ∨ tm.status ≠ .resident → stays) ∧
    (s.live r = true → (s.groupAt r.team r.group).stop = none → tm.status = .resident →
      (∀ team lines, w = .lines team lines →
        ((s.teamOf team).absentOf lines = [] → again) ∧ ((s.teamOf team).absentOf lines ≠ [] → stays)) ∧
      (∀ team a ph, w = .clasp team a ph →
        (team = r.team ∨ (s.teamOf team).status ≠ .frozen → stays) ∧
        (team ≠ r.team → (s.teamOf team).status = .frozen → ∀ u at_ line, f.line = some (at_, line) →
          let route : DWord := ((slotBits line (slotOfPc f.pc)).extractLsb' 0 16).setWidth 64
          CanEnter s r { code := 0x10A, addr := f.pc, info0 := route, resume := f.pc } u →
          ∃ t, exec i s = .next t ∧ (t.fragAt r).park = none ∧ (t.groupAt r.team r.group).ent = true ∧
            field ((t.groupAt r.team r.group).tfReg 0x470) 8 0 = 0x10A ∧ (t.groupAt r.team r.group).tfReg 0x471 = f.pc ∧
            (t.groupAt r.team r.group).tfReg 0x473 = route ∧ (t.groupAt r.team r.group).tfReg 0x477 = f.pc)) ∧
      (∀ d x, w = .got d x → goesOn (fun t => (t.groupAt r.team r.group).ureg d = x ∧
        ∀ n, n ≠ d → (t.groupAt r.team r.group).ureg n = (s.groupAt r.team r.group).ureg n)) ∧
      (w = .again .entry → (r ∈ tm.granted → again) ∧ (r ∉ tm.granted → stays)) ∧
      (∀ n, w = .again (.window n) → ((tm.window n).state ≠ 2 → again) ∧ ((tm.window n).state = 2 → stays)) ∧
      (∀ nc sys, w = .again (.fence nc sys) →
        (s.fenceDone r.team r.group nc sys = false → stays) ∧
        (s.fenceDone r.team r.group nc sys = true →
          (nc = false ∨ Map.get [] s.nc tm.core = [] → goesOn keeps) ∧
          (nc = true → s.flushStop tm.core ≠ none → again) ∧
          (nc = true → s.flushStop tm.core = none → ∃ t, exec i s = .next t ∧ (t.fragAt r).park = none ∧ (t.fragAt r).pc = nextPc f.pc))) ∧
      (∀ n, w = .again (.batch n) →
        let k := (s.openBatches r.team r.group (s.groupAt r.team r.group).batch).length
        (n = none → (k < 16 → again) ∧ (16 ≤ k → stays)) ∧
        (∀ m, n = some m → (k ≤ m → goesOn keeps) ∧ (m < k → stays))) ∧
      (w = .again .producer → (Map.has s.producers tm.core = false → again) ∧ (Map.has s.producers tm.core = true → stays)) ∧
      (w = .again .note → ((s.ctxOf tm.ctx).notes ≠ [] → again) ∧ ((s.ctxOf tm.ctx).notes = [] → stays)) ∧
      (w = .again .memory → again) ∧
      (w = .opener ∨ w = .bankFence ∨ w = .bankTurn ∨ (∃ d, w = .joining d) → stays))

/-! ## Encodings (R56 to R68, R255, R342) -/

/-- R56 to R68: every well-formed slot of the opcode map has a word, the word decodes to that slot with every operand, and no other word
does. -/
def Obligations.SlotEncodingRoundTrips : Prop :=
  ∀ s : Slot, WellFormed s = true → (s.ins.isEvent = false → encodeStream s.ins = none → (encode s).isSome = true) ∧
    ∀ w, encode s = some w ↔ decode w = .ok s

/-- R255, R342: the word of a micro-operation or of an in-bank command decodes to it, and no word decodes to two. -/
def Obligations.WordEncodingsRoundTrip : Prop :=
  (∀ (i : Instr) (w : BitVec 32), encodeStream i = some w ↔ decodeStream w = some i) ∧
  (∀ (c : BguCmd), (match c with
      | .openRow all b cx k _ => (all = true → b = 0) ∧ (cx = false → k = 0)
      | .mac _ cj k _ _ | .macx _ cj k _ _ _ => cj = false → k = 0
      | .stacc _ half hi _ => half = false → hi = false
      | _ => True) →
    decodeBgu (encodeBgu c) = some c) ∧
  ∀ (c : BguCmd) (w : BitVec 32), decodeBgu w = some c → encodeBgu c = w

/-! ## Reset, steps -/

/-- The owner registers after reset, as the registers' tables give them (R54, R104, R107, R326, R355, R381, R400, R405 to R413); `capfree`
shows the whole DRAM in the pool. Nothing runs, no context exists, no view is held, every row is load-store, no core is retired,
and there is no owner.
That no frame is assigned is the model's choice (log 1). -/
def Obligations.StateAfterReset : Prop :=
  let s := State.reset
  (∀ p ∈ [(0x800, 65536), (0x801, 0), (0x802, 0), (0x803, 0), (0x804, 0), (0x805, 0), (0x810, 0), (0x811, 4096 * 2 ^ 32 + 65536),
      (0x812, 2 ^ 40 / 512), (0x813, 0), (0x814, 100000), (0x815, 0), (0x816, 0), (0x817, 0), (0x818, 0), (0x819, 0), (0x81B, 0),
      (0x81C, 0), (0x820, 10000), (0x821, 0), (0x830, 1 * 2 ^ 16), (0x831, 50 * 2 ^ 16 + 5), (0x832, 0), (0x833, 100), (0x834, 0),
      (0x835, 0), (0x840, 8 * 2 ^ 4), (0x841, 0), (0x842, 4096), (0x843, 0), (0x844, 0), (0x845, 0), (0x850, 3 * 2 ^ 62), (0x851, 0),
      (0x853, 3400 * 2 ^ 32), (0x854, 0)],
    (s.readOwner p.1).toNat = p.2) ∧
  s.teams = [] ∧ s.ctxs = [] ∧ s.producers = [] ∧ s.sessions = [] ∧ s.view = none ∧ s.shutOut = true ∧ s.owner = 3 ∧ s.retired = 0 ∧
  (∀ row, Map.get false s.rowOwner row = false) ∧ s.frames = [] ∧ s.copies = [] ∧ s.colls = []

/-- The memory after reset is in its canonical form.
The form is the model's own (log 1). -/
def Obligations.MemoryCanonicalAtReset : Prop := State.reset.Canonical

/-- Every step keeps the canonical form of memory, whatever moves: slots of every instruction, agents of the package, and the world
outside.
The form is the model's own (log 1). -/
def Obligations.StepsKeepMemoryCanonical : Prop :=
  ∀ s t : State, s.Canonical → step s = .next t → t.Canonical

/-- A few words of the manual and what they hold: `ld`, `add.i32`, `st.n32`, `lop3`, `ffma`, `mfsp`, `trap`, `fence.dom`, `ibread`,
`coll.allred.mean.reweight`; producer words; in-bank words. -/
def Obligations.WordsOfTheManual : Prop :=
  decodeTableWord 96 0x107006030102000000000000 =
    some (.add ⟨.i32, 3, 1, 2, 0, false, .rne, false, false, false, 0, 0⟩) ∧
  decodeTableWord 96 0x802202041840000000000040 = some (.ld ⟨.n32, 4, 3, 8, 0, 0, 0, 0, 64⟩) ∧
  decodeTableWord 96 0x817002092830000000000008 = some (.st ⟨.n32, 9, 5, 6, 0, 0, 0, 0, 8⟩) ∧
  decodeTableWord 96 0x1270520701020300000000F8 =
    some (.lop3 ⟨.n32, 7, 1, 2, 3, false, .rne, false, false, false, 0, 0xF8⟩) ∧
  decodeTableWord 96 0x4270080A0102030000000000 =
    some (.ffma ⟨.f32, 10, 1, 2, 3, false, .rne, false, false, false, 0, 0⟩) ∧
  decodeTableWord 96 0xE27000120500000000000000 = some (.mfsp ⟨0x012, 5, 0⟩) ∧
  decodeTableWord 96 0xC57000080300000000000000 = some (.ibread ⟨0, 8, 3, 0, 0, 0, 0, 0, 0⟩) ∧
  decodeTableWord 96 0xE070000000000000000001E5 = some .trap ∧
  decodeTableWord 96 0x997000000000000000000000 = some .fenceDom ∧
  decodeTableWord 96 0xD07001000406001000000001 = some (.collAllred ⟨1, 0, 4, 6, 0, 0, 2, 0, 1⟩) ∧
  decodeTableWord 32 0x40010000 = some (.tld false true 0) ∧
  decodeTableWord 32 0x32100000 = some (.lut 2 1 false) ∧
  decodeTableWord 32 0x70400000 = some (.push 4 false 0) ∧
  decodeTableWord 32 0x90500002 = some (.streamLoop 5 2) ∧
  decodeBgu 0x08000005 = some (.openRow false 0 false 0 5) ∧
  decodeBgu 0x1C000001 = some (.mac true false 0 0 1) ∧
  decodeBgu 0x60000000 = some .halt ∧
  decodeTableWord 96 0xF00000000000000000000000 = none ∧ decodeBgu 0x68000000 = none
end

