-- ==== Sys2Proof/Laws/Maps.lean ====
section
/-!
SUPPORT. Sys2Proof/Laws/Maps.lean: what a key reads as after each operation on keyed data, on any list, canonical or not; and that
the operations keep the canonical form.
-/

namespace Sys2Proof.Machine

variable {α : Type}

@[simp] theorem Map.get_nil (d : α) (i : Nat) : Map.get d [] i = d := rfl

theorem Map.get_erase (d : α) (m : Map α) (i j : Nat) :
    Map.get d (Map.erase m i) j = if i = j then d else Map.get d m j := by
  induction m with
  | nil => simp [Map.erase]
  | cons p m ih =>
    obtain ⟨k, v⟩ := p
    by_cases h : k = i
    · subst h; by_cases h2 : k = j <;> simp_all [Map.erase, Map.get]
    · by_cases h2 : k = j
      · subst h2; simp [Map.erase, Map.get, h, Ne.symm h]
      · simp [Map.erase, Map.get, h, h2, ih]

theorem Map.get_put (d : α) (m : Map α) (i j : Nat) (x : α) :
    Map.get d (Map.put m i x) j = if i = j then x else Map.get d m j := by
  induction m with
  | nil => simp [Map.put, Map.get]
  | cons p m ih =>
    obtain ⟨k, v⟩ := p
    unfold Map.put
    split
    · simp [Map.get]
    · split
      · next h => subst h; by_cases hj : k = j <;> simp [Map.get, Map.get_erase, hj]
      · next h =>
        by_cases hj : k = j
        · subst hj; simp [Map.get, Ne.symm h]
        · simp [Map.get, hj, ih]

@[simp] theorem Map.get_put_self (d : α) (m : Map α) (i : Nat) (x : α) : Map.get d (Map.put m i x) i = x := by
  simp [Map.get_put]

theorem Map.get_put_ne (d : α) (m : Map α) (i j : Nat) (x : α) (h : i ≠ j) :
    Map.get d (Map.put m i x) j = Map.get d m j := by simp [Map.get_put, h]

theorem Map.get_set [DecidableEq α] (d : α) (m : Map α) (i j : Nat) (x : α) :
    Map.get d (Map.set d m i x) j = if i = j then x else Map.get d m j := by
  unfold Map.set; split <;> simp_all [Map.get_erase, Map.get_put]

theorem Map.get_modify (d : α) (m : Map α) (i j : Nat) (f : α → α) :
    Map.get d (Map.modify d m i f) j = if i = j then f (Map.get d m i) else Map.get d m j := by
  simp [Map.modify, Map.get_put]

/-- Every entry of a put is the new one or an old one. -/
theorem Map.mem_put (m : Map α) (i : Nat) (x : α) (p : Nat × α) (h : p ∈ Map.put m i x) : p = (i, x) ∨ p ∈ m := by
  induction m with
  | nil => simpa [Map.put] using h
  | cons q m ih =>
    obtain ⟨k, v⟩ := q
    have er : ∀ (m : Map α), p ∈ Map.erase m i → p ∈ m := by
      intro m; induction m with
      | nil => simp [Map.erase]
      | cons q m ih2 =>
        obtain ⟨k, v⟩ := q
        unfold Map.erase
        split <;> simp only [List.mem_cons] <;> tauto
    unfold Map.put at h
    split at h
    · simp_all
    · split at h
      · simp only [List.mem_cons] at h ⊢
        rcases h with h | h
        · exact .inl h
        · exact .inr (.inr (er m h))
      · simp only [List.mem_cons] at h ⊢
        tauto

theorem Map.put_mem (m : Map α) (i : Nat) (x : α) : (i, x) ∈ Map.put m i x := by
  induction m with
  | nil => simp [Map.put]
  | cons q m ih =>
    obtain ⟨k, v⟩ := q
    unfold Map.put
    split
    · simp
    · split <;> simp [ih]

theorem Map.mem_erase (m : Map α) (i : Nat) (p : Nat × α) : p ∈ Map.erase m i ↔ p ∈ m ∧ p.1 ≠ i := by
  induction m with
  | nil => simp [Map.erase]
  | cons q m ih =>
    obtain ⟨k, v⟩ := q
    unfold Map.erase
    split
    · next h => subst h; rw [ih]; constructor
                · rintro ⟨a, b⟩; exact ⟨by simp [a], b⟩
                · rintro ⟨a, b⟩; simp only [List.mem_cons] at a
                  rcases a with rfl | a
                  · exact absurd rfl b
                  · exact ⟨a, b⟩
    · next h => simp only [List.mem_cons, ih]; constructor
                · rintro (rfl | ⟨a, b⟩)
                  · exact ⟨.inl rfl, h⟩
                  · exact ⟨.inr a, b⟩
                · rintro ⟨rfl | a, b⟩
                  · exact .inl rfl
                  · exact .inr ⟨a, b⟩

/-! ## The canonical form -/

theorem Map.rising_iff (m : Map α) : Map.rising m = true ↔ m.Pairwise (fun a b => a.1 < b.1) := by
  induction m with
  | nil => simp [Map.rising]
  | cons p m ih =>
    obtain ⟨k, v⟩ := p
    cases m with
    | nil => simp [Map.rising]
    | cons q m =>
      obtain ⟨j, y⟩ := q
      simp only [Map.rising, Bool.and_eq_true, decide_eq_true_eq, ih, List.pairwise_cons, List.mem_cons]
      constructor
      · rintro ⟨h, h1, h2⟩
        refine ⟨?_, h1, h2⟩
        rintro p (rfl | hp)
        · exact h
        · exact Nat.lt_trans h (h1 p hp)
      · rintro ⟨h, h1⟩
        exact ⟨h _ (.inl rfl), h1⟩

theorem Map.wf_iff [DecidableEq α] (d : α) (m : Map α) :
    Map.wf d m = true ↔ m.Pairwise (fun a b => a.1 < b.1) ∧ ∀ p ∈ m, p.2 ≠ d := by
  simp [Map.wf, Map.rising_iff]

theorem Map.erase_pairwise (m : Map α) (i : Nat) (h : m.Pairwise (fun a b => a.1 < b.1)) :
    (Map.erase m i).Pairwise (fun a b => a.1 < b.1) := by
  induction m with
  | nil => simp [Map.erase]
  | cons q m ih =>
    obtain ⟨k, v⟩ := q
    rw [List.pairwise_cons] at h
    unfold Map.erase
    split
    · exact ih h.2
    · rw [List.pairwise_cons]
      exact ⟨fun p hp => h.1 p ((Map.mem_erase m i p).1 hp).1, ih h.2⟩

theorem Map.put_pairwise (m : Map α) (i : Nat) (x : α) (h : m.Pairwise (fun a b => a.1 < b.1)) :
    (Map.put m i x).Pairwise (fun a b => a.1 < b.1) := by
  induction m with
  | nil => simp [Map.put]
  | cons q m ih =>
    obtain ⟨k, v⟩ := q
    have h' := h
    rw [List.pairwise_cons] at h
    unfold Map.put
    split
    · next hk =>
      rw [List.pairwise_cons]
      refine ⟨?_, h'⟩
      intro p hp
      rw [List.mem_cons] at hp
      rcases hp with rfl | hp
      · exact hk
      · exact Nat.lt_trans hk (h.1 p hp)
    · split
      · next hk hi =>
        subst hi
        rw [List.pairwise_cons]
        exact ⟨fun p hp => h.1 p ((Map.mem_erase m k p).1 hp).1, Map.erase_pairwise m k h.2⟩
      · next hk hi =>
        rw [List.pairwise_cons]
        refine ⟨?_, ih h.2⟩
        intro p hp
        rcases Map.mem_put m i x p hp with rfl | hp
        · show k < i; omega
        · exact h.1 p hp

theorem Map.wf_erase [DecidableEq α] (d : α) (m : Map α) (i : Nat) (h : Map.wf d m = true) :
    Map.wf d (Map.erase m i) = true := by
  rw [Map.wf_iff] at *
  exact ⟨Map.erase_pairwise m i h.1, fun p hp => h.2 p ((Map.mem_erase m i p).1 hp).1⟩

theorem Map.wf_set [DecidableEq α] (d : α) (m : Map α) (i : Nat) (x : α) (h : Map.wf d m = true) :
    Map.wf d (Map.set d m i x) = true := by
  unfold Map.set
  split
  · exact Map.wf_erase d m i h
  · next hx =>
    rw [Map.wf_iff] at *
    refine ⟨Map.put_pairwise m i x h.1, fun p hp => ?_⟩
    rcases Map.mem_put m i x p hp with rfl | hp
    · exact hx
    · exact h.2 p hp

theorem Map.wf_setBytes (m : Map Byte) (a : Nat) (bs : List Byte) (h : Map.wf 0 m = true) :
    Map.wf 0 (Map.setBytes m a bs) = true := by
  induction bs generalizing m a with
  | nil => exact h
  | cons b bs ih => exact ih _ _ (Map.wf_set 0 m a b h)

theorem Map.wf_filter [DecidableEq α] (d : α) (m : Map α) (f : Nat × α → Bool) (h : Map.wf d m = true) :
    Map.wf d (m.filter f) = true := by
  rw [Map.wf_iff] at *
  exact ⟨h.1.filter f, fun p hp => h.2 p (List.mem_filter.1 hp).1⟩

theorem Map.wf_foldl [DecidableEq α] {β : Type} (d : α) (l : List β) (f : Map α → β → Map α) (m : Map α)
    (hf : ∀ m x, Map.wf d m = true → Map.wf d (f m x) = true) (h : Map.wf d m = true) :
    Map.wf d (l.foldl f m) = true := by
  induction l generalizing m with
  | nil => exact h
  | cons x l ih => exact ih _ (hf m x h)

theorem Map.wf_foldr [DecidableEq α] {β : Type} (d : α) (l : List β) (f : β → Map α → Map α) (m : Map α)
    (hf : ∀ m x, Map.wf d m = true → Map.wf d (f x m) = true) (h : Map.wf d m = true) :
    Map.wf d (l.foldr f m) = true := by
  induction l with
  | nil => exact h
  | cons x l ih => exact hf _ _ ih

/-! ## Bytes -/

/-- A byte after bytes were written upward from an address. -/
theorem Map.get_setBytes (m : Map Byte) (a : Nat) (bs : List Byte) (i : Nat) :
    Map.get 0 (Map.setBytes m a bs) i = if a ≤ i ∧ i < a + bs.length then bs.getD (i - a) 0 else Map.get 0 m i := by
  induction bs generalizing m a with
  | nil => simp only [Map.setBytes, List.length_nil, Nat.add_zero]; rw [if_neg (by omega)]
  | cons b bs ih =>
    rw [Map.setBytes, ih, Map.get_set]
    by_cases h : a = i
    · subst h; simp
    · by_cases h2 : a + 1 ≤ i ∧ i < a + 1 + bs.length
      · rw [if_pos h2, if_pos (by simp; omega)]
        obtain ⟨k, rfl⟩ : ∃ k, i = a + (k + 1) := ⟨i - a - 1, by omega⟩
        simp [show a + (k + 1) - (a + 1) = k by omega]
      · rw [if_neg h2, if_neg h, if_neg (by simp only [List.length_cons]; omega)]

end Sys2Proof.Machine
end

