-- ==== Sys2Proof/Laws/State.lean ====
section
/-!
SUPPORT. Sys2Proof/Laws/State.lean: what each update of the state leaves as it was, a lemma for each field, and what its own field
becomes, so that no proof unfolds a record update.
-/

namespace Sys2Proof.Machine

/-! ## `State.updTeam` -/

@[simp] theorem State.updTeam_now (s : State) (t : Nat) (f : Team → Team) : (s.updTeam t f).now = s.now := rfl
@[simp] theorem State.updTeam_tick (s : State) (t : Nat) (f : Team → Team) : (s.updTeam t f).tick = s.tick := rfl
@[simp] theorem State.updTeam_agenda (s : State) (t : Nat) (f : Team → Team) : (s.updTeam t f).agenda = s.agenda := rfl
@[simp] theorem State.updTeam_cur (s : State) (t : Nat) (f : Team → Team) : (s.updTeam t f).cur = s.cur := rfl
@[simp] theorem State.updTeam_mem (s : State) (t : Nat) (f : Team → Team) : (s.updTeam t f).mem = s.mem := rfl
@[simp] theorem State.updTeam_vbase (s : State) (t : Nat) (f : Team → Team) : (s.updTeam t f).vbase = s.vbase := rfl
@[simp] theorem State.updTeam_vcount (s : State) (t : Nat) (f : Team → Team) : (s.updTeam t f).vcount = s.vcount := rfl
@[simp] theorem State.updTeam_lineOwner (s : State) (t : Nat) (f : Team → Team) : (s.updTeam t f).lineOwner = s.lineOwner := rfl
@[simp] theorem State.updTeam_cLines (s : State) (t : Nat) (f : Team → Team) : (s.updTeam t f).cLines = s.cLines := rfl
@[simp] theorem State.updTeam_tlb (s : State) (t : Nat) (f : Team → Team) : (s.updTeam t f).tlb = s.tlb := rfl
@[simp] theorem State.updTeam_dirty (s : State) (t : Nat) (f : Team → Team) : (s.updTeam t f).dirty = s.dirty := rfl
@[simp] theorem State.updTeam_rowOwner (s : State) (t : Nat) (f : Team → Team) : (s.updTeam t f).rowOwner = s.rowOwner := rfl
@[simp] theorem State.updTeam_stripe (s : State) (t : Nat) (f : Team → Team) : (s.updTeam t f).stripe = s.stripe := rfl
@[simp] theorem State.updTeam_frames (s : State) (t : Nat) (f : Team → Team) : (s.updTeam t f).frames = s.frames := rfl
@[simp] theorem State.updTeam_badFrames (s : State) (t : Nat) (f : Team → Team) : (s.updTeam t f).badFrames = s.badFrames := rfl
@[simp] theorem State.updTeam_badLines (s : State) (t : Nat) (f : Team → Team) : (s.updTeam t f).badLines = s.badLines := rfl
@[simp] theorem State.updTeam_free (s : State) (t : Nat) (f : Team → Team) : (s.updTeam t f).free = s.free := rfl
@[simp] theorem State.updTeam_reserve (s : State) (t : Nat) (f : Team → Team) : (s.updTeam t f).reserve = s.reserve := rfl
@[simp] theorem State.updTeam_chunkBad (s : State) (t : Nat) (f : Team → Team) : (s.updTeam t f).chunkBad = s.chunkBad := rfl
@[simp] theorem State.updTeam_held (s : State) (t : Nat) (f : Team → Team) : (s.updTeam t f).held = s.held := rfl
@[simp] theorem State.updTeam_readyQ (s : State) (t : Nat) (f : Team → Team) : (s.updTeam t f).readyQ = s.readyQ := rfl
@[simp] theorem State.updTeam_sweep (s : State) (t : Nat) (f : Team → Team) : (s.updTeam t f).sweep = s.sweep := rfl
@[simp] theorem State.updTeam_evUsed (s : State) (t : Nat) (f : Team → Team) : (s.updTeam t f).evUsed = s.evUsed := rfl
@[simp] theorem State.updTeam_pregs (s : State) (t : Nat) (f : Team → Team) : (s.updTeam t f).pregs = s.pregs := rfl
@[simp] theorem State.updTeam_retired (s : State) (t : Nat) (f : Team → Team) : (s.updTeam t f).retired = s.retired := rfl
@[simp] theorem State.updTeam_retiring (s : State) (t : Nat) (f : Team → Team) : (s.updTeam t f).retiring = s.retiring := rfl
@[simp] theorem State.updTeam_ctxs (s : State) (t : Nat) (f : Team → Team) : (s.updTeam t f).ctxs = s.ctxs := rfl
@[simp] theorem State.updTeam_launches (s : State) (t : Nat) (f : Team → Team) : (s.updTeam t f).launches = s.launches := rfl
@[simp] theorem State.updTeam_waiting (s : State) (t : Nat) (f : Team → Team) : (s.updTeam t f).waiting = s.waiting := rfl
@[simp] theorem State.updTeam_lists (s : State) (t : Nat) (f : Team → Team) : (s.updTeam t f).lists = s.lists := rfl
@[simp] theorem State.updTeam_quiet (s : State) (t : Nat) (f : Team → Team) : (s.updTeam t f).quiet = s.quiet := rfl
@[simp] theorem State.updTeam_stamps (s : State) (t : Nat) (f : Team → Team) : (s.updTeam t f).stamps = s.stamps := rfl
@[simp] theorem State.updTeam_lastIssue (s : State) (t : Nat) (f : Team → Team) : (s.updTeam t f).lastIssue = s.lastIssue := rfl
@[simp] theorem State.updTeam_irqMsgs (s : State) (t : Nat) (f : Team → Team) : (s.updTeam t f).irqMsgs = s.irqMsgs := rfl
@[simp] theorem State.updTeam_pushServed (s : State) (t : Nat) (f : Team → Team) : (s.updTeam t f).pushServed = s.pushServed := rfl
@[simp] theorem State.updTeam_producers (s : State) (t : Nat) (f : Team → Team) : (s.updTeam t f).producers = s.producers := rfl
@[simp] theorem State.updTeam_copies (s : State) (t : Nat) (f : Team → Team) : (s.updTeam t f).copies = s.copies := rfl
@[simp] theorem State.updTeam_locks (s : State) (t : Nat) (f : Team → Team) : (s.updTeam t f).locks = s.locks := rfl
@[simp] theorem State.updTeam_sessions (s : State) (t : Nat) (f : Team → Team) : (s.updTeam t f).sessions = s.sessions := rfl
@[simp] theorem State.updTeam_openers (s : State) (t : Nat) (f : Team → Team) : (s.updTeam t f).openers = s.openers := rfl
@[simp] theorem State.updTeam_bankFences (s : State) (t : Nat) (f : Team → Team) : (s.updTeam t f).bankFences = s.bankFences := rfl
@[simp] theorem State.updTeam_colls (s : State) (t : Nat) (f : Team → Team) : (s.updTeam t f).colls = s.colls := rfl
@[simp] theorem State.updTeam_nextTeam (s : State) (t : Nat) (f : Team → Team) : (s.updTeam t f).nextTeam = s.nextTeam := rfl
@[simp] theorem State.updTeam_nextCopy (s : State) (t : Nat) (f : Team → Team) : (s.updTeam t f).nextCopy = s.nextCopy := rfl
@[simp] theorem State.updTeam_nextColl (s : State) (t : Nat) (f : Team → Team) : (s.updTeam t f).nextColl = s.nextColl := rfl
@[simp] theorem State.updTeam_nc (s : State) (t : Nat) (f : Team → Team) : (s.updTeam t f).nc = s.nc := rfl
@[simp] theorem State.updTeam_gated (s : State) (t : Nat) (f : Team → Team) : (s.updTeam t f).gated = s.gated := rfl
@[simp] theorem State.updTeam_view (s : State) (t : Nat) (f : Team → Team) : (s.updTeam t f).view = s.view := rfl
@[simp] theorem State.updTeam_excluded (s : State) (t : Nat) (f : Team → Team) : (s.updTeam t f).excluded = s.excluded := rfl
@[simp] theorem State.updTeam_heard (s : State) (t : Nat) (f : Team → Team) : (s.updTeam t f).heard = s.heard := rfl
@[simp] theorem State.updTeam_suspects (s : State) (t : Nat) (f : Team → Team) : (s.updTeam t f).suspects = s.suspects := rfl
@[simp] theorem State.updTeam_suspected (s : State) (t : Nat) (f : Team → Team) : (s.updTeam t f).suspected = s.suspected := rfl
@[simp] theorem State.updTeam_accepted (s : State) (t : Nat) (f : Team → Team) : (s.updTeam t f).accepted = s.accepted := rfl
@[simp] theorem State.updTeam_proposing (s : State) (t : Nat) (f : Team → Team) : (s.updTeam t f).proposing = s.proposing := rfl
@[simp] theorem State.updTeam_heldMsgs (s : State) (t : Nat) (f : Team → Team) : (s.updTeam t f).heldMsgs = s.heldMsgs := rfl
@[simp] theorem State.updTeam_joiners (s : State) (t : Nat) (f : Team → Team) : (s.updTeam t f).joiners = s.joiners := rfl
@[simp] theorem State.updTeam_admitted (s : State) (t : Nat) (f : Team → Team) : (s.updTeam t f).admitted = s.admitted := rfl
@[simp] theorem State.updTeam_ports (s : State) (t : Nat) (f : Team → Team) : (s.updTeam t f).ports = s.ports := rfl
@[simp] theorem State.updTeam_replies (s : State) (t : Nat) (f : Team → Team) : (s.updTeam t f).replies = s.replies := rfl
@[simp] theorem State.updTeam_locket (s : State) (t : Nat) (f : Team → Team) : (s.updTeam t f).locket = s.locket := rfl
@[simp] theorem State.updTeam_owner (s : State) (t : Nat) (f : Team → Team) : (s.updTeam t f).owner = s.owner := rfl
@[simp] theorem State.updTeam_claims (s : State) (t : Nat) (f : Team → Team) : (s.updTeam t f).claims = s.claims := rfl
@[simp] theorem State.updTeam_election (s : State) (t : Nat) (f : Team → Team) : (s.updTeam t f).election = s.election := rfl
@[simp] theorem State.updTeam_pathDown (s : State) (t : Nat) (f : Team → Team) : (s.updTeam t f).pathDown = s.pathDown := rfl
@[simp] theorem State.updTeam_firmware (s : State) (t : Nat) (f : Team → Team) : (s.updTeam t f).firmware = s.firmware := rfl
@[simp] theorem State.updTeam_attested (s : State) (t : Nat) (f : Team → Team) : (s.updTeam t f).attested = s.attested := rfl
@[simp] theorem State.updTeam_bringUp (s : State) (t : Nat) (f : Team → Team) : (s.updTeam t f).bringUp = s.bringUp := rfl
@[simp] theorem State.updTeam_reqs (s : State) (t : Nat) (f : Team → Team) : (s.updTeam t f).reqs = s.reqs := rfl
@[simp] theorem State.updTeam_nextReq (s : State) (t : Nat) (f : Team → Team) : (s.updTeam t f).nextReq = s.nextReq := rfl
@[simp] theorem State.updTeam_hostOut (s : State) (t : Nat) (f : Team → Team) : (s.updTeam t f).hostOut = s.hostOut := rfl
@[simp] theorem State.updTeam_balloon (s : State) (t : Nat) (f : Team → Team) : (s.updTeam t f).balloon = s.balloon := rfl
@[simp] theorem State.updTeam_swapIn (s : State) (t : Nat) (f : Team → Team) : (s.updTeam t f).swapIn = s.swapIn := rfl
@[simp] theorem State.updTeam_lowest (s : State) (t : Nat) (f : Team → Team) : (s.updTeam t f).lowest = s.lowest := rfl
@[simp] theorem State.updTeam_out (s : State) (t : Nat) (f : Team → Team) : (s.updTeam t f).out = s.out := rfl
@[simp] theorem State.updTeam_beat (s : State) (t : Nat) (f : Team → Team) : (s.updTeam t f).beat = s.beat := rfl
@[simp] theorem State.updTeam_pendingReqs (s : State) (t : Nat) (f : Team → Team) : (s.updTeam t f).pendingReqs = s.pendingReqs := rfl
@[simp] theorem State.updTeam_early (s : State) (t : Nat) (f : Team → Team) : (s.updTeam t f).early = s.early := rfl
@[simp] theorem State.updTeam_writer (s : State) (t : Nat) (f : Team → Team) : (s.updTeam t f).writer = s.writer := rfl
@[simp] theorem State.updTeam_received (s : State) (t : Nat) (f : Team → Team) : (s.updTeam t f).received = s.received := rfl
@[simp] theorem State.updTeam_reported (s : State) (t : Nat) (f : Team → Team) : (s.updTeam t f).reported = s.reported := rfl
@[simp] theorem State.updTeam_reqCounts (s : State) (t : Nat) (f : Team → Team) : (s.updTeam t f).reqCounts = s.reqCounts := rfl
@[simp] theorem State.updTeam_handing (s : State) (t : Nat) (f : Team → Team) : (s.updTeam t f).handing = s.handing := rfl
@[simp] theorem State.updTeam_trained (s : State) (t : Nat) (f : Team → Team) : (s.updTeam t f).trained = s.trained := rfl

/-! ## `State.setG` -/

@[simp] theorem State.setG_now (s : State) (f : Group → Group) : (s.setG f).now = s.now := rfl
@[simp] theorem State.setG_tick (s : State) (f : Group → Group) : (s.setG f).tick = s.tick := rfl
@[simp] theorem State.setG_agenda (s : State) (f : Group → Group) : (s.setG f).agenda = s.agenda := rfl
@[simp] theorem State.setG_cur (s : State) (f : Group → Group) : (s.setG f).cur = s.cur := rfl
@[simp] theorem State.setG_mem (s : State) (f : Group → Group) : (s.setG f).mem = s.mem := rfl
@[simp] theorem State.setG_vbase (s : State) (f : Group → Group) : (s.setG f).vbase = s.vbase := rfl
@[simp] theorem State.setG_vcount (s : State) (f : Group → Group) : (s.setG f).vcount = s.vcount := rfl
@[simp] theorem State.setG_lineOwner (s : State) (f : Group → Group) : (s.setG f).lineOwner = s.lineOwner := rfl
@[simp] theorem State.setG_cLines (s : State) (f : Group → Group) : (s.setG f).cLines = s.cLines := rfl
@[simp] theorem State.setG_tlb (s : State) (f : Group → Group) : (s.setG f).tlb = s.tlb := rfl
@[simp] theorem State.setG_dirty (s : State) (f : Group → Group) : (s.setG f).dirty = s.dirty := rfl
@[simp] theorem State.setG_rowOwner (s : State) (f : Group → Group) : (s.setG f).rowOwner = s.rowOwner := rfl
@[simp] theorem State.setG_stripe (s : State) (f : Group → Group) : (s.setG f).stripe = s.stripe := rfl
@[simp] theorem State.setG_frames (s : State) (f : Group → Group) : (s.setG f).frames = s.frames := rfl
@[simp] theorem State.setG_badFrames (s : State) (f : Group → Group) : (s.setG f).badFrames = s.badFrames := rfl
@[simp] theorem State.setG_badLines (s : State) (f : Group → Group) : (s.setG f).badLines = s.badLines := rfl
@[simp] theorem State.setG_free (s : State) (f : Group → Group) : (s.setG f).free = s.free := rfl
@[simp] theorem State.setG_reserve (s : State) (f : Group → Group) : (s.setG f).reserve = s.reserve := rfl
@[simp] theorem State.setG_chunkBad (s : State) (f : Group → Group) : (s.setG f).chunkBad = s.chunkBad := rfl
@[simp] theorem State.setG_held (s : State) (f : Group → Group) : (s.setG f).held = s.held := rfl
@[simp] theorem State.setG_readyQ (s : State) (f : Group → Group) : (s.setG f).readyQ = s.readyQ := rfl
@[simp] theorem State.setG_sweep (s : State) (f : Group → Group) : (s.setG f).sweep = s.sweep := rfl
@[simp] theorem State.setG_evUsed (s : State) (f : Group → Group) : (s.setG f).evUsed = s.evUsed := rfl
@[simp] theorem State.setG_pregs (s : State) (f : Group → Group) : (s.setG f).pregs = s.pregs := rfl
@[simp] theorem State.setG_retired (s : State) (f : Group → Group) : (s.setG f).retired = s.retired := rfl
@[simp] theorem State.setG_retiring (s : State) (f : Group → Group) : (s.setG f).retiring = s.retiring := rfl
@[simp] theorem State.setG_ctxs (s : State) (f : Group → Group) : (s.setG f).ctxs = s.ctxs := rfl
@[simp] theorem State.setG_launches (s : State) (f : Group → Group) : (s.setG f).launches = s.launches := rfl
@[simp] theorem State.setG_waiting (s : State) (f : Group → Group) : (s.setG f).waiting = s.waiting := rfl
@[simp] theorem State.setG_lists (s : State) (f : Group → Group) : (s.setG f).lists = s.lists := rfl
@[simp] theorem State.setG_quiet (s : State) (f : Group → Group) : (s.setG f).quiet = s.quiet := rfl
@[simp] theorem State.setG_stamps (s : State) (f : Group → Group) : (s.setG f).stamps = s.stamps := rfl
@[simp] theorem State.setG_lastIssue (s : State) (f : Group → Group) : (s.setG f).lastIssue = s.lastIssue := rfl
@[simp] theorem State.setG_irqMsgs (s : State) (f : Group → Group) : (s.setG f).irqMsgs = s.irqMsgs := rfl
@[simp] theorem State.setG_pushServed (s : State) (f : Group → Group) : (s.setG f).pushServed = s.pushServed := rfl
@[simp] theorem State.setG_producers (s : State) (f : Group → Group) : (s.setG f).producers = s.producers := rfl
@[simp] theorem State.setG_copies (s : State) (f : Group → Group) : (s.setG f).copies = s.copies := rfl
@[simp] theorem State.setG_locks (s : State) (f : Group → Group) : (s.setG f).locks = s.locks := rfl
@[simp] theorem State.setG_sessions (s : State) (f : Group → Group) : (s.setG f).sessions = s.sessions := rfl
@[simp] theorem State.setG_openers (s : State) (f : Group → Group) : (s.setG f).openers = s.openers := rfl
@[simp] theorem State.setG_bankFences (s : State) (f : Group → Group) : (s.setG f).bankFences = s.bankFences := rfl
@[simp] theorem State.setG_colls (s : State) (f : Group → Group) : (s.setG f).colls = s.colls := rfl
@[simp] theorem State.setG_nextTeam (s : State) (f : Group → Group) : (s.setG f).nextTeam = s.nextTeam := rfl
@[simp] theorem State.setG_nextCopy (s : State) (f : Group → Group) : (s.setG f).nextCopy = s.nextCopy := rfl
@[simp] theorem State.setG_nextColl (s : State) (f : Group → Group) : (s.setG f).nextColl = s.nextColl := rfl
@[simp] theorem State.setG_nc (s : State) (f : Group → Group) : (s.setG f).nc = s.nc := rfl
@[simp] theorem State.setG_gated (s : State) (f : Group → Group) : (s.setG f).gated = s.gated := rfl
@[simp] theorem State.setG_view (s : State) (f : Group → Group) : (s.setG f).view = s.view := rfl
@[simp] theorem State.setG_excluded (s : State) (f : Group → Group) : (s.setG f).excluded = s.excluded := rfl
@[simp] theorem State.setG_heard (s : State) (f : Group → Group) : (s.setG f).heard = s.heard := rfl
@[simp] theorem State.setG_suspects (s : State) (f : Group → Group) : (s.setG f).suspects = s.suspects := rfl
@[simp] theorem State.setG_suspected (s : State) (f : Group → Group) : (s.setG f).suspected = s.suspected := rfl
@[simp] theorem State.setG_accepted (s : State) (f : Group → Group) : (s.setG f).accepted = s.accepted := rfl
@[simp] theorem State.setG_proposing (s : State) (f : Group → Group) : (s.setG f).proposing = s.proposing := rfl
@[simp] theorem State.setG_heldMsgs (s : State) (f : Group → Group) : (s.setG f).heldMsgs = s.heldMsgs := rfl
@[simp] theorem State.setG_joiners (s : State) (f : Group → Group) : (s.setG f).joiners = s.joiners := rfl
@[simp] theorem State.setG_admitted (s : State) (f : Group → Group) : (s.setG f).admitted = s.admitted := rfl
@[simp] theorem State.setG_ports (s : State) (f : Group → Group) : (s.setG f).ports = s.ports := rfl
@[simp] theorem State.setG_replies (s : State) (f : Group → Group) : (s.setG f).replies = s.replies := rfl
@[simp] theorem State.setG_locket (s : State) (f : Group → Group) : (s.setG f).locket = s.locket := rfl
@[simp] theorem State.setG_owner (s : State) (f : Group → Group) : (s.setG f).owner = s.owner := rfl
@[simp] theorem State.setG_claims (s : State) (f : Group → Group) : (s.setG f).claims = s.claims := rfl
@[simp] theorem State.setG_election (s : State) (f : Group → Group) : (s.setG f).election = s.election := rfl
@[simp] theorem State.setG_pathDown (s : State) (f : Group → Group) : (s.setG f).pathDown = s.pathDown := rfl
@[simp] theorem State.setG_firmware (s : State) (f : Group → Group) : (s.setG f).firmware = s.firmware := rfl
@[simp] theorem State.setG_attested (s : State) (f : Group → Group) : (s.setG f).attested = s.attested := rfl
@[simp] theorem State.setG_bringUp (s : State) (f : Group → Group) : (s.setG f).bringUp = s.bringUp := rfl
@[simp] theorem State.setG_reqs (s : State) (f : Group → Group) : (s.setG f).reqs = s.reqs := rfl
@[simp] theorem State.setG_nextReq (s : State) (f : Group → Group) : (s.setG f).nextReq = s.nextReq := rfl
@[simp] theorem State.setG_hostOut (s : State) (f : Group → Group) : (s.setG f).hostOut = s.hostOut := rfl
@[simp] theorem State.setG_balloon (s : State) (f : Group → Group) : (s.setG f).balloon = s.balloon := rfl
@[simp] theorem State.setG_swapIn (s : State) (f : Group → Group) : (s.setG f).swapIn = s.swapIn := rfl
@[simp] theorem State.setG_lowest (s : State) (f : Group → Group) : (s.setG f).lowest = s.lowest := rfl
@[simp] theorem State.setG_out (s : State) (f : Group → Group) : (s.setG f).out = s.out := rfl
@[simp] theorem State.setG_beat (s : State) (f : Group → Group) : (s.setG f).beat = s.beat := rfl
@[simp] theorem State.setG_pendingReqs (s : State) (f : Group → Group) : (s.setG f).pendingReqs = s.pendingReqs := rfl
@[simp] theorem State.setG_early (s : State) (f : Group → Group) : (s.setG f).early = s.early := rfl
@[simp] theorem State.setG_writer (s : State) (f : Group → Group) : (s.setG f).writer = s.writer := rfl
@[simp] theorem State.setG_received (s : State) (f : Group → Group) : (s.setG f).received = s.received := rfl
@[simp] theorem State.setG_reported (s : State) (f : Group → Group) : (s.setG f).reported = s.reported := rfl
@[simp] theorem State.setG_reqCounts (s : State) (f : Group → Group) : (s.setG f).reqCounts = s.reqCounts := rfl
@[simp] theorem State.setG_handing (s : State) (f : Group → Group) : (s.setG f).handing = s.handing := rfl
@[simp] theorem State.setG_trained (s : State) (f : Group → Group) : (s.setG f).trained = s.trained := rfl

/-! ## `State.setF` -/

@[simp] theorem State.setF_now (s : State) (f : Frag → Frag) : (s.setF f).now = s.now := rfl
@[simp] theorem State.setF_tick (s : State) (f : Frag → Frag) : (s.setF f).tick = s.tick := rfl
@[simp] theorem State.setF_agenda (s : State) (f : Frag → Frag) : (s.setF f).agenda = s.agenda := rfl
@[simp] theorem State.setF_cur (s : State) (f : Frag → Frag) : (s.setF f).cur = s.cur := rfl
@[simp] theorem State.setF_mem (s : State) (f : Frag → Frag) : (s.setF f).mem = s.mem := rfl
@[simp] theorem State.setF_vbase (s : State) (f : Frag → Frag) : (s.setF f).vbase = s.vbase := rfl
@[simp] theorem State.setF_vcount (s : State) (f : Frag → Frag) : (s.setF f).vcount = s.vcount := rfl
@[simp] theorem State.setF_lineOwner (s : State) (f : Frag → Frag) : (s.setF f).lineOwner = s.lineOwner := rfl
@[simp] theorem State.setF_cLines (s : State) (f : Frag → Frag) : (s.setF f).cLines = s.cLines := rfl
@[simp] theorem State.setF_tlb (s : State) (f : Frag → Frag) : (s.setF f).tlb = s.tlb := rfl
@[simp] theorem State.setF_dirty (s : State) (f : Frag → Frag) : (s.setF f).dirty = s.dirty := rfl
@[simp] theorem State.setF_rowOwner (s : State) (f : Frag → Frag) : (s.setF f).rowOwner = s.rowOwner := rfl
@[simp] theorem State.setF_stripe (s : State) (f : Frag → Frag) : (s.setF f).stripe = s.stripe := rfl
@[simp] theorem State.setF_frames (s : State) (f : Frag → Frag) : (s.setF f).frames = s.frames := rfl
@[simp] theorem State.setF_badFrames (s : State) (f : Frag → Frag) : (s.setF f).badFrames = s.badFrames := rfl
@[simp] theorem State.setF_badLines (s : State) (f : Frag → Frag) : (s.setF f).badLines = s.badLines := rfl
@[simp] theorem State.setF_free (s : State) (f : Frag → Frag) : (s.setF f).free = s.free := rfl
@[simp] theorem State.setF_reserve (s : State) (f : Frag → Frag) : (s.setF f).reserve = s.reserve := rfl
@[simp] theorem State.setF_chunkBad (s : State) (f : Frag → Frag) : (s.setF f).chunkBad = s.chunkBad := rfl
@[simp] theorem State.setF_held (s : State) (f : Frag → Frag) : (s.setF f).held = s.held := rfl
@[simp] theorem State.setF_readyQ (s : State) (f : Frag → Frag) : (s.setF f).readyQ = s.readyQ := rfl
@[simp] theorem State.setF_sweep (s : State) (f : Frag → Frag) : (s.setF f).sweep = s.sweep := rfl
@[simp] theorem State.setF_evUsed (s : State) (f : Frag → Frag) : (s.setF f).evUsed = s.evUsed := rfl
@[simp] theorem State.setF_pregs (s : State) (f : Frag → Frag) : (s.setF f).pregs = s.pregs := rfl
@[simp] theorem State.setF_retired (s : State) (f : Frag → Frag) : (s.setF f).retired = s.retired := rfl
@[simp] theorem State.setF_retiring (s : State) (f : Frag → Frag) : (s.setF f).retiring = s.retiring := rfl
@[simp] theorem State.setF_ctxs (s : State) (f : Frag → Frag) : (s.setF f).ctxs = s.ctxs := rfl
@[simp] theorem State.setF_launches (s : State) (f : Frag → Frag) : (s.setF f).launches = s.launches := rfl
@[simp] theorem State.setF_waiting (s : State) (f : Frag → Frag) : (s.setF f).waiting = s.waiting := rfl
@[simp] theorem State.setF_lists (s : State) (f : Frag → Frag) : (s.setF f).lists = s.lists := rfl
@[simp] theorem State.setF_quiet (s : State) (f : Frag → Frag) : (s.setF f).quiet = s.quiet := rfl
@[simp] theorem State.setF_stamps (s : State) (f : Frag → Frag) : (s.setF f).stamps = s.stamps := rfl
@[simp] theorem State.setF_lastIssue (s : State) (f : Frag → Frag) : (s.setF f).lastIssue = s.lastIssue := rfl
@[simp] theorem State.setF_irqMsgs (s : State) (f : Frag → Frag) : (s.setF f).irqMsgs = s.irqMsgs := rfl
@[simp] theorem State.setF_pushServed (s : State) (f : Frag → Frag) : (s.setF f).pushServed = s.pushServed := rfl
@[simp] theorem State.setF_producers (s : State) (f : Frag → Frag) : (s.setF f).producers = s.producers := rfl
@[simp] theorem State.setF_copies (s : State) (f : Frag → Frag) : (s.setF f).copies = s.copies := rfl
@[simp] theorem State.setF_locks (s : State) (f : Frag → Frag) : (s.setF f).locks = s.locks := rfl
@[simp] theorem State.setF_sessions (s : State) (f : Frag → Frag) : (s.setF f).sessions = s.sessions := rfl
@[simp] theorem State.setF_openers (s : State) (f : Frag → Frag) : (s.setF f).openers = s.openers := rfl
@[simp] theorem State.setF_bankFences (s : State) (f : Frag → Frag) : (s.setF f).bankFences = s.bankFences := rfl
@[simp] theorem State.setF_colls (s : State) (f : Frag → Frag) : (s.setF f).colls = s.colls := rfl
@[simp] theorem State.setF_nextTeam (s : State) (f : Frag → Frag) : (s.setF f).nextTeam = s.nextTeam := rfl
@[simp] theorem State.setF_nextCopy (s : State) (f : Frag → Frag) : (s.setF f).nextCopy = s.nextCopy := rfl
@[simp] theorem State.setF_nextColl (s : State) (f : Frag → Frag) : (s.setF f).nextColl = s.nextColl := rfl
@[simp] theorem State.setF_nc (s : State) (f : Frag → Frag) : (s.setF f).nc = s.nc := rfl
@[simp] theorem State.setF_gated (s : State) (f : Frag → Frag) : (s.setF f).gated = s.gated := rfl
@[simp] theorem State.setF_view (s : State) (f : Frag → Frag) : (s.setF f).view = s.view := rfl
@[simp] theorem State.setF_excluded (s : State) (f : Frag → Frag) : (s.setF f).excluded = s.excluded := rfl
@[simp] theorem State.setF_heard (s : State) (f : Frag → Frag) : (s.setF f).heard = s.heard := rfl
@[simp] theorem State.setF_suspects (s : State) (f : Frag → Frag) : (s.setF f).suspects = s.suspects := rfl
@[simp] theorem State.setF_suspected (s : State) (f : Frag → Frag) : (s.setF f).suspected = s.suspected := rfl
@[simp] theorem State.setF_accepted (s : State) (f : Frag → Frag) : (s.setF f).accepted = s.accepted := rfl
@[simp] theorem State.setF_proposing (s : State) (f : Frag → Frag) : (s.setF f).proposing = s.proposing := rfl
@[simp] theorem State.setF_heldMsgs (s : State) (f : Frag → Frag) : (s.setF f).heldMsgs = s.heldMsgs := rfl
@[simp] theorem State.setF_joiners (s : State) (f : Frag → Frag) : (s.setF f).joiners = s.joiners := rfl
@[simp] theorem State.setF_admitted (s : State) (f : Frag → Frag) : (s.setF f).admitted = s.admitted := rfl
@[simp] theorem State.setF_ports (s : State) (f : Frag → Frag) : (s.setF f).ports = s.ports := rfl
@[simp] theorem State.setF_replies (s : State) (f : Frag → Frag) : (s.setF f).replies = s.replies := rfl
@[simp] theorem State.setF_locket (s : State) (f : Frag → Frag) : (s.setF f).locket = s.locket := rfl
@[simp] theorem State.setF_owner (s : State) (f : Frag → Frag) : (s.setF f).owner = s.owner := rfl
@[simp] theorem State.setF_claims (s : State) (f : Frag → Frag) : (s.setF f).claims = s.claims := rfl
@[simp] theorem State.setF_election (s : State) (f : Frag → Frag) : (s.setF f).election = s.election := rfl
@[simp] theorem State.setF_pathDown (s : State) (f : Frag → Frag) : (s.setF f).pathDown = s.pathDown := rfl
@[simp] theorem State.setF_firmware (s : State) (f : Frag → Frag) : (s.setF f).firmware = s.firmware := rfl
@[simp] theorem State.setF_attested (s : State) (f : Frag → Frag) : (s.setF f).attested = s.attested := rfl
@[simp] theorem State.setF_bringUp (s : State) (f : Frag → Frag) : (s.setF f).bringUp = s.bringUp := rfl
@[simp] theorem State.setF_reqs (s : State) (f : Frag → Frag) : (s.setF f).reqs = s.reqs := rfl
@[simp] theorem State.setF_nextReq (s : State) (f : Frag → Frag) : (s.setF f).nextReq = s.nextReq := rfl
@[simp] theorem State.setF_hostOut (s : State) (f : Frag → Frag) : (s.setF f).hostOut = s.hostOut := rfl
@[simp] theorem State.setF_balloon (s : State) (f : Frag → Frag) : (s.setF f).balloon = s.balloon := rfl
@[simp] theorem State.setF_swapIn (s : State) (f : Frag → Frag) : (s.setF f).swapIn = s.swapIn := rfl
@[simp] theorem State.setF_lowest (s : State) (f : Frag → Frag) : (s.setF f).lowest = s.lowest := rfl
@[simp] theorem State.setF_out (s : State) (f : Frag → Frag) : (s.setF f).out = s.out := rfl
@[simp] theorem State.setF_beat (s : State) (f : Frag → Frag) : (s.setF f).beat = s.beat := rfl
@[simp] theorem State.setF_pendingReqs (s : State) (f : Frag → Frag) : (s.setF f).pendingReqs = s.pendingReqs := rfl
@[simp] theorem State.setF_early (s : State) (f : Frag → Frag) : (s.setF f).early = s.early := rfl
@[simp] theorem State.setF_writer (s : State) (f : Frag → Frag) : (s.setF f).writer = s.writer := rfl
@[simp] theorem State.setF_received (s : State) (f : Frag → Frag) : (s.setF f).received = s.received := rfl
@[simp] theorem State.setF_reported (s : State) (f : Frag → Frag) : (s.setF f).reported = s.reported := rfl
@[simp] theorem State.setF_reqCounts (s : State) (f : Frag → Frag) : (s.setF f).reqCounts = s.reqCounts := rfl
@[simp] theorem State.setF_handing (s : State) (f : Frag → Frag) : (s.setF f).handing = s.handing := rfl
@[simp] theorem State.setF_trained (s : State) (f : Frag → Frag) : (s.setF f).trained = s.trained := rfl

/-! ## `State.updCtx` -/

@[simp] theorem State.updCtx_now (s : State) (c : Nat) (f : Ctx → Ctx) : (s.updCtx c f).now = s.now := rfl
@[simp] theorem State.updCtx_tick (s : State) (c : Nat) (f : Ctx → Ctx) : (s.updCtx c f).tick = s.tick := rfl
@[simp] theorem State.updCtx_agenda (s : State) (c : Nat) (f : Ctx → Ctx) : (s.updCtx c f).agenda = s.agenda := rfl
@[simp] theorem State.updCtx_cur (s : State) (c : Nat) (f : Ctx → Ctx) : (s.updCtx c f).cur = s.cur := rfl
@[simp] theorem State.updCtx_mem (s : State) (c : Nat) (f : Ctx → Ctx) : (s.updCtx c f).mem = s.mem := rfl
@[simp] theorem State.updCtx_vbase (s : State) (c : Nat) (f : Ctx → Ctx) : (s.updCtx c f).vbase = s.vbase := rfl
@[simp] theorem State.updCtx_vcount (s : State) (c : Nat) (f : Ctx → Ctx) : (s.updCtx c f).vcount = s.vcount := rfl
@[simp] theorem State.updCtx_lineOwner (s : State) (c : Nat) (f : Ctx → Ctx) : (s.updCtx c f).lineOwner = s.lineOwner := rfl
@[simp] theorem State.updCtx_cLines (s : State) (c : Nat) (f : Ctx → Ctx) : (s.updCtx c f).cLines = s.cLines := rfl
@[simp] theorem State.updCtx_tlb (s : State) (c : Nat) (f : Ctx → Ctx) : (s.updCtx c f).tlb = s.tlb := rfl
@[simp] theorem State.updCtx_dirty (s : State) (c : Nat) (f : Ctx → Ctx) : (s.updCtx c f).dirty = s.dirty := rfl
@[simp] theorem State.updCtx_rowOwner (s : State) (c : Nat) (f : Ctx → Ctx) : (s.updCtx c f).rowOwner = s.rowOwner := rfl
@[simp] theorem State.updCtx_stripe (s : State) (c : Nat) (f : Ctx → Ctx) : (s.updCtx c f).stripe = s.stripe := rfl
@[simp] theorem State.updCtx_frames (s : State) (c : Nat) (f : Ctx → Ctx) : (s.updCtx c f).frames = s.frames := rfl
@[simp] theorem State.updCtx_badFrames (s : State) (c : Nat) (f : Ctx → Ctx) : (s.updCtx c f).badFrames = s.badFrames := rfl
@[simp] theorem State.updCtx_badLines (s : State) (c : Nat) (f : Ctx → Ctx) : (s.updCtx c f).badLines = s.badLines := rfl
@[simp] theorem State.updCtx_free (s : State) (c : Nat) (f : Ctx → Ctx) : (s.updCtx c f).free = s.free := rfl
@[simp] theorem State.updCtx_reserve (s : State) (c : Nat) (f : Ctx → Ctx) : (s.updCtx c f).reserve = s.reserve := rfl
@[simp] theorem State.updCtx_chunkBad (s : State) (c : Nat) (f : Ctx → Ctx) : (s.updCtx c f).chunkBad = s.chunkBad := rfl
@[simp] theorem State.updCtx_held (s : State) (c : Nat) (f : Ctx → Ctx) : (s.updCtx c f).held = s.held := rfl
@[simp] theorem State.updCtx_readyQ (s : State) (c : Nat) (f : Ctx → Ctx) : (s.updCtx c f).readyQ = s.readyQ := rfl
@[simp] theorem State.updCtx_sweep (s : State) (c : Nat) (f : Ctx → Ctx) : (s.updCtx c f).sweep = s.sweep := rfl
@[simp] theorem State.updCtx_evUsed (s : State) (c : Nat) (f : Ctx → Ctx) : (s.updCtx c f).evUsed = s.evUsed := rfl
@[simp] theorem State.updCtx_pregs (s : State) (c : Nat) (f : Ctx → Ctx) : (s.updCtx c f).pregs = s.pregs := rfl
@[simp] theorem State.updCtx_retired (s : State) (c : Nat) (f : Ctx → Ctx) : (s.updCtx c f).retired = s.retired := rfl
@[simp] theorem State.updCtx_retiring (s : State) (c : Nat) (f : Ctx → Ctx) : (s.updCtx c f).retiring = s.retiring := rfl
@[simp] theorem State.updCtx_launches (s : State) (c : Nat) (f : Ctx → Ctx) : (s.updCtx c f).launches = s.launches := rfl
@[simp] theorem State.updCtx_teams (s : State) (c : Nat) (f : Ctx → Ctx) : (s.updCtx c f).teams = s.teams := rfl
@[simp] theorem State.updCtx_waiting (s : State) (c : Nat) (f : Ctx → Ctx) : (s.updCtx c f).waiting = s.waiting := rfl
@[simp] theorem State.updCtx_lists (s : State) (c : Nat) (f : Ctx → Ctx) : (s.updCtx c f).lists = s.lists := rfl
@[simp] theorem State.updCtx_quiet (s : State) (c : Nat) (f : Ctx → Ctx) : (s.updCtx c f).quiet = s.quiet := rfl
@[simp] theorem State.updCtx_stamps (s : State) (c : Nat) (f : Ctx → Ctx) : (s.updCtx c f).stamps = s.stamps := rfl
@[simp] theorem State.updCtx_lastIssue (s : State) (c : Nat) (f : Ctx → Ctx) : (s.updCtx c f).lastIssue = s.lastIssue := rfl
@[simp] theorem State.updCtx_irqMsgs (s : State) (c : Nat) (f : Ctx → Ctx) : (s.updCtx c f).irqMsgs = s.irqMsgs := rfl
@[simp] theorem State.updCtx_pushServed (s : State) (c : Nat) (f : Ctx → Ctx) : (s.updCtx c f).pushServed = s.pushServed := rfl
@[simp] theorem State.updCtx_producers (s : State) (c : Nat) (f : Ctx → Ctx) : (s.updCtx c f).producers = s.producers := rfl
@[simp] theorem State.updCtx_copies (s : State) (c : Nat) (f : Ctx → Ctx) : (s.updCtx c f).copies = s.copies := rfl
@[simp] theorem State.updCtx_locks (s : State) (c : Nat) (f : Ctx → Ctx) : (s.updCtx c f).locks = s.locks := rfl
@[simp] theorem State.updCtx_sessions (s : State) (c : Nat) (f : Ctx → Ctx) : (s.updCtx c f).sessions = s.sessions := rfl
@[simp] theorem State.updCtx_openers (s : State) (c : Nat) (f : Ctx → Ctx) : (s.updCtx c f).openers = s.openers := rfl
@[simp] theorem State.updCtx_bankFences (s : State) (c : Nat) (f : Ctx → Ctx) : (s.updCtx c f).bankFences = s.bankFences := rfl
@[simp] theorem State.updCtx_colls (s : State) (c : Nat) (f : Ctx → Ctx) : (s.updCtx c f).colls = s.colls := rfl
@[simp] theorem State.updCtx_nextTeam (s : State) (c : Nat) (f : Ctx → Ctx) : (s.updCtx c f).nextTeam = s.nextTeam := rfl
@[simp] theorem State.updCtx_nextCopy (s : State) (c : Nat) (f : Ctx → Ctx) : (s.updCtx c f).nextCopy = s.nextCopy := rfl
@[simp] theorem State.updCtx_nextColl (s : State) (c : Nat) (f : Ctx → Ctx) : (s.updCtx c f).nextColl = s.nextColl := rfl
@[simp] theorem State.updCtx_nc (s : State) (c : Nat) (f : Ctx → Ctx) : (s.updCtx c f).nc = s.nc := rfl
@[simp] theorem State.updCtx_gated (s : State) (c : Nat) (f : Ctx → Ctx) : (s.updCtx c f).gated = s.gated := rfl
@[simp] theorem State.updCtx_view (s : State) (c : Nat) (f : Ctx → Ctx) : (s.updCtx c f).view = s.view := rfl
@[simp] theorem State.updCtx_excluded (s : State) (c : Nat) (f : Ctx → Ctx) : (s.updCtx c f).excluded = s.excluded := rfl
@[simp] theorem State.updCtx_heard (s : State) (c : Nat) (f : Ctx → Ctx) : (s.updCtx c f).heard = s.heard := rfl
@[simp] theorem State.updCtx_suspects (s : State) (c : Nat) (f : Ctx → Ctx) : (s.updCtx c f).suspects = s.suspects := rfl
@[simp] theorem State.updCtx_suspected (s : State) (c : Nat) (f : Ctx → Ctx) : (s.updCtx c f).suspected = s.suspected := rfl
@[simp] theorem State.updCtx_accepted (s : State) (c : Nat) (f : Ctx → Ctx) : (s.updCtx c f).accepted = s.accepted := rfl
@[simp] theorem State.updCtx_proposing (s : State) (c : Nat) (f : Ctx → Ctx) : (s.updCtx c f).proposing = s.proposing := rfl
@[simp] theorem State.updCtx_heldMsgs (s : State) (c : Nat) (f : Ctx → Ctx) : (s.updCtx c f).heldMsgs = s.heldMsgs := rfl
@[simp] theorem State.updCtx_joiners (s : State) (c : Nat) (f : Ctx → Ctx) : (s.updCtx c f).joiners = s.joiners := rfl
@[simp] theorem State.updCtx_admitted (s : State) (c : Nat) (f : Ctx → Ctx) : (s.updCtx c f).admitted = s.admitted := rfl
@[simp] theorem State.updCtx_ports (s : State) (c : Nat) (f : Ctx → Ctx) : (s.updCtx c f).ports = s.ports := rfl
@[simp] theorem State.updCtx_replies (s : State) (c : Nat) (f : Ctx → Ctx) : (s.updCtx c f).replies = s.replies := rfl
@[simp] theorem State.updCtx_locket (s : State) (c : Nat) (f : Ctx → Ctx) : (s.updCtx c f).locket = s.locket := rfl
@[simp] theorem State.updCtx_owner (s : State) (c : Nat) (f : Ctx → Ctx) : (s.updCtx c f).owner = s.owner := rfl
@[simp] theorem State.updCtx_claims (s : State) (c : Nat) (f : Ctx → Ctx) : (s.updCtx c f).claims = s.claims := rfl
@[simp] theorem State.updCtx_election (s : State) (c : Nat) (f : Ctx → Ctx) : (s.updCtx c f).election = s.election := rfl
@[simp] theorem State.updCtx_pathDown (s : State) (c : Nat) (f : Ctx → Ctx) : (s.updCtx c f).pathDown = s.pathDown := rfl
@[simp] theorem State.updCtx_firmware (s : State) (c : Nat) (f : Ctx → Ctx) : (s.updCtx c f).firmware = s.firmware := rfl
@[simp] theorem State.updCtx_attested (s : State) (c : Nat) (f : Ctx → Ctx) : (s.updCtx c f).attested = s.attested := rfl
@[simp] theorem State.updCtx_bringUp (s : State) (c : Nat) (f : Ctx → Ctx) : (s.updCtx c f).bringUp = s.bringUp := rfl
@[simp] theorem State.updCtx_reqs (s : State) (c : Nat) (f : Ctx → Ctx) : (s.updCtx c f).reqs = s.reqs := rfl
@[simp] theorem State.updCtx_nextReq (s : State) (c : Nat) (f : Ctx → Ctx) : (s.updCtx c f).nextReq = s.nextReq := rfl
@[simp] theorem State.updCtx_hostOut (s : State) (c : Nat) (f : Ctx → Ctx) : (s.updCtx c f).hostOut = s.hostOut := rfl
@[simp] theorem State.updCtx_balloon (s : State) (c : Nat) (f : Ctx → Ctx) : (s.updCtx c f).balloon = s.balloon := rfl
@[simp] theorem State.updCtx_swapIn (s : State) (c : Nat) (f : Ctx → Ctx) : (s.updCtx c f).swapIn = s.swapIn := rfl
@[simp] theorem State.updCtx_lowest (s : State) (c : Nat) (f : Ctx → Ctx) : (s.updCtx c f).lowest = s.lowest := rfl
@[simp] theorem State.updCtx_out (s : State) (c : Nat) (f : Ctx → Ctx) : (s.updCtx c f).out = s.out := rfl
@[simp] theorem State.updCtx_beat (s : State) (c : Nat) (f : Ctx → Ctx) : (s.updCtx c f).beat = s.beat := rfl
@[simp] theorem State.updCtx_pendingReqs (s : State) (c : Nat) (f : Ctx → Ctx) : (s.updCtx c f).pendingReqs = s.pendingReqs := rfl
@[simp] theorem State.updCtx_early (s : State) (c : Nat) (f : Ctx → Ctx) : (s.updCtx c f).early = s.early := rfl
@[simp] theorem State.updCtx_writer (s : State) (c : Nat) (f : Ctx → Ctx) : (s.updCtx c f).writer = s.writer := rfl
@[simp] theorem State.updCtx_received (s : State) (c : Nat) (f : Ctx → Ctx) : (s.updCtx c f).received = s.received := rfl
@[simp] theorem State.updCtx_reported (s : State) (c : Nat) (f : Ctx → Ctx) : (s.updCtx c f).reported = s.reported := rfl
@[simp] theorem State.updCtx_reqCounts (s : State) (c : Nat) (f : Ctx → Ctx) : (s.updCtx c f).reqCounts = s.reqCounts := rfl
@[simp] theorem State.updCtx_handing (s : State) (c : Nat) (f : Ctx → Ctx) : (s.updCtx c f).handing = s.handing := rfl
@[simp] theorem State.updCtx_trained (s : State) (c : Nat) (f : Ctx → Ctx) : (s.updCtx c f).trained = s.trained := rfl

/-! ## `State.setPreg` -/

@[simp] theorem State.setPreg_now (s : State) (n : Nat) (x : DWord) : (s.setPreg n x).now = s.now := rfl
@[simp] theorem State.setPreg_tick (s : State) (n : Nat) (x : DWord) : (s.setPreg n x).tick = s.tick := rfl
@[simp] theorem State.setPreg_agenda (s : State) (n : Nat) (x : DWord) : (s.setPreg n x).agenda = s.agenda := rfl
@[simp] theorem State.setPreg_cur (s : State) (n : Nat) (x : DWord) : (s.setPreg n x).cur = s.cur := rfl
@[simp] theorem State.setPreg_mem (s : State) (n : Nat) (x : DWord) : (s.setPreg n x).mem = s.mem := rfl
@[simp] theorem State.setPreg_vbase (s : State) (n : Nat) (x : DWord) : (s.setPreg n x).vbase = s.vbase := rfl
@[simp] theorem State.setPreg_vcount (s : State) (n : Nat) (x : DWord) : (s.setPreg n x).vcount = s.vcount := rfl
@[simp] theorem State.setPreg_lineOwner (s : State) (n : Nat) (x : DWord) : (s.setPreg n x).lineOwner = s.lineOwner := rfl
@[simp] theorem State.setPreg_cLines (s : State) (n : Nat) (x : DWord) : (s.setPreg n x).cLines = s.cLines := rfl
@[simp] theorem State.setPreg_tlb (s : State) (n : Nat) (x : DWord) : (s.setPreg n x).tlb = s.tlb := rfl
@[simp] theorem State.setPreg_dirty (s : State) (n : Nat) (x : DWord) : (s.setPreg n x).dirty = s.dirty := rfl
@[simp] theorem State.setPreg_rowOwner (s : State) (n : Nat) (x : DWord) : (s.setPreg n x).rowOwner = s.rowOwner := rfl
@[simp] theorem State.setPreg_stripe (s : State) (n : Nat) (x : DWord) : (s.setPreg n x).stripe = s.stripe := rfl
@[simp] theorem State.setPreg_frames (s : State) (n : Nat) (x : DWord) : (s.setPreg n x).frames = s.frames := rfl
@[simp] theorem State.setPreg_badFrames (s : State) (n : Nat) (x : DWord) : (s.setPreg n x).badFrames = s.badFrames := rfl
@[simp] theorem State.setPreg_badLines (s : State) (n : Nat) (x : DWord) : (s.setPreg n x).badLines = s.badLines := rfl
@[simp] theorem State.setPreg_free (s : State) (n : Nat) (x : DWord) : (s.setPreg n x).free = s.free := rfl
@[simp] theorem State.setPreg_reserve (s : State) (n : Nat) (x : DWord) : (s.setPreg n x).reserve = s.reserve := rfl
@[simp] theorem State.setPreg_chunkBad (s : State) (n : Nat) (x : DWord) : (s.setPreg n x).chunkBad = s.chunkBad := rfl
@[simp] theorem State.setPreg_held (s : State) (n : Nat) (x : DWord) : (s.setPreg n x).held = s.held := rfl
@[simp] theorem State.setPreg_readyQ (s : State) (n : Nat) (x : DWord) : (s.setPreg n x).readyQ = s.readyQ := rfl
@[simp] theorem State.setPreg_sweep (s : State) (n : Nat) (x : DWord) : (s.setPreg n x).sweep = s.sweep := rfl
@[simp] theorem State.setPreg_evUsed (s : State) (n : Nat) (x : DWord) : (s.setPreg n x).evUsed = s.evUsed := rfl
@[simp] theorem State.setPreg_retired (s : State) (n : Nat) (x : DWord) : (s.setPreg n x).retired = s.retired := rfl
@[simp] theorem State.setPreg_retiring (s : State) (n : Nat) (x : DWord) : (s.setPreg n x).retiring = s.retiring := rfl
@[simp] theorem State.setPreg_ctxs (s : State) (n : Nat) (x : DWord) : (s.setPreg n x).ctxs = s.ctxs := rfl
@[simp] theorem State.setPreg_launches (s : State) (n : Nat) (x : DWord) : (s.setPreg n x).launches = s.launches := rfl
@[simp] theorem State.setPreg_teams (s : State) (n : Nat) (x : DWord) : (s.setPreg n x).teams = s.teams := rfl
@[simp] theorem State.setPreg_waiting (s : State) (n : Nat) (x : DWord) : (s.setPreg n x).waiting = s.waiting := rfl
@[simp] theorem State.setPreg_lists (s : State) (n : Nat) (x : DWord) : (s.setPreg n x).lists = s.lists := rfl
@[simp] theorem State.setPreg_quiet (s : State) (n : Nat) (x : DWord) : (s.setPreg n x).quiet = s.quiet := rfl
@[simp] theorem State.setPreg_stamps (s : State) (n : Nat) (x : DWord) : (s.setPreg n x).stamps = s.stamps := rfl
@[simp] theorem State.setPreg_lastIssue (s : State) (n : Nat) (x : DWord) : (s.setPreg n x).lastIssue = s.lastIssue := rfl
@[simp] theorem State.setPreg_irqMsgs (s : State) (n : Nat) (x : DWord) : (s.setPreg n x).irqMsgs = s.irqMsgs := rfl
@[simp] theorem State.setPreg_pushServed (s : State) (n : Nat) (x : DWord) : (s.setPreg n x).pushServed = s.pushServed := rfl
@[simp] theorem State.setPreg_producers (s : State) (n : Nat) (x : DWord) : (s.setPreg n x).producers = s.producers := rfl
@[simp] theorem State.setPreg_copies (s : State) (n : Nat) (x : DWord) : (s.setPreg n x).copies = s.copies := rfl
@[simp] theorem State.setPreg_locks (s : State) (n : Nat) (x : DWord) : (s.setPreg n x).locks = s.locks := rfl
@[simp] theorem State.setPreg_sessions (s : State) (n : Nat) (x : DWord) : (s.setPreg n x).sessions = s.sessions := rfl
@[simp] theorem State.setPreg_openers (s : State) (n : Nat) (x : DWord) : (s.setPreg n x).openers = s.openers := rfl
@[simp] theorem State.setPreg_bankFences (s : State) (n : Nat) (x : DWord) : (s.setPreg n x).bankFences = s.bankFences := rfl
@[simp] theorem State.setPreg_colls (s : State) (n : Nat) (x : DWord) : (s.setPreg n x).colls = s.colls := rfl
@[simp] theorem State.setPreg_nextTeam (s : State) (n : Nat) (x : DWord) : (s.setPreg n x).nextTeam = s.nextTeam := rfl
@[simp] theorem State.setPreg_nextCopy (s : State) (n : Nat) (x : DWord) : (s.setPreg n x).nextCopy = s.nextCopy := rfl
@[simp] theorem State.setPreg_nextColl (s : State) (n : Nat) (x : DWord) : (s.setPreg n x).nextColl = s.nextColl := rfl
@[simp] theorem State.setPreg_nc (s : State) (n : Nat) (x : DWord) : (s.setPreg n x).nc = s.nc := rfl
@[simp] theorem State.setPreg_gated (s : State) (n : Nat) (x : DWord) : (s.setPreg n x).gated = s.gated := rfl
@[simp] theorem State.setPreg_view (s : State) (n : Nat) (x : DWord) : (s.setPreg n x).view = s.view := rfl
@[simp] theorem State.setPreg_excluded (s : State) (n : Nat) (x : DWord) : (s.setPreg n x).excluded = s.excluded := rfl
@[simp] theorem State.setPreg_heard (s : State) (n : Nat) (x : DWord) : (s.setPreg n x).heard = s.heard := rfl
@[simp] theorem State.setPreg_suspects (s : State) (n : Nat) (x : DWord) : (s.setPreg n x).suspects = s.suspects := rfl
@[simp] theorem State.setPreg_suspected (s : State) (n : Nat) (x : DWord) : (s.setPreg n x).suspected = s.suspected := rfl
@[simp] theorem State.setPreg_accepted (s : State) (n : Nat) (x : DWord) : (s.setPreg n x).accepted = s.accepted := rfl
@[simp] theorem State.setPreg_proposing (s : State) (n : Nat) (x : DWord) : (s.setPreg n x).proposing = s.proposing := rfl
@[simp] theorem State.setPreg_heldMsgs (s : State) (n : Nat) (x : DWord) : (s.setPreg n x).heldMsgs = s.heldMsgs := rfl
@[simp] theorem State.setPreg_joiners (s : State) (n : Nat) (x : DWord) : (s.setPreg n x).joiners = s.joiners := rfl
@[simp] theorem State.setPreg_admitted (s : State) (n : Nat) (x : DWord) : (s.setPreg n x).admitted = s.admitted := rfl
@[simp] theorem State.setPreg_ports (s : State) (n : Nat) (x : DWord) : (s.setPreg n x).ports = s.ports := rfl
@[simp] theorem State.setPreg_replies (s : State) (n : Nat) (x : DWord) : (s.setPreg n x).replies = s.replies := rfl
@[simp] theorem State.setPreg_locket (s : State) (n : Nat) (x : DWord) : (s.setPreg n x).locket = s.locket := rfl
@[simp] theorem State.setPreg_owner (s : State) (n : Nat) (x : DWord) : (s.setPreg n x).owner = s.owner := rfl
@[simp] theorem State.setPreg_claims (s : State) (n : Nat) (x : DWord) : (s.setPreg n x).claims = s.claims := rfl
@[simp] theorem State.setPreg_election (s : State) (n : Nat) (x : DWord) : (s.setPreg n x).election = s.election := rfl
@[simp] theorem State.setPreg_pathDown (s : State) (n : Nat) (x : DWord) : (s.setPreg n x).pathDown = s.pathDown := rfl
@[simp] theorem State.setPreg_firmware (s : State) (n : Nat) (x : DWord) : (s.setPreg n x).firmware = s.firmware := rfl
@[simp] theorem State.setPreg_attested (s : State) (n : Nat) (x : DWord) : (s.setPreg n x).attested = s.attested := rfl
@[simp] theorem State.setPreg_bringUp (s : State) (n : Nat) (x : DWord) : (s.setPreg n x).bringUp = s.bringUp := rfl
@[simp] theorem State.setPreg_reqs (s : State) (n : Nat) (x : DWord) : (s.setPreg n x).reqs = s.reqs := rfl
@[simp] theorem State.setPreg_nextReq (s : State) (n : Nat) (x : DWord) : (s.setPreg n x).nextReq = s.nextReq := rfl
@[simp] theorem State.setPreg_hostOut (s : State) (n : Nat) (x : DWord) : (s.setPreg n x).hostOut = s.hostOut := rfl
@[simp] theorem State.setPreg_balloon (s : State) (n : Nat) (x : DWord) : (s.setPreg n x).balloon = s.balloon := rfl
@[simp] theorem State.setPreg_swapIn (s : State) (n : Nat) (x : DWord) : (s.setPreg n x).swapIn = s.swapIn := rfl
@[simp] theorem State.setPreg_lowest (s : State) (n : Nat) (x : DWord) : (s.setPreg n x).lowest = s.lowest := rfl
@[simp] theorem State.setPreg_out (s : State) (n : Nat) (x : DWord) : (s.setPreg n x).out = s.out := rfl
@[simp] theorem State.setPreg_beat (s : State) (n : Nat) (x : DWord) : (s.setPreg n x).beat = s.beat := rfl
@[simp] theorem State.setPreg_pendingReqs (s : State) (n : Nat) (x : DWord) : (s.setPreg n x).pendingReqs = s.pendingReqs := rfl
@[simp] theorem State.setPreg_early (s : State) (n : Nat) (x : DWord) : (s.setPreg n x).early = s.early := rfl
@[simp] theorem State.setPreg_writer (s : State) (n : Nat) (x : DWord) : (s.setPreg n x).writer = s.writer := rfl
@[simp] theorem State.setPreg_received (s : State) (n : Nat) (x : DWord) : (s.setPreg n x).received = s.received := rfl
@[simp] theorem State.setPreg_reported (s : State) (n : Nat) (x : DWord) : (s.setPreg n x).reported = s.reported := rfl
@[simp] theorem State.setPreg_reqCounts (s : State) (n : Nat) (x : DWord) : (s.setPreg n x).reqCounts = s.reqCounts := rfl
@[simp] theorem State.setPreg_handing (s : State) (n : Nat) (x : DWord) : (s.setPreg n x).handing = s.handing := rfl
@[simp] theorem State.setPreg_trained (s : State) (n : Nat) (x : DWord) : (s.setPreg n x).trained = s.trained := rfl

/-! ## What the updated parts become -/

@[simp] theorem State.teamOf_updTeam (s : State) (t k : Nat) (f : Team → Team) :
    (s.updTeam t f).teamOf k = if t = k then f (s.teamOf t) else s.teamOf k := Map.get_modify _ _ _ _ _

@[simp] theorem State.ctxOf_updCtx (s : State) (c k : Nat) (f : Ctx → Ctx) :
    (s.updCtx c f).ctxOf k = if c = k then f (s.ctxOf c) else s.ctxOf k := Map.get_modify _ _ _ _ _

@[simp] theorem State.preg_setPreg (s : State) (n k : Nat) (x : DWord) :
    (s.setPreg n x).preg k = if n = k then x else s.preg k := Map.get_set _ _ _ _ _

@[simp] theorem Ctx.sreg_setSreg (c : Ctx) (n k : Nat) (x : DWord) :
    (c.setSreg n x).sreg k = if n = k then x else c.sreg k := Map.get_set _ _ _ _ _

@[simp] theorem Group.tfReg_setTf (g : Group) (n k : Nat) (x : DWord) :
    (g.setTf n x).tfReg k = if n = k then x else g.tfReg k := Map.get_set _ _ _ _ _

@[simp] theorem Team.groupOf_updGroup (t : Team) (g k : Nat) (f : Group → Group) :
    (t.updGroup g f).groupOf k = if g = k then f (t.groupOf g) else t.groupOf k := Map.get_modify _ _ _ _ _

@[simp] theorem Group.fragOf_updFrag (g : Group) (e k : Nat) (f : Frag → Frag) :
    (g.updFrag e f).fragOf k = if e = k then f (g.fragOf e) else g.fragOf k := Map.get_modify _ _ _ _ _

@[simp] theorem State.ct_setG (s : State) (f : Group → Group) :
    (s.setG f).ct = s.ct.updGroup s.cur.ref.group f := by
  simp [State.ct, State.setG, State.updGroupAt]

@[simp] theorem State.cg_setG (s : State) (f : Group → Group) : (s.setG f).cg = f s.cg := by
  show (s.setG f).ct.groupOf s.cur.ref.group = _
  simp [State.cg]

@[simp] theorem State.cg_setF (s : State) (f : Frag → Frag) :
    (s.setF f).cg = s.cg.updFrag s.cur.ref.entry f := by
  show (s.setG (·.updFrag s.cur.ref.entry f)).cg = _
  simp

@[simp] theorem State.cf_setF (s : State) (f : Frag → Frag) : (s.setF f).cf = f s.cf := by
  show (s.setF f).cg.fragOf s.cur.ref.entry = _
  simp [State.cf]

@[simp] theorem State.cf_setG (s : State) (f : Group → Group) :
    (s.setG f).cf = (f s.cg).fragOf s.cur.ref.entry := by
  show (s.setG f).cg.fragOf s.cur.ref.entry = _
  simp

@[simp] theorem Team.updGroup_fields (t : Team) (g : Nat) (f : Group → Group) :
    { t.updGroup g f with groups := t.groups } = t := rfl

@[simp] theorem State.updTeam_fields (s : State) (t : Nat) (f : Team → Team) :
    { s.updTeam t f with teams := s.teams } = s := rfl

/-! ## Registers of a group -/

/-- A vector register of a lane after a write of another or the same one: lanes are below 64. -/
theorem Group.vreg_setV (g : Group) (r l r' l' : Nat) (x : Word) (hl : l < 64) (hl' : l' < 64) :
    (g.setV r l x).vreg r' l' = if r = r' ∧ l = l' then x else g.vreg r' l' := by
  unfold Group.vreg Group.setV
  simp only [Map.get_set]
  by_cases h : 64 * r + l = 64 * r' + l'
  · have h1 : r = r' := by omega
    have h2 : l = l' := by omega
    simp [h1, h2]
  · rw [if_neg h, if_neg]
    rintro ⟨rfl, rfl⟩
    exact h rfl

@[simp] theorem Group.ureg_setU (g : Group) (r k : Nat) (x : DWord) :
    (g.setU r x).ureg k = if r = k then x else g.ureg k := Map.get_set _ _ _ _ _

@[simp] theorem Group.ureg_setV (g : Group) (r l k : Nat) (x : Word) : (g.setV r l x).ureg k = g.ureg k := rfl
@[simp] theorem Group.pred_setV (g : Group) (r l k : Nat) (x : Word) : (g.setV r l x).pred k = g.pred k := rfl
@[simp] theorem Group.vreg_setU (g : Group) (r k l : Nat) (x : DWord) : (g.setU r x).vreg k l = g.vreg k l := rfl
@[simp] theorem Group.pred_setU (g : Group) (r k : Nat) (x : DWord) : (g.setU r x).pred k = g.pred k := rfl

@[simp] theorem Group.vreg_setP (g : Group) (k : Nat) (a b : Mask) (r l : Nat) :
    (g.setP k a b).vreg r l = g.vreg r l := by unfold Group.setP; split <;> rfl

@[simp] theorem Group.ureg_setP (g : Group) (k : Nat) (a b : Mask) (r : Nat) :
    (g.setP k a b).ureg r = g.ureg r := by unfold Group.setP; split <;> rfl

/-- A predicate after a write in the lanes of a mask; p7 takes no write (R117). -/
theorem Group.pred_setP (g : Group) (k j : Nat) (a b : Mask) (hk : k < 7) (hj : j < 7) :
    (g.setP k a b).pred j = if k = j then (g.pred k &&& ~~~a) ||| (b &&& a) else g.pred j := by
  have h7 : ∀ g : Group, ∀ i < 7, g.pred i = Map.get 0 g.p i := fun g i hi => if_neg (by omega)
  rw [h7 _ j hj, h7 g k hk, h7 g j hj, Group.setP, if_pos hk, h7 g k hk]
  exact Map.get_set _ _ _ _ _

end Sys2Proof.Machine
end

