-- ==== Sys2Proof/Laws/Slots.lean ====
section
/-!
SUPPORT. Sys2Proof/Laws/Slots.lean: what a slot does that passes its checks, and everything that retiring it can do.
-/

namespace Sys2Proof.Machine

/-- A slot that takes effect is its effect. -/
theorem State.slot_issues {s : State} {i : Instr} {u : Uses} (h : s.Issues i u) (e : State → State) : s.slot i u e = e s := by
  simp [State.slot, h.checks, h.allotted, h.room, h.free, h.shapes]

/-- A slot that fails a check takes that cause (R65). -/
theorem State.slot_fails {s : State} {i : Instr} {c : BitVec 9} (u : Uses) (h : s.slotCause i = some c) (e : State → State) :
    s.slot i u e = s.raise c := by
  simp [State.slot, h]

/-- A slot that names a register beyond its allotment takes 0x00D (R120). -/
theorem State.slot_beyond {s : State} {i : Instr} {u : Uses} {n : DWord} (h : s.slotCause i = none)
    (hb : s.ct.firstBeyond u = some n) (e : State → State) : s.slot i u e = s.raise 0x00D none n := by
  simp [State.slot, h, hb]

/-- An instruction marked *any* with a lane or no predicate acts (R93). -/
theorem State.whenActs_acts {s : State} (h : s.actsAny = true) (e : State → State) : s.whenActs e = e s := by
  simp [State.whenActs, h]

/-! ## Completion flags -/

theorem Group.flag_issue (g : Group) (x : Inflight) (k : Nat) :
    (g.issue x).flag k = g.flag k + (if x.flag = some k then 1 else 0) := by
  unfold Group.issue Group.flag
  cases x.flag with
  | none => simp
  | some j =>
    simp only [Option.some.injEq]
    by_cases h : j = k
    · subst h; simp [Map.get_set]
    · simp [Map.get_set, h]

@[simp] theorem Group.frags_issue (g : Group) (x : Inflight) : (g.issue x).frags = g.frags := by
  unfold Group.issue; cases x.flag <;> rfl

/-- The registers of an instruction that is issued are pending. -/
theorem Group.pending_issue (g : Group) (x : Inflight) (r : Reg) (h : r ∈ x.regs) : r ∈ (g.issue x).pendingRegs := by
  have hi : (g.issue x).inflight = Map.put g.inflight (Map.fresh g.inflight) x := by
    unfold Group.issue; cases x.flag <;> rfl
  unfold Group.pendingRegs
  rw [hi]
  refine List.mem_append_left _ (List.mem_flatten.2 ⟨x.regs, List.mem_map.2 ⟨_, Map.put_mem _ _ _, rfl⟩, h⟩)

@[simp] theorem Group.rest_issue (g : Group) (x : Inflight) : (g.issue x).rest = g.rest := by
  unfold Group.issue; cases x.flag <;> rfl

@[simp] theorem Group.frags_complete (g : Group) (i : Nat) : (g.complete i).frags = g.frags := by
  unfold Group.complete; split <;> [rfl; (split <;> rfl)]

@[simp] theorem Group.rest_complete (g : Group) (i : Nat) : (g.complete i).rest = g.rest := by
  unfold Group.complete; split <;> [rfl; (split <;> rfl)]

@[simp] theorem Group.v_issue (g : Group) (x : Inflight) : (g.issue x).v = g.v := by
  unfold Group.issue; cases x.flag <;> rfl
@[simp] theorem Group.s_issue (g : Group) (x : Inflight) : (g.issue x).s = g.s := by
  unfold Group.issue; cases x.flag <;> rfl
@[simp] theorem Group.p_issue (g : Group) (x : Inflight) : (g.issue x).p = g.p := by
  unfold Group.issue; cases x.flag <;> rfl
@[simp] theorem Group.stop_issue (g : Group) (x : Inflight) : (g.issue x).stop = g.stop := by
  unfold Group.issue; cases x.flag <;> rfl

/-! ## Changes of the executing group alone -/

theorem GroupOnly.refl (s : State) : GroupOnly s s := ⟨rfl, fun _ => rfl, fun _ _ => rfl, rfl, fun _ _ => rfl⟩

theorem GroupOnly.cur {s t : State} (h : GroupOnly s t) : t.cur = s.cur :=
  (congrArg State.cur h.outside : t.rest.cur = s.rest.cur)

theorem GroupOnly.trans {s t u : State} (h : GroupOnly s t) (h' : GroupOnly t u) : GroupOnly s u where
  outside := h'.outside.trans h.outside
  memory a := (h'.memory a).trans (h.memory a)
  otherTeams k hk := (h'.otherTeams k (by rwa [h.cur])).trans (h.otherTeams k hk)
  team := h'.team.trans h.team
  otherGroups k hk := (h'.otherGroups k (by rwa [h.cur])).trans (h.otherGroups k hk)

theorem State.setG_only (s : State) (f : Group → Group) : GroupOnly s (s.setG f) where
  outside := rfl
  memory _ := rfl
  otherTeams k hk := by
    show (s.updTeam _ _).teamOf k = _
    rw [State.teamOf_updTeam, if_neg (Ne.symm hk)]
  team := by rw [State.ct_setG]; rfl
  otherGroups k hk := by rw [State.ct_setG, Team.groupOf_updGroup, if_neg (Ne.symm hk)]

theorem State.setF_only (s : State) (f : Frag → Frag) : GroupOnly s (s.setF f) := s.setG_only _

theorem State.track_only (s : State) (regs : List Reg) (tile : TileUse) : GroupOnly s (s.track regs tile) := by
  unfold State.track; dsimp only; split
  · exact .refl s
  · exact s.setG_only _

theorem State.stopAtSafePoint_only (s : State) (stop : Option Stop) : GroupOnly s (s.stopAtSafePoint stop) := by
  unfold State.stopAtSafePoint; split
  · exact s.setG_only _
  · exact .refl s

/-! ## Retiring -/

theorem State.retireTo_only (s : State) (pc : CodePtr) (regs : List Reg) : GroupOnly s (s.retireTo pc regs) :=
  ((s.track_only regs _).trans (State.setF_only _ _)).trans (State.stopAtSafePoint_only _ _)

/-- What a stop at a safe point leaves alone. -/
theorem State.stop_keeps {β : Type} (q : Group → β) (hq : ∀ g, q (Group.drain g) = q g)
    (hs : ∀ (g : Group) x, q { g with stop := x } = q g) (s : State) (stop : Option Stop) :
    q (s.stopAtSafePoint stop).cg = q s.cg := by
  unfold State.stopAtSafePoint
  split
  · rw [State.cg_setG]
    split
    · rfl
    · exact (hs _ _).trans (hq _)
  · rfl

/-- Where nothing stops the group, it goes on. -/
theorem State.stop_goesOn (s t : State) (h : s.GoesOn) (hr : t.ct.request = s.ct.request) :
    t.stopAtSafePoint s.stopAfter = t := by
  unfold State.stopAtSafePoint
  rcases h with h | h
  · rw [h]
  · rw [hr, h]; split <;> simp_all

theorem State.track_cg (s : State) (regs : List Reg) (tile : TileUse) :
    (s.attached = none ∧ regs = [] ∧ (s.track regs tile).cg = s.cg) ∨
      (s.track regs tile).cg = s.cg.issue ⟨s.attached, regs, tile, s.tick, none⟩ := by
  unfold State.track
  dsimp only
  split
  · next h =>
    left
    simp only [Bool.and_eq_true, Option.isNone_iff_eq_none, List.isEmpty_iff] at h
    exact ⟨h.1.1, h.1.2, rfl⟩
  · right; simp

/-- What a track leaves alone. -/
theorem State.track_keeps {β : Type} (q : Group → β) (hq : ∀ g x, q (Group.issue g x) = q g) (s : State) (regs : List Reg)
    (tile : TileUse) : q (s.track regs tile).cg = q s.cg := by
  rcases s.track_cg regs tile with ⟨-, -, h⟩ | h
  · rw [h]
  · rw [h, hq]

theorem State.track_flag (s : State) (regs : List Reg) (tile : TileUse) (k : Nat) :
    (s.track regs tile).cg.flag k = s.cg.flag k + (if s.attached = some k then 1 else 0) := by
  rcases s.track_cg regs tile with ⟨h1, -, h⟩ | h
  · rw [h, h1]; simp
  · rw [h, Group.flag_issue]

/-- Everything that retiring a slot does, after a change of the group that touches nothing but registers: the frame. -/
theorem State.retire_frame {s u : State} (hu0 : GroupOnly s u) (pc : CodePtr) (regs : List Reg) (lanes : List Nat)
    (written : List Reg) (hw : ∀ r ∈ written, r ∈ regs) (hrest : u.cg.rest = s.cg.rest) (hk : u.cg.k = s.cg.k)
    (hf : u.cg.frags = s.cg.frags) (hs : u.cg.stop = s.cg.stop)
    (hv : ∀ r l, l < 64 → (Reg.v r ∉ written ∨ l ∉ lanes) → u.cg.vreg r l = s.cg.vreg r l)
    (hu : ∀ r, Reg.s r ∉ written → u.cg.ureg r = s.cg.ureg r)
    (hp : ∀ k l, k < 7 → l < 64 → (Reg.p k ∉ written ∨ l ∉ lanes) →
      (u.cg.pred k).getLsbD l = (s.cg.pred k).getLsbD l) :
    RegsOnly s (u.retireTo pc regs) lanes written pc ∧
      (u.retireTo pc regs).cg.v = u.cg.v ∧
      (u.retireTo pc regs).cg.s = u.cg.s ∧
      (u.retireTo pc regs).cg.p = u.cg.p := by
  have honly := hu0.trans (u.retireTo_only pc regs)
  have keep : ∀ {β : Type} (q : Group → β) (_ : ∀ g, q (Group.drain g) = q g)
      (_ : ∀ (g : Group) x, q { g with stop := x } = q g) (_ : ∀ g x, q (Group.issue g x) = q g)
      (_ : ∀ (g : Group) x, q { g with frags := x } = q g), q (u.retireTo pc regs).cg = q u.cg := by
    intro β q h1 h2 h3 h4
    unfold State.retireTo
    rw [State.stop_keeps q h1 h2, State.cg_setF]
    exact (h4 _ _).trans (State.track_keeps q h3 _ _ _)
  have kv := keep Group.v (fun _ => rfl) (fun _ _ => rfl) Group.v_issue (fun _ _ => rfl)
  have ks := keep Group.s (fun _ => rfl) (fun _ _ => rfl) Group.s_issue (fun _ _ => rfl)
  have kp := keep Group.p (fun _ => rfl) (fun _ _ => rfl) Group.p_issue (fun _ _ => rfl)
  have kr := keep Group.rest (fun _ => rfl) (fun _ _ => rfl) Group.rest_issue (fun _ _ => rfl)
  have hcf : u.cf = s.cf := by unfold State.cf; rw [hu0.cur]; simp only [Group.fragOf, hf]
  have hat : u.attached = s.attached := by unfold State.attached; rw [hcf, hu0.cur]
  have hst : u.stopAfter = s.stopAfter := by unfold State.stopAfter; rw [hcf, hu0.cur]
  have hgo : s.GoesOn → u.GoesOn := by
    rintro (h | h)
    · exact .inl (hst.trans h)
    · exact .inr ((congrArg Team.request hu0.team : u.ct.rest.request = s.ct.rest.request).trans h)
  have hcg : s.GoesOn → (u.retireTo pc regs).cg =
      (u.track regs).cg.updFrag s.cur.ref.entry (·.goTo pc) := by
    intro h
    unfold State.retireTo
    rw [State.stop_goesOn _ _ (hgo h), State.cg_setF, (u.track_only regs _).cur, hu0.cur]
    · have h1 := ((u.track_only regs ⟨[], []⟩).trans (State.setF_only (u.track regs) (·.goTo pc))).team
      exact (congrArg Team.request h1 :
        ((u.track regs).setF (·.goTo pc)).ct.rest.request = u.ct.rest.request)
  have hfr : (u.retireTo pc regs).cg.frags = (s.cg.updFrag s.cur.ref.entry (·.goTo pc)).frags := by
    unfold State.retireTo
    rw [State.stop_keeps Group.frags (fun _ => rfl) (fun _ _ => rfl), State.cg_setF,
      (u.track_only regs _).cur, hu0.cur]
    have hup : ∀ (a b : Group), a.frags = b.frags → (a.updFrag s.cur.ref.entry (·.goTo pc)).frags =
        (b.updFrag s.cur.ref.entry (·.goTo pc)).frags := by
      intro a b h; simp only [Group.updFrag, h]
    exact hup _ _ ((State.track_keeps Group.frags Group.frags_issue _ _ _).trans hf)
  refine ⟨⟨honly, ?_, ?_, ?_, ?_, ?_, ?_, ?_, ?_, ?_⟩, kv, ks, kp⟩
  · rw [kr, hrest]
  · intro r l hl h
    rw [← hv r l hl h]; simp only [Group.vreg, kv]
  · intro r h
    rw [← hu r h]; simp only [Group.ureg, ks]
  · intro k l hk hl h
    rw [← hp k l hk hl h]; simp only [Group.pred, kp]
  · intro h k
    rw [hcg h]
    show (u.track regs).cg.flag k = _
    rw [State.track_flag, hat]
    simp only [Group.flag, hk]
  · intro h r hr
    rw [hcg h]
    rcases u.track_cg regs ⟨[], []⟩ with ⟨-, h2, -⟩ | h2
    · subst h2; exact absurd (hw r hr) (by simp)
    · rw [h2]
      have := Group.pending_issue u.cg ⟨u.attached, regs, ⟨[], []⟩, u.tick, none⟩ r (hw r hr)
      unfold Group.pendingRegs at this ⊢
      rw [List.mem_append] at this ⊢
      rcases this with h3 | h3
      · exact .inl h3
      · refine .inl ?_
        have hi : ∀ (g : Group) (x : Inflight), (g.issue x).inflight = Map.put g.inflight (Map.fresh g.inflight) x := by
          intro g x; unfold Group.issue; cases x.flag <;> rfl
        show r ∈ (((Group.issue _ _).inflight).map _).flatten
        rw [hi]
        exact List.mem_flatten.2 ⟨regs, List.mem_map.2 ⟨_, Map.put_mem _ _ _, rfl⟩, hw r hr⟩
  · intro h
    rw [hcg h]
    show (u.track regs).cg.stop = _
    rw [State.track_keeps Group.stop Group.stop_issue, hs]
  · intro e he
    simp only [Group.fragOf, hfr]
    exact (Group.fragOf_updFrag s.cg s.cur.ref.entry e _).trans (if_neg (Ne.symm he))
  · show (u.retireTo pc regs).cg.fragOf (u.retireTo pc regs).cur.ref.entry = _
    rw [honly.cur]
    simp only [Group.fragOf, hfr]
    exact (Group.fragOf_updFrag s.cg s.cur.ref.entry _ _).trans (if_pos rfl)

/-- The same where the change is given as one of the executing group. -/
theorem State.retire_setG (s : State) (φ : Group → Group) (pc : CodePtr) (regs : List Reg) (lanes : List Nat)
    (written : List Reg) (hw : ∀ r ∈ written, r ∈ regs) (hrest : (φ s.cg).rest = s.cg.rest) (hk : (φ s.cg).k = s.cg.k)
    (hf : (φ s.cg).frags = s.cg.frags) (hs : (φ s.cg).stop = s.cg.stop)
    (hv : ∀ r l, l < 64 → (Reg.v r ∉ written ∨ l ∉ lanes) → (φ s.cg).vreg r l = s.cg.vreg r l)
    (hu : ∀ r, Reg.s r ∉ written → (φ s.cg).ureg r = s.cg.ureg r)
    (hp : ∀ k l, k < 7 → l < 64 → (Reg.p k ∉ written ∨ l ∉ lanes) →
      ((φ s.cg).pred k).getLsbD l = (s.cg.pred k).getLsbD l) :
    RegsOnly s ((s.setG φ).retireTo pc regs) lanes written pc ∧
      ((s.setG φ).retireTo pc regs).cg.v = (φ s.cg).v ∧
      ((s.setG φ).retireTo pc regs).cg.s = (φ s.cg).s ∧
      ((s.setG φ).retireTo pc regs).cg.p = (φ s.cg).p := by
  have e := State.cg_setG s φ
  simp only [← e] at hrest hk hf hs hv hu hp ⊢
  exact State.retire_frame (s.setG_only φ) pc regs lanes written hw hrest hk hf hs hv hu hp

end Sys2Proof.Machine
end

