-- ==== Sys2Proof/Laws/Lanes.lean ====
section
/-!
SUPPORT. Sys2Proof/Laws/Lanes.lean: what a write of a result in every lane of a list does to a group, and what a slot of that form
does as a whole (R14, R57, R122).
-/

namespace Sys2Proof.Machine

theorem bitsOf_lt (m : Mask) (l : Nat) (h : l ∈ bitsOf m) : l < 64 := by
  unfold bitsOf at h; exact List.mem_range.1 (List.mem_filter.1 h).1

theorem mem_bitsOf (m : Mask) (l : Nat) : l ∈ bitsOf m ↔ m.getLsbD l = true := by
  unfold bitsOf
  rw [List.mem_filter, List.mem_range]
  constructor
  · exact fun h => h.2
  · exact fun h => ⟨BitVec.lt_of_getLsbD h, h⟩

/-- The mask of a list of lanes below 64 holds exactly those lanes. -/
theorem getLsbD_maskOf (ls : List Nat) (l : Nat) (hl : l < 64) : (maskOf ls).getLsbD l = decide (l ∈ ls) := by
  have : ∀ (m : Mask), (ls.foldl (fun m i => m ||| BitVec.ofNat 64 (2 ^ i)) m).getLsbD l = (m.getLsbD l || decide (l ∈ ls)) := by
    induction ls with
    | nil => intro m; simp
    | cons i ls ih =>
      intro m
      rw [List.foldl_cons, ih, BitVec.getLsbD_or]
      have h2 : (BitVec.ofNat 64 (2 ^ i)).getLsbD l = decide (l = i) := by
        rw [BitVec.getLsbD_ofNat, Nat.testBit_two_pow]
        simp [hl, eq_comm]
      rw [h2]
      by_cases h : l = i <;> simp [h]
  unfold maskOf
  rw [this]; simp

/-- What a register write of a group leaves alone. -/
structure Group.SameButV (g h : Group) : Prop where
  s : h.s = g.s
  p : h.p = g.p
  k : h.k = g.k
  frags : h.frags = g.frags
  stop : h.stop = g.stop
  rest : h.rest = g.rest

theorem Group.SameButV.trans {a b c : Group} (h : a.SameButV b) (h' : b.SameButV c) : a.SameButV c :=
  ⟨h'.s.trans h.s, h'.p.trans h.p, h'.k.trans h.k, h'.frags.trans h.frags, h'.stop.trans h.stop, h'.rest.trans h.rest⟩

theorem Group.putI_same (g : Group) (t : Ty) (d l x : Nat) : g.SameButV (g.putI t d l x) := by
  unfold Group.putI; split <;> exact ⟨rfl, rfl, rfl, rfl, rfl, rfl⟩

/-- The registers that a result of a type covers. -/
def destRegs (t : Ty) (d : Nat) : List Reg := vregs d (if Ty.bits t = 64 then 2 else 1)

theorem Group.vreg_putI (g : Group) (t : Ty) (d l x r k : Nat) (hl : l < 64) (hk : k < 64)
    (h : Reg.v r ∉ destRegs t d ∨ k ≠ l) : (g.putI t d l x).vreg r k = g.vreg r k := by
  unfold Group.putI
  unfold destRegs vregs at h
  split
  · next h64 =>
    unfold Group.setV64
    rw [Group.vreg_setV _ _ _ _ _ _ hl hk, Group.vreg_setV _ _ _ _ _ _ hl hk, if_neg, if_neg]
    · rintro ⟨rfl, rfl⟩; simp [h64, List.range_succ] at h
    · rintro ⟨rfl, rfl⟩; simp [h64, List.range_succ] at h
  · next h64 =>
    rw [Group.vreg_setV _ _ _ _ _ _ hl hk, if_neg]
    rintro ⟨rfl, rfl⟩; simp [h64] at h

theorem Group.putI_holds (g : Group) (t : Ty) (d l x : Nat) (hl : l < 64) : (g.putI t d l x).Holds t d l x := by
  unfold Group.putI Group.Holds
  split
  · unfold Group.setV64 Group.vpair
    simp only [Group.vreg_setV _ _ _ _ _ _ hl hl, and_self, and_true, if_true, if_neg (show ¬ d + 1 = d by omega)]
    apply BitVec.eq_of_getLsbD_eq
    intro i hi
    rw [BitVec.getLsbD_append]
    split
    · next h => simp [h]
    · next h => simp [show 32 + (i - 32) = i by omega, show i - 32 < 32 by omega]
  · rw [Group.vreg_setV _ _ _ _ _ _ hl hl]; simp

theorem Group.Holds_congr {g h : Group} {t : Ty} {d l x : Nat}
    (hr : ∀ r, Reg.v r ∈ destRegs t d → h.vreg r l = g.vreg r l) (hg : g.Holds t d l x) : h.Holds t d l x := by
  unfold Group.Holds at *
  unfold destRegs vregs at hr
  split
  · next h64 =>
    rw [if_pos h64] at hg
    rw [← hg]
    unfold Group.vpair
    rw [hr d (by simp [h64, List.range_succ]), hr (d + 1) (by simp [h64, List.range_succ])]
  · next h64 => rw [if_neg h64] at hg; rw [← hg]; exact hr d (by simp [h64])

/-- A result written in every lane of a list: the lanes hold it, and no other lane or register changes. -/
theorem Group.putLanes (t : Ty) (d : Nat) (x : Nat → Nat) (ls : List Nat) (hls : ∀ l ∈ ls, l < 64) (g : Group) :
    g.SameButV (ls.foldl (fun h l => h.putI t d l (x l)) g) ∧
      (∀ l ∈ ls, (ls.foldl (fun h l => h.putI t d l (x l)) g).Holds t d l (x l)) ∧
      (∀ r k, k < 64 → (Reg.v r ∉ destRegs t d ∨ k ∉ ls) →
        (ls.foldl (fun h l => h.putI t d l (x l)) g).vreg r k = g.vreg r k) := by
  induction ls generalizing g with
  | nil => exact ⟨⟨rfl, rfl, rfl, rfl, rfl, rfl⟩, by simp, by simp⟩
  | cons l ls ih =>
    obtain ⟨h1, h2, h3⟩ := ih (fun k hk => hls k (by simp [hk])) (g.putI t d l (x l))
    have hl : l < 64 := hls l (by simp)
    refine ⟨(g.putI_same t d l (x l)).trans h1, ?_, ?_⟩
    · intro k hk
      rw [List.foldl_cons]
      by_cases hkl : k ∈ ls
      · exact h2 k hkl
      · have : k = l := by simpa [hkl] using hk
        subst this
        exact Group.Holds_congr (fun r _ => h3 r k hl (.inr hkl)) (g.putI_holds t d k (x k) hl)
    · intro r k hk h
      rw [List.foldl_cons, h3 r k hk (h.imp id (fun h => by simp_all)),
        Group.vreg_putI g t d l (x l) r k hl hk (h.imp id (fun h => by rintro rfl; simp at h))]

/-- A slot that writes a result in each participating lane: everything it does. -/
theorem State.eachLane_all (s : State) (t : Ty) (d : BitVec 8) (x : Group → Nat → Nat) (regs : List Reg)
    (hr : ∀ r ∈ destRegs t d.toNat, r ∈ regs) :
    RegsOnly s (s.eachLane t d x regs) s.lanes (destRegs t d.toNat) (nextPc s.cf.pc) ∧
      ∀ l ∈ s.lanes, (s.eachLane t d x regs).cg.Holds t d.toNat l (x s.cg l) := by
  have hlt : ∀ l ∈ s.lanes, l < 64 := fun l hl => bitsOf_lt _ _ hl
  obtain ⟨h1, h2, h3⟩ := Group.putLanes t d.toNat (x s.cg) s.lanes hlt s.cg
  have hpc : (s.setG (fun h => s.lanes.foldl (fun h l => h.putI t d.toNat l (x s.cg l)) h)).cf.pc = s.cf.pc := by
    rw [State.cf_setG]; simp only [Group.fragOf, h1.frags]; rfl
  have := State.retire_setG s (fun h => s.lanes.foldl (fun h l => h.putI t d.toNat l (x s.cg l)) h) (nextPc s.cf.pc) regs s.lanes
    (destRegs t d.toNat) hr h1.rest h1.k h1.frags h1.stop h3
    (fun r _ => by simp only [Group.ureg, h1.s]) (fun k l _ _ _ => by simp only [Group.pred, h1.p])
  obtain ⟨hf, hv, -, -⟩ := this
  have he : s.eachLane t d x regs =
      (s.setG (fun h => s.lanes.foldl (fun h l => h.putI t d.toNat l (x s.cg l)) h)).retireTo (nextPc s.cf.pc) regs := by
    unfold State.eachLane State.retire; dsimp only; rw [hpc]
  rw [he]
  refine ⟨hf, fun l hl => Group.Holds_congr (fun r _ => ?_) (h2 l hl)⟩
  simp only [Group.vreg, hv]

/-! ## Predicates and uniform registers -/

theorem Group.setP_same (g : Group) (k : Nat) (a m : Mask) :
    (g.setP k a m).v = g.v ∧ (g.setP k a m).s = g.s ∧ (g.setP k a m).k = g.k ∧ (g.setP k a m).frags = g.frags ∧
      (g.setP k a m).stop = g.stop ∧ (g.setP k a m).rest = g.rest := by
  unfold Group.setP; split <;> exact ⟨rfl, rfl, rfl, rfl, rfl, rfl⟩

/-- A predicate written in the lanes of a mask: elsewhere it keeps its value (R117). -/
theorem Group.pred_setP_bit (g : Group) (d j l : Nat) (a m : Mask) (hj : j < 7) :
    ((g.setP d a m).pred j).getLsbD l =
      if d = j ∧ a.getLsbD l = true then m.getLsbD l else (g.pred j).getLsbD l := by
  by_cases hd : d < 7
  · rw [Group.pred_setP g d j a m hd hj]
    by_cases h : d = j
    · subst h
      rw [if_pos rfl]
      by_cases ha : a.getLsbD l = true
      · simp [ha]
      · have : a.getLsbD l = false := by simpa using ha
        by_cases hl : l < 64
        · rw [if_neg (by simp [ha])]
          simp only [BitVec.getLsbD_or, BitVec.getLsbD_and, BitVec.getLsbD_not, this, hl]
          simp
        · simp [this, BitVec.getLsbD_of_ge _ _ (Nat.le_of_not_lt hl)]
    · simp [h]
  · rw [if_neg (by omega)]; unfold Group.setP; rw [if_neg hd]

/-- A slot that writes a predicate in each participating lane: everything it does. -/
theorem State.writePred_all (s : State) (d : BitVec 8) (p : Nat → Bool) :
    RegsOnly s (s.writePred d p) s.lanes (predReg d) (nextPc s.cf.pc) ∧
      (d.toNat < 7 → ∀ l ∈ s.lanes, ((s.writePred d p).cg.pred d.toNat).getLsbD l = p l) := by
  obtain ⟨h1, h2, h3, h4, h5, h6⟩ := s.cg.setP_same d.toNat s.act (s.laneMask p)
  have hlt : ∀ l ∈ s.lanes, l < 64 := fun l hl => bitsOf_lt _ _ hl
  have hpc : (s.setG (·.setP d.toNat s.act (s.laneMask p))).cf.pc = s.cf.pc := by
    rw [State.cf_setG]; simp only [Group.fragOf, h4]; rfl
  have hm : ∀ l ∈ s.lanes, (s.laneMask p).getLsbD l = p l := by
    intro l hl
    unfold State.laneMask
    rw [getLsbD_maskOf _ _ (hlt l hl)]
    simp [hl]
  obtain ⟨hf, -, -, hp⟩ := State.retire_setG s (·.setP d.toNat s.act (s.laneMask p)) (nextPc s.cf.pc) (predReg d) s.lanes (predReg d)
    (fun _ h => h) h6 h3 h4 h5 (fun r l _ _ => by simp only [Group.vreg, h1]) (fun r _ => by simp only [Group.ureg, h2])
    (fun k l hk hl h => by
      rw [Group.pred_setP_bit _ _ _ _ _ _ hk, if_neg]
      rintro ⟨rfl, ha⟩
      rcases h with h | h
      · simp [predReg, hk] at h
      · exact h ((mem_bitsOf _ _).2 ha))
  have he : s.writePred d p = (s.setG (·.setP d.toNat s.act (s.laneMask p))).retireTo (nextPc s.cf.pc) (predReg d) := by
    unfold State.writePred State.retire; dsimp only; rw [hpc]
  rw [he]
  refine ⟨hf, fun hd l hl => ?_⟩
  have := Group.pred_setP_bit s.cg d.toNat d.toNat l s.act (s.laneMask p) hd
  rw [if_pos ⟨rfl, (mem_bitsOf _ _).1 hl⟩, hm l hl] at this
  rw [← this]
  simp only [Group.pred, hp]

/-- A slot that writes a uniform register: everything it does. -/
theorem State.writeU_all (s : State) (d : BitVec 8) (x : DWord) :
    RegsOnly s (s.writeU d x) [] [.s d.toNat] (nextPc s.cf.pc) ∧ (s.writeU d x).cg.ureg d.toNat = x := by
  obtain ⟨hf, -, hs, -⟩ := State.retire_setG s (·.setU d.toNat x) (nextPc s.cf.pc) [.s d.toNat] [] [.s d.toNat]
    (fun _ h => h) rfl rfl rfl rfl (fun r l _ _ => rfl)
    (fun r h => by rw [Group.ureg_setU, if_neg]; rintro rfl; simp at h) (fun _ _ _ _ _ => rfl)
  have hpc : (s.setG (·.setU d.toNat x)).cf.pc = s.cf.pc := by rw [State.cf_setG]; rfl
  have he : s.writeU d x = (s.setG (·.setU d.toNat x)).retireTo (nextPc s.cf.pc) [.s d.toNat] := by
    unfold State.writeU State.retire; rw [hpc]
  rw [he]
  refine ⟨hf, ?_⟩
  simp only [Group.ureg, hs]
  exact (Group.ureg_setU s.cg d.toNat d.toNat x).trans (if_pos rfl)

/-- A slot that changes no register: everything it does. -/
theorem State.retire_all (s : State) : NothingElse s (s.retire []) := by
  exact (State.retire_frame (GroupOnly.refl s) (nextPc s.cf.pc) [] [] [] (fun _ h => h) rfl rfl rfl rfl
    (fun _ _ _ _ => rfl) (fun _ _ => rfl) (fun _ _ _ _ _ => rfl)).1

/-- A slot that writes a result and a predicate in each participating lane: everything it does. -/
theorem State.eachLaneAnd_all (s : State) (t : Ty) (d pd : BitVec 8) (m : Mask) (x : Group → Nat → Nat) (regs : List Reg)
    (hr : ∀ r ∈ destRegs t d.toNat ++ predReg pd, r ∈ regs) :
    RegsOnly s (s.eachLaneAnd t d pd m x regs) s.lanes (destRegs t d.toNat ++ predReg pd) (nextPc s.cf.pc) ∧
      (∀ l ∈ s.lanes, (s.eachLaneAnd t d pd m x regs).cg.Holds t d.toNat l (x s.cg l)) ∧
      (pd.toNat < 7 → ∀ l ∈ s.lanes, ((s.eachLaneAnd t d pd m x regs).cg.pred pd.toNat).getLsbD l = m.getLsbD l) := by
  have hlt : ∀ l ∈ s.lanes, l < 64 := fun l hl => bitsOf_lt _ _ hl
  obtain ⟨p1, p2, p3, p4, p5, p6⟩ := s.cg.setP_same pd.toNat s.act m
  obtain ⟨h1, h2, h3⟩ := Group.putLanes t d.toNat (x s.cg) s.lanes hlt (s.cg.setP pd.toNat s.act m)
  let φ : Group → Group := fun h => s.lanes.foldl (fun h l => h.putI t d.toNat l (x s.cg l)) (h.setP pd.toNat s.act m)
  have hpc : (s.setG φ).cf.pc = s.cf.pc := by
    rw [State.cf_setG]; simp only [φ, Group.fragOf, h1.frags, p4]; rfl
  obtain ⟨hf, hv, -, hp⟩ := State.retire_setG s φ (nextPc s.cf.pc) regs s.lanes
    (destRegs t d.toNat ++ predReg pd) hr (h1.rest.trans p6) (h1.k.trans p3) (h1.frags.trans p4) (h1.stop.trans p5)
    (fun r l hl h => by
      have := h3 r l hl (h.imp (fun h h' => h (List.mem_append_left _ h')) id)
      exact this.trans (by simp only [Group.vreg, p1]))
    (fun r _ => by simp only [φ, Group.ureg, h1.s, p2])
    (fun k l hk hl h => by
      have : (φ s.cg).pred k = (s.cg.setP pd.toNat s.act m).pred k := by simp only [φ, Group.pred, h1.p]
      rw [this, Group.pred_setP_bit _ _ _ _ _ _ hk, if_neg]
      rintro ⟨rfl, ha⟩
      rcases h with h | h
      · exact h (List.mem_append_right _ (by simp [predReg, hk]))
      · exact h ((mem_bitsOf _ _).2 ha))
  have he : s.eachLaneAnd t d pd m x regs = (s.setG φ).retireTo (nextPc s.cf.pc) regs := by
    unfold State.eachLaneAnd State.retire; dsimp only; rw [hpc]
  rw [he]
  refine ⟨hf, fun l hl => Group.Holds_congr (fun r _ => ?_) (h2 l hl), fun hd l hl => ?_⟩
  · simp only [Group.vreg, hv]; rfl
  · have hb := Group.pred_setP_bit s.cg pd.toNat pd.toNat l s.act m hd
    rw [if_pos ⟨rfl, (mem_bitsOf _ _).1 hl⟩] at hb
    rw [← hb]
    simp only [Group.pred, hp, φ, h1.p]

end Sys2Proof.Machine
end

