-- ==== Sys2Proof/Laws/Memory.lean ====
section
/-!
SUPPORT. Sys2Proof/Laws/Memory.lean: every operation that writes machine memory keeps its canonical form, and what the simplest of them
write.
-/

namespace Sys2Proof.Machine

/-- Canonical memory is a matter of the memory alone. -/
theorem State.Canonical.of_mem {s t : State} (h : s.Canonical) (e : t.mem = s.mem) : t.Canonical := by
  unfold State.Canonical; rw [e]; exact h

theorem State.canonical_iff (s : State) : s.Canonical ↔ Map.wf 0 s.mem = true := Iff.rfl

/-- Single bytes set at places that the list gives. -/
theorem Memory.wf_setAll {β : Type} (l : List β) (at_ : β → Nat) (x : β → Byte) (m : Map Byte) (h : Map.wf 0 m = true) :
    Map.wf 0 (l.foldl (fun m p => Map.set 0 m (at_ p) (x p)) m) = true :=
  Map.wf_foldl 0 l _ m (fun m p hm => Map.wf_set 0 m (at_ p) (x p) hm) h

/-- A loop of the state, each of whose turns keeps memory canonical. -/
theorem State.Canonical.foldl {β : Type} {s : State} (h : s.Canonical) (l : List β) (f : State → β → State)
    (hf : ∀ s x, s.Canonical → (f s x).Canonical) : (l.foldl f s).Canonical := by
  induction l generalizing s with
  | nil => exact h
  | cons x l ih => exact ih (hf s x h)

/-! ## What leaves memory as it is -/

@[simp] theorem State.touchFrame_mem (s : State) (line : Nat) : (s.touchFrame line).mem = s.mem := by
  unfold State.touchFrame; split <;> rfl

@[simp] theorem State.advance_mem (s : State) (line : Nat) : (s.advance line).mem = s.mem := by
  unfold State.advance; dsimp only; split <;> rfl

@[simp] theorem State.record_mem (s : State) (line : Nat) : (s.record line).mem = s.mem := rfl

@[simp] theorem State.dropNc_mem (s : State) (core line : Nat) : (s.dropNc core line).mem = s.mem := rfl

@[simp] theorem State.setNc_mem (s : State) (core line : Nat) (x : NcLine) : (s.setNc core line x).mem = s.mem := rfl

/-! ## Writes -/

theorem State.Canonical.revert {s : State} (h : s.Canonical) (line : Nat) (before : List Byte) (failed : Bool) :
    (s.revert line before failed).Canonical := Map.wf_setBytes s.mem line before h

theorem State.Canonical.place {s : State} (h : s.Canonical) (line : Nat) (before : List Byte) (failed : Bool) :
    (s.place line before failed).Canonical := by
  unfold State.place
  split
  · exact h
  · dsimp only
    split
    · exact h
    · split
      · exact h.revert line before failed
      · exact h

theorem State.Canonical.storeBytes {s : State} (h : s.Canonical) (line off : Nat) (bytes : List (Nat × Byte)) :
    (s.storeBytes line off bytes).Canonical :=
  Memory.wf_setAll bytes (fun p => line + off + p.1) (fun p => p.2) s.mem h

theorem State.Canonical.putBytes {s : State} (h : s.Canonical) (line off : Nat) (bytes : List (Nat × Byte)) :
    (s.putBytes line off bytes).Canonical := by
  unfold State.putBytes
  split
  · exact ((h.storeBytes line off bytes).of_mem (State.touchFrame_mem _ _)).place line _ _
  · exact h.storeBytes line off bytes

theorem State.Canonical.mergeC {s : State} (h : s.Canonical) (line : Nat) : (s.mergeC line).Canonical := by
  unfold State.mergeC
  split
  · exact h
  · dsimp only
    rw [State.canonical_iff, State.record_mem, State.advance_mem, ← State.canonical_iff]
    apply State.Canonical.putBytes
    exact h

theorem State.recall_mem (s : State) (line : Nat) : (s.recall line).mem = (s.mergeC line).mem := by
  unfold State.recall; rfl

theorem State.Canonical.recall {s : State} (h : s.Canonical) (line : Nat) : (s.recall line).Canonical :=
  (h.mergeC line).of_mem (s.recall_mem line)

theorem State.Canonical.homeWrite {s : State} (h : s.Canonical) (line off : Nat) (bytes : List (Nat × Byte)) :
    (s.homeWrite line off bytes).Canonical :=
  ((h.recall line).putBytes line off bytes).of_mem (by rw [State.homeWrite, State.record_mem, State.advance_mem])

theorem State.Canonical.ownedWrite {s : State} (h : s.Canonical) (agent line off : Nat) (bytes : List (Nat × Byte)) :
    (s.ownedWrite agent line off bytes).Canonical := by
  unfold State.ownedWrite
  dsimp only
  apply State.Canonical.putBytes
  split
  · exact h.mergeC line
  · rw [State.canonical_iff, State.record_mem, State.advance_mem, ← State.canonical_iff]
    exact h.mergeC line

theorem State.readLine_mem (s : State) (line : Nat) (who : Option Nat) : (s.readLine line who).2.mem = (s.mergeC line).mem := by
  unfold State.readLine
  by_cases e : Map.get none ((s.mergeC line).touchFrame line).lineOwner (line / 64) = who <;> simp [e]

theorem State.Canonical.readLine {s : State} (h : s.Canonical) (line : Nat) (who : Option Nat := none) :
    (s.readLine line who).2.Canonical :=
  (h.mergeC line).of_mem (s.readLine_mem line who)

theorem State.Canonical.reduceElems {s : State} (h : s.Canonical) (die line : Nat) (op : MemRedOp) (t : Ty) (l : List (Nat × Nat)) :
    (s.reduceElems die line op t l).Canonical := by
  unfold State.reduceElems
  dsimp only
  refine .of_mem (s := match Map.find s.cLines (line / 64) with
    | some c => if c.op = op ∧ c.ty = t then s else (s.mergeC line).advance line
    | none => s.advance line) ?_ (by rw [State.record_mem]; exact State.touchFrame_mem _ _)
  split
  · split
    · exact h
    · exact (h.mergeC line).of_mem (State.advance_mem _ _)
  · exact h.of_mem (State.advance_mem _ _)

theorem State.Canonical.readSpots {s : State} (h : s.Canonical) (l : List (Nat × Nat)) : (s.readSpots l).2.Canonical := by
  unfold State.readSpots
  exact h.foldl _ _ (fun s m hs => hs.readLine m)

theorem State.Canonical.writeSpots {s : State} (h : s.Canonical) (l : List (Nat × Nat)) (x : Nat) : (s.writeSpots l x).Canonical := by
  unfold State.writeSpots
  exact h.foldl _ _ (fun s m hs => hs.homeWrite m 0 _)

/-- A copy's write-back, as one write at the home. -/
theorem State.writeBackNc_mem (s : State) (core line : Nat) :
    (s.writeBackNc core line).mem = s.mem ∨ ∃ bs, (s.writeBackNc core line).mem = (s.homeWrite line 0 bs).mem := by
  rw [State.writeBackNc]
  cases s.ncCopy core line with
  | none => exact .inl rfl
  | some x =>
    dsimp only
    split
    · exact .inl rfl
    · exact .inr ⟨x.dirtyBytes, State.setNc_mem _ _ _ _⟩

theorem State.Canonical.writeBackNc {s : State} (h : s.Canonical) (core line : Nat) : (s.writeBackNc core line).Canonical := by
  rcases s.writeBackNc_mem core line with e | ⟨bs, e⟩
  · exact h.of_mem e
  · exact (h.homeWrite line 0 bs).of_mem e

theorem State.Canonical.walked {s : State} (h : s.Canonical) (ctx va : Nat) : (s.walked ctx va).Canonical := by
  unfold State.walked
  exact h.foldl _ _ (fun s l hs => hs.readLine l)

theorem State.Canonical.cache {s : State} (h : s.Canonical) (ctx line : Nat) : (s.cache ctx line).Canonical := by
  unfold State.cache
  split
  · dsimp only
    split
    · exact h
    · exact (h.walked ctx line).of_mem rfl
  · exact h

/-- What a write by an agent that succeeds has done. -/
theorem State.agentWrite_ok {s t : State} {ctx : Nat} {user : Bool} {va : Nat} {bytes : List Byte}
    (e : s.agentWrite ctx user va bytes = .ok t) : ∃ m o l, t = (s.cache ctx (alignDown 64 va)).homeWrite m o l := by
  unfold State.agentWrite at e
  dsimp only at e
  cases h : s.homeLine ctx user .write (alignDown 64 va) with
  | error x => rw [h] at e; exact absurd e (by simp)
  | ok m =>
    rw [h] at e
    dsimp only at e
    cases k : s.reachStop (alignDown 64 va) m (bytes.length == 64) with
    | some x => rw [k] at e; exact absurd e (by simp)
    | none => rw [k] at e; exact ⟨m, _, _, (Except.ok.inj e).symm⟩

theorem State.Canonical.agentWrite {s t : State} (h : s.Canonical) (ctx : Nat) (user : Bool) (va : Nat) (bytes : List Byte)
    (e : s.agentWrite ctx user va bytes = .ok t) : t.Canonical := by
  obtain ⟨m, o, l, rfl⟩ := State.agentWrite_ok e
  exact (h.cache _ _).homeWrite _ _ _

theorem State.Canonical.writeLines {s : State} (h : s.Canonical) (ctx : Nat) (l : List (Nat × List Byte)) :
    (s.writeLines ctx l).Canonical := by
  unfold State.writeLines
  refine h.foldl _ _ fun s x hs => ?_
  cases e : s.agentWrite ctx false x.1 x.2 with
  | ok t => exact hs.agentWrite _ _ _ _ e
  | error _ => exact hs

theorem State.storeImage_mem (s : State) (ctx slot : Nat) (rs : List ImageRec) :
    (s.storeImage ctx slot rs).mem =
      (s.writeLines ctx (lineWrites (s.slotBase ctx slot) (imageBytes s.tick rs))).mem := by
  simp only [State.storeImage]

theorem State.Canonical.storeImage {s : State} (h : s.Canonical) (ctx slot : Nat) (rs : List ImageRec) :
    (s.storeImage ctx slot rs).Canonical :=
  (h.writeLines ctx _).of_mem (s.storeImage_mem ctx slot rs)

/-- What a failed access leaves of memory: that of the merges of its walk. -/
theorem State.Canonical.looked {s : State} (h : s.Canonical) (ctx va : Nat) : (s.looked ctx va).Canonical := by
  unfold State.looked
  split
  · split
    · exact h
    · exact h.walked ctx va
  · exact h.walked ctx va

/-! ## Frames and columns -/

theorem State.Canonical.zeroFrame {s : State} (h : s.Canonical) (frame : Nat) : (s.zeroFrame frame).Canonical :=
  Map.wf_filter 0 s.mem _ h

theorem State.Canonical.foldr {β : Type} {s : State} (h : s.Canonical) (l : List β) (f : β → State → State)
    (hf : ∀ x t, State.Canonical t → State.Canonical (f x t)) : (l.foldr f s).Canonical := by
  induction l with
  | nil => exact h
  | cons x l ih => exact hf x _ ih

theorem State.Canonical.discard {s : State} (h : s.Canonical) (ctx : Nat) : (s.discard ctx).Canonical :=
  (h.foldr (s.held.filter (fun w => w.ctx == ctx && !w.back)) (fun w t => t.revert w.line w.before w.failed)
    (fun w _ ht => ht.revert w.line w.before w.failed)).of_mem rfl

theorem State.Canonical.putColumns {s : State} (h : s.Canonical) (ws : List (Nat × List (Nat × Byte))) :
    (s.putColumns ws).Canonical := by
  unfold State.putColumns
  exact h.foldl _ _ (fun s w hs => Memory.wf_setAll w.2 (fun p => w.1 + p.1) (fun p => p.2) s.mem hs)

theorem State.Canonical.uncache {s : State} (h : s.Canonical) (line : Nat) : (s.uncache line).Canonical := by
  unfold State.uncache
  apply State.Canonical.recall
  exact h.foldl _ _ (fun s core hs => (hs.writeBackNc core line).of_mem (State.dropNc_mem _ _ _))

/-! ## What a write leaves in plain frames -/

/-- A byte after bytes were set one by one: the last one set there, else the old one. -/
theorem Memory.get_setAll (l : List (Nat × Byte)) (base : Nat) (m : Map Byte) (a : Nat) (h : ∀ p ∈ l, base + p.1 ≠ a) :
    Map.get 0 (l.foldl (fun m p => Map.set 0 m (base + p.1) p.2) m) a = Map.get 0 m a := by
  induction l generalizing m with
  | nil => rfl
  | cons p l ih =>
    rw [List.foldl_cons, ih _ (fun q hq => h q (List.mem_cons_of_mem p hq)), Map.get_set, if_neg (h p (List.mem_cons_self))]

/-- A write of a plain line leaves every byte that it does not name. -/
theorem State.byteAt_putBytes (s : State) (line off : Nat) (bytes : List (Nat × Byte)) (a : Nat) (hp : s.compressed line = false)
    (h : ∀ p ∈ bytes, line + off + p.1 ≠ a) : (s.putBytes line off bytes).byteAt a = s.byteAt a := by
  unfold State.putBytes
  rw [hp, if_neg Bool.false_ne_true]
  exact Memory.get_setAll bytes (line + off) s.mem a h

end Sys2Proof.Machine
end

