-- ==== Sys2Proof/Laws/PerInstr.lean ====
section
/-!
SUPPORT. Sys2Proof/Laws/PerInstr.lean: for every constructor, which of the three kinds of row it is: a slot of the opcode map (R68), a
micro-operation of the producer (R255), or an event of the machine; and that it has an encoding of that kind and of no other.
-/

namespace Sys2Proof.Laws.OneEncoding

/-- An instruction has a slot's word under every header, or a producer's word, or none because it is an event. -/
def Statement (i : Instr) : Prop :=
  (i.isEvent = false ∧ encodeStream i = none ∧ ∀ h b, (encodeIns h b i).isSome = true) ∨
    (i.isEvent = false ∧ (encodeStream i).isSome = true ∧ ∀ h b, encodeIns h b i = none) ∨
    (i.isEvent = true ∧ encodeStream i = none ∧ ∀ h b, encodeIns h b i = none)

theorem bra (f : FmtB) : Statement (.bra f) := .inl ⟨rfl, rfl, fun _ _ => rfl⟩
theorem braU (f : FmtB) : Statement (.braU f) := .inl ⟨rfl, rfl, fun _ _ => rfl⟩
theorem jmp (f : FmtB) : Statement (.jmp f) := .inl ⟨rfl, rfl, fun _ _ => rfl⟩
theorem jmpi (f : FmtB) : Statement (.jmpi f) := .inl ⟨rfl, rfl, fun _ _ => rfl⟩
theorem call (f : FmtB) : Statement (.call f) := .inl ⟨rfl, rfl, fun _ _ => rfl⟩
theorem ret (f : FmtB) : Statement (.ret f) := .inl ⟨rfl, rfl, fun _ _ => rfl⟩
theorem loop (f : FmtB) : Statement (.loop f) := .inl ⟨rfl, rfl, fun _ _ => rfl⟩
theorem mfem (f : FmtA) : Statement (.mfem f) := .inl ⟨rfl, rfl, fun _ _ => rfl⟩
theorem mtem (f : FmtA) : Statement (.mtem f) := .inl ⟨rfl, rfl, fun _ _ => rfl⟩
theorem mfom (f : FmtA) : Statement (.mfom f) := .inl ⟨rfl, rfl, fun _ _ => rfl⟩
theorem nap (f : FmtA) : Statement (.nap f) := .inl ⟨rfl, rfl, fun _ _ => rfl⟩
theorem spawn (f : FmtE) : Statement (.spawn f) := .inl ⟨rfl, rfl, fun _ _ => rfl⟩
theorem add (f : FmtA) : Statement (.add f) := .inl ⟨rfl, rfl, fun _ _ => rfl⟩
theorem sub (f : FmtA) : Statement (.sub f) := .inl ⟨rfl, rfl, fun _ _ => rfl⟩
theorem addc (f : FmtA) : Statement (.addc f) := .inl ⟨rfl, rfl, fun _ _ => rfl⟩
theorem subb (f : FmtA) : Statement (.subb f) := .inl ⟨rfl, rfl, fun _ _ => rfl⟩
theorem min (f : FmtA) : Statement (.min f) := .inl ⟨rfl, rfl, fun _ _ => rfl⟩
theorem max (f : FmtA) : Statement (.max f) := .inl ⟨rfl, rfl, fun _ _ => rfl⟩
theorem abs (f : FmtA) : Statement (.abs f) := .inl ⟨rfl, rfl, fun _ _ => rfl⟩
theorem neg (f : FmtA) : Statement (.neg f) := .inl ⟨rfl, rfl, fun _ _ => rfl⟩
theorem mul (f : FmtA) : Statement (.mul f) := .inl ⟨rfl, rfl, fun _ _ => rfl⟩
theorem mulh (f : FmtA) : Statement (.mulh f) := .inl ⟨rfl, rfl, fun _ _ => rfl⟩
theorem mulhu (f : FmtA) : Statement (.mulhu f) := .inl ⟨rfl, rfl, fun _ _ => rfl⟩
theorem mad (f : FmtA) : Statement (.mad f) := .inl ⟨rfl, rfl, fun _ _ => rfl⟩
theorem madw (f : FmtA) : Statement (.madw f) := .inl ⟨rfl, rfl, fun _ _ => rfl⟩
theorem div (f : FmtA) : Statement (.div f) := .inl ⟨rfl, rfl, fun _ _ => rfl⟩
theorem divu (f : FmtA) : Statement (.divu f) := .inl ⟨rfl, rfl, fun _ _ => rfl⟩
theorem rem (f : FmtA) : Statement (.rem f) := .inl ⟨rfl, rfl, fun _ _ => rfl⟩
theorem remu (f : FmtA) : Statement (.remu f) := .inl ⟨rfl, rfl, fun _ _ => rfl⟩
theorem and (f : FmtA) : Statement (.and f) := .inl ⟨rfl, rfl, fun _ _ => rfl⟩
theorem or (f : FmtA) : Statement (.or f) := .inl ⟨rfl, rfl, fun _ _ => rfl⟩
theorem xor (f : FmtA) : Statement (.xor f) := .inl ⟨rfl, rfl, fun _ _ => rfl⟩
theorem not (f : FmtA) : Statement (.not f) := .inl ⟨rfl, rfl, fun _ _ => rfl⟩
theorem andn (f : FmtA) : Statement (.andn f) := .inl ⟨rfl, rfl, fun _ _ => rfl⟩
theorem lop3 (f : FmtA) : Statement (.lop3 f) := .inl ⟨rfl, rfl, fun _ _ => rfl⟩
theorem shl (f : FmtA) : Statement (.shl f) := .inl ⟨rfl, rfl, fun _ _ => rfl⟩
theorem shr (f : FmtA) : Statement (.shr f) := .inl ⟨rfl, rfl, fun _ _ => rfl⟩
theorem sra (f : FmtA) : Statement (.sra f) := .inl ⟨rfl, rfl, fun _ _ => rfl⟩
theorem rol (f : FmtA) : Statement (.rol f) := .inl ⟨rfl, rfl, fun _ _ => rfl⟩
theorem ror (f : FmtA) : Statement (.ror f) := .inl ⟨rfl, rfl, fun _ _ => rfl⟩
theorem bfx (f : FmtA) : Statement (.bfx f) := .inl ⟨rfl, rfl, fun _ _ => rfl⟩
theorem bfi (f : FmtA) : Statement (.bfi f) := .inl ⟨rfl, rfl, fun _ _ => rfl⟩
theorem popc (f : FmtA) : Statement (.popc f) := .inl ⟨rfl, rfl, fun _ _ => rfl⟩
theorem clz (f : FmtA) : Statement (.clz f) := .inl ⟨rfl, rfl, fun _ _ => rfl⟩
theorem ctz (f : FmtA) : Statement (.ctz f) := .inl ⟨rfl, rfl, fun _ _ => rfl⟩
theorem brev (f : FmtA) : Statement (.brev f) := .inl ⟨rfl, rfl, fun _ _ => rfl⟩
theorem bperm (f : FmtA) : Statement (.bperm f) := .inl ⟨rfl, rfl, fun _ _ => rfl⟩
theorem cmp (c : Cond) (f : FmtA) : Statement (.cmp c f) := .inl ⟨rfl, rfl, fun _ _ => rfl⟩
theorem mov (f : FmtA) : Statement (.mov f) := .inl ⟨rfl, rfl, fun _ _ => rfl⟩
theorem movi (f : FmtA) : Statement (.movi f) := .inl ⟨rfl, rfl, fun _ _ => rfl⟩
theorem sel (f : FmtA) : Statement (.sel f) := .inl ⟨rfl, rfl, fun _ _ => rfl⟩
theorem sext (f : FmtA) : Statement (.sext f) := .inl ⟨rfl, rfl, fun _ _ => rfl⟩
theorem zext (f : FmtA) : Statement (.zext f) := .inl ⟨rfl, rfl, fun _ _ => rfl⟩
theorem lea (f : FmtA) : Statement (.lea f) := .inl ⟨rfl, rfl, fun _ _ => rfl⟩
theorem pand (f : FmtA) : Statement (.pand f) := .inl ⟨rfl, rfl, fun _ _ => rfl⟩
theorem por (f : FmtA) : Statement (.por f) := .inl ⟨rfl, rfl, fun _ _ => rfl⟩
theorem pxor (f : FmtA) : Statement (.pxor f) := .inl ⟨rfl, rfl, fun _ _ => rfl⟩
theorem pnot (f : FmtA) : Statement (.pnot f) := .inl ⟨rfl, rfl, fun _ _ => rfl⟩
theorem pmfs (f : FmtA) : Statement (.pmfs f) := .inl ⟨rfl, rfl, fun _ _ => rfl⟩
theorem pmts (f : FmtA) : Statement (.pmts f) := .inl ⟨rfl, rfl, fun _ _ => rfl⟩
theorem shfl (m : ShflMode) (f : FmtA) : Statement (.shfl m f) := .inl ⟨rfl, rfl, fun _ _ => rfl⟩
theorem vany (f : FmtA) : Statement (.vany f) := .inl ⟨rfl, rfl, fun _ _ => rfl⟩
theorem vall (f : FmtA) : Statement (.vall f) := .inl ⟨rfl, rfl, fun _ _ => rfl⟩
theorem vbal (f : FmtA) : Statement (.vbal f) := .inl ⟨rfl, rfl, fun _ _ => rfl⟩
theorem vred (op : RedOp) (f : FmtA) : Statement (.vred op f) := .inl ⟨rfl, rfl, fun _ _ => rfl⟩
theorem vscan (excl : Bool) (op : RedOp) (f : FmtA) : Statement (.vscan excl op f) := .inl ⟨rfl, rfl, fun _ _ => rfl⟩
theorem vcomp (f : FmtA) : Statement (.vcomp f) := .inl ⟨rfl, rfl, fun _ _ => rfl⟩
theorem mfl (f : FmtA) : Statement (.mfl f) := .inl ⟨rfl, rfl, fun _ _ => rfl⟩
theorem mtl (f : FmtA) : Statement (.mtl f) := .inl ⟨rfl, rfl, fun _ _ => rfl⟩
theorem uadd (f : FmtA) : Statement (.uadd f) := .inl ⟨rfl, rfl, fun _ _ => rfl⟩
theorem usub (f : FmtA) : Statement (.usub f) := .inl ⟨rfl, rfl, fun _ _ => rfl⟩
theorem umin (f : FmtA) : Statement (.umin f) := .inl ⟨rfl, rfl, fun _ _ => rfl⟩
theorem umax (f : FmtA) : Statement (.umax f) := .inl ⟨rfl, rfl, fun _ _ => rfl⟩
theorem umul (f : FmtA) : Statement (.umul f) := .inl ⟨rfl, rfl, fun _ _ => rfl⟩
theorem umad (f : FmtA) : Statement (.umad f) := .inl ⟨rfl, rfl, fun _ _ => rfl⟩
theorem uand (f : FmtA) : Statement (.uand f) := .inl ⟨rfl, rfl, fun _ _ => rfl⟩
theorem uor (f : FmtA) : Statement (.uor f) := .inl ⟨rfl, rfl, fun _ _ => rfl⟩
theorem uxor (f : FmtA) : Statement (.uxor f) := .inl ⟨rfl, rfl, fun _ _ => rfl⟩
theorem ushl (f : FmtA) : Statement (.ushl f) := .inl ⟨rfl, rfl, fun _ _ => rfl⟩
theorem ushr (f : FmtA) : Statement (.ushr f) := .inl ⟨rfl, rfl, fun _ _ => rfl⟩
theorem usra (f : FmtA) : Statement (.usra f) := .inl ⟨rfl, rfl, fun _ _ => rfl⟩
theorem ubfx (f : FmtA) : Statement (.ubfx f) := .inl ⟨rfl, rfl, fun _ _ => rfl⟩
theorem ubfi (f : FmtA) : Statement (.ubfi f) := .inl ⟨rfl, rfl, fun _ _ => rfl⟩
theorem upopc (f : FmtA) : Statement (.upopc f) := .inl ⟨rfl, rfl, fun _ _ => rfl⟩
theorem ucmp (c : Cond) (f : FmtA) : Statement (.ucmp c f) := .inl ⟨rfl, rfl, fun _ _ => rfl⟩
theorem umov (f : FmtA) : Statement (.umov f) := .inl ⟨rfl, rfl, fun _ _ => rfl⟩
theorem umovi (f : FmtA) : Statement (.umovi f) := .inl ⟨rfl, rfl, fun _ _ => rfl⟩
theorem ulea (f : FmtA) : Statement (.ulea f) := .inl ⟨rfl, rfl, fun _ _ => rfl⟩
theorem fadd (f : FmtA) : Statement (.fadd f) := .inl ⟨rfl, rfl, fun _ _ => rfl⟩
theorem fsub (f : FmtA) : Statement (.fsub f) := .inl ⟨rfl, rfl, fun _ _ => rfl⟩
theorem fmul (f : FmtA) : Statement (.fmul f) := .inl ⟨rfl, rfl, fun _ _ => rfl⟩
theorem ffma (f : FmtA) : Statement (.ffma f) := .inl ⟨rfl, rfl, fun _ _ => rfl⟩
theorem ffms (f : FmtA) : Statement (.ffms f) := .inl ⟨rfl, rfl, fun _ _ => rfl⟩
theorem fnma (f : FmtA) : Statement (.fnma f) := .inl ⟨rfl, rfl, fun _ _ => rfl⟩
theorem fmin (f : FmtA) : Statement (.fmin f) := .inl ⟨rfl, rfl, fun _ _ => rfl⟩
theorem fmax (f : FmtA) : Statement (.fmax f) := .inl ⟨rfl, rfl, fun _ _ => rfl⟩
theorem fcmp (c : FCond) (f : FmtA) : Statement (.fcmp c f) := .inl ⟨rfl, rfl, fun _ _ => rfl⟩
theorem fdiv (f : FmtA) : Statement (.fdiv f) := .inl ⟨rfl, rfl, fun _ _ => rfl⟩
theorem fsqrt (f : FmtA) : Statement (.fsqrt f) := .inl ⟨rfl, rfl, fun _ _ => rfl⟩
theorem frcp (f : FmtA) : Statement (.frcp f) := .inl ⟨rfl, rfl, fun _ _ => rfl⟩
theorem frsq (f : FmtA) : Statement (.frsq f) := .inl ⟨rfl, rfl, fun _ _ => rfl⟩
theorem fex2 (f : FmtA) : Statement (.fex2 f) := .inl ⟨rfl, rfl, fun _ _ => rfl⟩
theorem flg2 (f : FmtA) : Statement (.flg2 f) := .inl ⟨rfl, rfl, fun _ _ => rfl⟩
theorem fsin (f : FmtA) : Statement (.fsin f) := .inl ⟨rfl, rfl, fun _ _ => rfl⟩
theorem fcos (f : FmtA) : Statement (.fcos f) := .inl ⟨rfl, rfl, fun _ _ => rfl⟩
theorem ftanh (f : FmtA) : Statement (.ftanh f) := .inl ⟨rfl, rfl, fun _ _ => rfl⟩
theorem frnd (f : FmtA) : Statement (.frnd f) := .inl ⟨rfl, rfl, fun _ _ => rfl⟩
theorem ffrac (f : FmtA) : Statement (.ffrac f) := .inl ⟨rfl, rfl, fun _ _ => rfl⟩
theorem fclass (f : FmtA) : Statement (.fclass f) := .inl ⟨rfl, rfl, fun _ _ => rfl⟩
theorem fscale (f : FmtA) : Statement (.fscale f) := .inl ⟨rfl, rfl, fun _ _ => rfl⟩
theorem hadd2 (f : FmtA) : Statement (.hadd2 f) := .inl ⟨rfl, rfl, fun _ _ => rfl⟩
theorem hmul2 (f : FmtA) : Statement (.hmul2 f) := .inl ⟨rfl, rfl, fun _ _ => rfl⟩
theorem hfma2 (f : FmtA) : Statement (.hfma2 f) := .inl ⟨rfl, rfl, fun _ _ => rfl⟩
theorem hmin2 (f : FmtA) : Statement (.hmin2 f) := .inl ⟨rfl, rfl, fun _ _ => rfl⟩
theorem hmax2 (f : FmtA) : Statement (.hmax2 f) := .inl ⟨rfl, rfl, fun _ _ => rfl⟩
theorem cvt (f : FmtA) : Statement (.cvt f) := .inl ⟨rfl, rfl, fun _ _ => rfl⟩
theorem cvtpk (f : FmtA) : Statement (.cvtpk f) := .inl ⟨rfl, rfl, fun _ _ => rfl⟩
theorem cvtun (f : FmtA) : Statement (.cvtun f) := .inl ⟨rfl, rfl, fun _ _ => rfl⟩
theorem dp2Bf16 (f : FmtA) : Statement (.dp2Bf16 f) := .inl ⟨rfl, rfl, fun _ _ => rfl⟩
theorem dp2F16 (f : FmtA) : Statement (.dp2F16 f) := .inl ⟨rfl, rfl, fun _ _ => rfl⟩
theorem dp4E4m3 (f : FmtA) : Statement (.dp4E4m3 f) := .inl ⟨rfl, rfl, fun _ _ => rfl⟩
theorem dp4E5m2 (f : FmtA) : Statement (.dp4E5m2 f) := .inl ⟨rfl, rfl, fun _ _ => rfl⟩
theorem dp4Hs8 (f : FmtA) : Statement (.dp4Hs8 f) := .inl ⟨rfl, rfl, fun _ _ => rfl⟩
theorem dp8Hs4 (f : FmtA) : Statement (.dp8Hs4 f) := .inl ⟨rfl, rfl, fun _ _ => rfl⟩
theorem dp8E2m1 (f : FmtA) : Statement (.dp8E2m1 f) := .inl ⟨rfl, rfl, fun _ _ => rfl⟩
theorem dp4I8 (f : FmtA) : Statement (.dp4I8 f) := .inl ⟨rfl, rfl, fun _ _ => rfl⟩
theorem dp4N8 (f : FmtA) : Statement (.dp4N8 f) := .inl ⟨rfl, rfl, fun _ _ => rfl⟩
theorem mxs (f : FmtA) : Statement (.mxs f) := .inl ⟨rfl, rfl, fun _ _ => rfl⟩
theorem mzero (f : FmtT) : Statement (.mzero f) := .inl ⟨rfl, rfl, fun _ _ => rfl⟩
theorem mld (f : FmtT) : Statement (.mld f) := .inl ⟨rfl, rfl, fun _ _ => rfl⟩
theorem mst (f : FmtT) : Statement (.mst f) := .inl ⟨rfl, rfl, fun _ _ => rfl⟩
theorem mlaneGet (f : FmtT) : Statement (.mlaneGet f) := .inl ⟨rfl, rfl, fun _ _ => rfl⟩
theorem mlanePut (f : FmtT) : Statement (.mlanePut f) := .inl ⟨rfl, rfl, fun _ _ => rfl⟩
theorem mxlaneGet (f : FmtT) : Statement (.mxlaneGet f) := .inl ⟨rfl, rfl, fun _ _ => rfl⟩
theorem mxlanePut (f : FmtT) : Statement (.mxlanePut f) := .inl ⟨rfl, rfl, fun _ _ => rfl⟩
theorem mma (f : FmtT) : Statement (.mma f) := .inl ⟨rfl, rfl, fun _ _ => rfl⟩
theorem mmas (f : FmtT) : Statement (.mmas f) := .inl ⟨rfl, rfl, fun _ _ => rfl⟩
theorem mgath (f : FmtT) : Statement (.mgath f) := .inl ⟨rfl, rfl, fun _ _ => rfl⟩
theorem mcvt (f : FmtT) : Statement (.mcvt f) := .inl ⟨rfl, rfl, fun _ _ => rfl⟩
theorem madd (f : FmtT) : Statement (.madd f) := .inl ⟨rfl, rfl, fun _ _ => rfl⟩
theorem mtr (f : FmtT) : Statement (.mtr f) := .inl ⟨rfl, rfl, fun _ _ => rfl⟩
theorem mrel (f : FmtT) : Statement (.mrel f) := .inl ⟨rfl, rfl, fun _ _ => rfl⟩
theorem lds (f : FmtE) : Statement (.lds f) := .inl ⟨rfl, rfl, fun _ _ => rfl⟩
theorem sts (f : FmtE) : Statement (.sts f) := .inl ⟨rfl, rfl, fun _ _ => rfl⟩
theorem atms (op : AtmOp) (f : FmtE) : Statement (.atms op f) := .inl ⟨rfl, rfl, fun _ _ => rfl⟩
theorem pld (f : FmtE) : Statement (.pld f) := .inl ⟨rfl, rfl, fun _ _ => rfl⟩
theorem pst (f : FmtE) : Statement (.pst f) := .inl ⟨rfl, rfl, fun _ _ => rfl⟩
theorem wbind (f : FmtE) : Statement (.wbind f) := .inl ⟨rfl, rfl, fun _ _ => rfl⟩
theorem wtouch (f : FmtE) : Statement (.wtouch f) := .inl ⟨rfl, rfl, fun _ _ => rfl⟩
theorem wstat (f : FmtE) : Statement (.wstat f) := .inl ⟨rfl, rfl, fun _ _ => rfl⟩
theorem wunbind (f : FmtE) : Statement (.wunbind f) := .inl ⟨rfl, rfl, fun _ _ => rfl⟩
theorem qcfg (f : FmtE) : Statement (.qcfg f) := .inl ⟨rfl, rfl, fun _ _ => rfl⟩
theorem qpush (f : FmtE) : Statement (.qpush f) := .inl ⟨rfl, rfl, fun _ _ => rfl⟩
theorem qpushU (f : FmtE) : Statement (.qpushU f) := .inl ⟨rfl, rfl, fun _ _ => rfl⟩
theorem qpushTry (f : FmtE) : Statement (.qpushTry f) := .inl ⟨rfl, rfl, fun _ _ => rfl⟩
theorem qpop (f : FmtE) : Statement (.qpop f) := .inl ⟨rfl, rfl, fun _ _ => rfl⟩
theorem qpopU (f : FmtE) : Statement (.qpopU f) := .inl ⟨rfl, rfl, fun _ _ => rfl⟩
theorem qpopTry (f : FmtE) : Statement (.qpopTry f) := .inl ⟨rfl, rfl, fun _ _ => rfl⟩
theorem qclose (f : FmtE) : Statement (.qclose f) := .inl ⟨rfl, rfl, fun _ _ => rfl⟩
theorem qstat (f : FmtE) : Statement (.qstat f) := .inl ⟨rfl, rfl, fun _ _ => rfl⟩
theorem cinit (f : FmtE) : Statement (.cinit f) := .inl ⟨rfl, rfl, fun _ _ => rfl⟩
theorem carrive (f : FmtE) : Statement (.carrive f) := .inl ⟨rfl, rfl, fun _ _ => rfl⟩
theorem carriveWait (f : FmtE) : Statement (.carriveWait f) := .inl ⟨rfl, rfl, fun _ _ => rfl⟩
theorem cexpect (f : FmtE) : Statement (.cexpect f) := .inl ⟨rfl, rfl, fun _ _ => rfl⟩
theorem cwait (f : FmtE) : Statement (.cwait f) := .inl ⟨rfl, rfl, fun _ _ => rfl⟩
theorem ctest (f : FmtE) : Statement (.ctest f) := .inl ⟨rfl, rfl, fun _ _ => rfl⟩
theorem ld (f : FmtM) : Statement (.ld f) := .inl ⟨rfl, rfl, fun _ _ => rfl⟩
theorem st (f : FmtM) : Statement (.st f) := .inl ⟨rfl, rfl, fun _ _ => rfl⟩
theorem ldu (f : FmtM) : Statement (.ldu f) := .inl ⟨rfl, rfl, fun _ _ => rfl⟩
theorem stu (f : FmtM) : Statement (.stu f) := .inl ⟨rfl, rfl, fun _ _ => rfl⟩
theorem pfh (f : FmtM) : Statement (.pfh f) := .inl ⟨rfl, rfl, fun _ _ => rfl⟩
theorem ldbf (f : FmtM) : Statement (.ldbf f) := .inl ⟨rfl, rfl, fun _ _ => rfl⟩
theorem mkbf (f : FmtE) : Statement (.mkbf f) := .inl ⟨rfl, rfl, fun _ _ => rfl⟩
theorem bfq (f : FmtE) : Statement (.bfq f) := .inl ⟨rfl, rfl, fun _ _ => rfl⟩
theorem wbl (f : FmtM) : Statement (.wbl f) := .inl ⟨rfl, rfl, fun _ _ => rfl⟩
theorem invl (f : FmtM) : Statement (.invl f) := .inl ⟨rfl, rfl, fun _ _ => rfl⟩
theorem dharv (f : FmtE) : Statement (.dharv f) := .inl ⟨rfl, rfl, fun _ _ => rfl⟩
theorem rngw (f : FmtS) : Statement (.rngw f) := .inl ⟨rfl, rfl, fun _ _ => rfl⟩
theorem atm (op : AtmOp) (f : FmtM) : Statement (.atm op f) := .inl ⟨rfl, rfl, fun _ _ => rfl⟩
theorem red (op : MemRedOp) (f : FmtM) : Statement (.red op f) := .inl ⟨rfl, rfl, fun _ _ => rfl⟩
theorem ldv (f : FmtM) : Statement (.ldv f) := .inl ⟨rfl, rfl, fun _ _ => rfl⟩
theorem verq (f : FmtM) : Statement (.verq f) := .inl ⟨rfl, rfl, fun _ _ => rfl⟩
theorem casv (f : FmtM) : Statement (.casv f) := .inl ⟨rfl, rfl, fun _ _ => rfl⟩
theorem vaddU (f : FmtE) : Statement (.vaddU f) := .inl ⟨rfl, rfl, fun _ _ => rfl⟩
theorem vadd (f : FmtE) : Statement (.vadd f) := .inl ⟨rfl, rfl, fun _ _ => rfl⟩
theorem vstc (f : FmtM) : Statement (.vstc f) := .inl ⟨rfl, rfl, fun _ _ => rfl⟩
theorem vcommit (f : FmtE) : Statement (.vcommit f) := .inl ⟨rfl, rfl, fun _ _ => rfl⟩
theorem tsload (f : FmtE) : Statement (.tsload f) := .inl ⟨rfl, rfl, fun _ _ => rfl⟩
theorem tsevict (f : FmtE) : Statement (.tsevict f) := .inl ⟨rfl, rfl, fun _ _ => rfl⟩
theorem cpyld (f : FmtE) : Statement (.cpyld f) := .inl ⟨rfl, rfl, fun _ _ => rfl⟩
theorem cpyst (f : FmtE) : Statement (.cpyst f) := .inl ⟨rfl, rfl, fun _ _ => rfl⟩
theorem cpyred (op : RedOp) (f : FmtE) : Statement (.cpyred op f) := .inl ⟨rfl, rfl, fun _ _ => rfl⟩
theorem cpymc (f : FmtE) : Statement (.cpymc f) := .inl ⟨rfl, rfl, fun _ _ => rfl⟩
theorem cpyg (f : FmtE) : Statement (.cpyg f) := .inl ⟨rfl, rfl, fun _ _ => rfl⟩
theorem cpystripe (f : FmtE) : Statement (.cpystripe f) := .inl ⟨rfl, rfl, fun _ _ => rfl⟩
theorem cseal (f : FmtE) : Statement (.cseal f) := .inl ⟨rfl, rfl, fun _ _ => rfl⟩
theorem cwaitb (f : FmtE) : Statement (.cwaitb f) := .inl ⟨rfl, rfl, fun _ _ => rfl⟩
theorem cstat (f : FmtE) : Statement (.cstat f) := .inl ⟨rfl, rfl, fun _ _ => rfl⟩
theorem pdload (f : FmtE) : Statement (.pdload f) := .inl ⟨rfl, rfl, fun _ _ => rfl⟩
theorem pdloadTry (f : FmtE) : Statement (.pdloadTry f) := .inl ⟨rfl, rfl, fun _ _ => rfl⟩
theorem pdstart (f : FmtE) : Statement (.pdstart f) := .inl ⟨rfl, rfl, fun _ _ => rfl⟩
theorem pdstartCont (f : FmtE) : Statement (.pdstartCont f) := .inl ⟨rfl, rfl, fun _ _ => rfl⟩
theorem pdstat (f : FmtE) : Statement (.pdstat f) := .inl ⟨rfl, rfl, fun _ _ => rfl⟩
theorem endp (mask : BitVec 16) : Statement (.endp mask) := .inr (.inl ⟨rfl, rfl, fun _ _ => rfl⟩)
theorem rd (d : BitVec 4) (st : Bool) (n : BitVec 3) : Statement (.rd d st n) := .inr (.inl ⟨rfl, rfl, fun _ _ => rfl⟩)
theorem unp (d : BitVec 4) (st : Bool) (k : BitVec 5) : Statement (.unp d st k) := .inr (.inl ⟨rfl, rfl, fun _ _ => rfl⟩)
theorem lut (d a : BitVec 4) (tb : Bool) : Statement (.lut d a tb) := .inr (.inl ⟨rfl, rfl, fun _ _ => rfl⟩)
theorem tld (tb st : Bool) (e : BitVec 3) : Statement (.tld tb st e) := .inr (.inl ⟨rfl, rfl, fun _ _ => rfl⟩)
theorem streamCvt (d a : BitVec 4) (dty sty : Ty) (pol : BitVec 3) (rm : Rm) : Statement (.streamCvt d a dty sty pol rm) := .inr (.inl ⟨rfl, rfl, fun _ _ => rfl⟩)
theorem scl (d a b : BitVec 4) (rm : Rm) : Statement (.scl d a b rm) := .inr (.inl ⟨rfl, rfl, fun _ _ => rfl⟩)
theorem push (a : BitVec 4) (land : Bool) (q : BitVec 4) : Statement (.push a land q) := .inr (.inl ⟨rfl, rfl, fun _ _ => rfl⟩)
theorem waitc (par : Bool) (addr : BitVec 16) : Statement (.waitc par addr) := .inr (.inl ⟨rfl, rfl, fun _ _ => rfl⟩)
theorem streamLoop (a : BitVec 4) (target : BitVec 8) : Statement (.streamLoop a target) := .inr (.inl ⟨rfl, rfl, fun _ _ => rfl⟩)
theorem streamAddShift (d a b : BitVec 4) (sh : BitVec 5) : Statement (.streamAddShift d a b sh) := .inr (.inl ⟨rfl, rfl, fun _ _ => rfl⟩)
theorem streamAddImm (d a : BitVec 4) (imm : BitVec 15) : Statement (.streamAddImm d a imm) := .inr (.inl ⟨rfl, rfl, fun _ _ => rfl⟩)
theorem wlapp (f : FmtE) : Statement (.wlapp f) := .inl ⟨rfl, rfl, fun _ _ => rfl⟩
theorem wlpop (f : FmtE) : Statement (.wlpop f) := .inl ⟨rfl, rfl, fun _ _ => rfl⟩
theorem wlquiet (f : FmtE) : Statement (.wlquiet f) := .inl ⟨rfl, rfl, fun _ _ => rfl⟩
theorem ibsess (f : FmtE) : Statement (.ibsess f) := .inl ⟨rfl, rfl, fun _ _ => rfl⟩
theorem ibsessTry (f : FmtE) : Statement (.ibsessTry f) := .inl ⟨rfl, rfl, fun _ _ => rfl⟩
theorem ibprog (f : FmtE) : Statement (.ibprog f) := .inl ⟨rfl, rfl, fun _ _ => rfl⟩
theorem ibvec (f : FmtE) : Statement (.ibvec f) := .inl ⟨rfl, rfl, fun _ _ => rfl⟩
theorem ibscale (f : FmtE) : Statement (.ibscale f) := .inl ⟨rfl, rfl, fun _ _ => rfl⟩
theorem ibscaleU (f : FmtE) : Statement (.ibscaleU f) := .inl ⟨rfl, rfl, fun _ _ => rfl⟩
theorem ibstep (f : FmtE) : Statement (.ibstep f) := .inl ⟨rfl, rfl, fun _ _ => rfl⟩
theorem ibstepReg (f : FmtE) : Statement (.ibstepReg f) := .inl ⟨rfl, rfl, fun _ _ => rfl⟩
theorem ibread (f : FmtE) : Statement (.ibread f) := .inl ⟨rfl, rfl, fun _ _ => rfl⟩
theorem ibfenceIn (f : FmtM) : Statement (.ibfenceIn f) := .inl ⟨rfl, rfl, fun _ _ => rfl⟩
theorem ibfenceOut (f : FmtM) : Statement (.ibfenceOut f) := .inl ⟨rfl, rfl, fun _ _ => rfl⟩
theorem ibstat (f : FmtE) : Statement (.ibstat f) := .inl ⟨rfl, rfl, fun _ _ => rfl⟩
theorem collAllred (f : FmtE) : Statement (.collAllred f) := .inl ⟨rfl, rfl, fun _ _ => rfl⟩
theorem collRedscat (f : FmtE) : Statement (.collRedscat f) := .inl ⟨rfl, rfl, fun _ _ => rfl⟩
theorem collAllgath (f : FmtE) : Statement (.collAllgath f) := .inl ⟨rfl, rfl, fun _ _ => rfl⟩
theorem collBcast (f : FmtE) : Statement (.collBcast f) := .inl ⟨rfl, rfl, fun _ _ => rfl⟩
theorem collBarrier (f : FmtE) : Statement (.collBarrier f) := .inl ⟨rfl, rfl, fun _ _ => rfl⟩
theorem vwq (f : FmtE) : Statement (.vwq f) := .inl ⟨rfl, rfl, fun _ _ => rfl⟩
theorem vjoin (f : FmtE) : Statement (.vjoin f) := .inl ⟨rfl, rfl, fun _ _ => rfl⟩
theorem fnote (f : FmtE) : Statement (.fnote f) := .inl ⟨rfl, rfl, fun _ _ => rfl⟩
theorem fwait (f : FmtE) : Statement (.fwait f) := .inl ⟨rfl, rfl, fun _ _ => rfl⟩
theorem fwaitTry (f : FmtE) : Statement (.fwaitTry f) := .inl ⟨rfl, rfl, fun _ _ => rfl⟩
theorem mfsp (f : FmtS) : Statement (.mfsp f) := .inl ⟨rfl, rfl, fun _ _ => rfl⟩
theorem mtsp (f : FmtS) : Statement (.mtsp f) := .inl ⟨rfl, rfl, fun _ _ => rfl⟩
theorem mfsv (f : FmtS) : Statement (.mfsv f) := .inl ⟨rfl, rfl, fun _ _ => rfl⟩
theorem mtsv (f : FmtS) : Statement (.mtsv f) := .inl ⟨rfl, rfl, fun _ _ => rfl⟩
theorem nop : Statement .nop := .inl ⟨rfl, rfl, fun _ _ => rfl⟩
theorem liveWord : Statement .liveWord := .inl ⟨rfl, rfl, fun _ _ => rfl⟩
theorem join : Statement .join := .inl ⟨rfl, rfl, fun _ _ => rfl⟩
theorem exit : Statement .exit := .inl ⟨rfl, rfl, fun _ _ => rfl⟩
theorem yield : Statement .yield := .inl ⟨rfl, rfl, fun _ _ => rfl⟩
theorem frply : Statement .frply := .inl ⟨rfl, rfl, fun _ _ => rfl⟩
theorem vclr : Statement .vclr := .inl ⟨rfl, rfl, fun _ _ => rfl⟩
theorem fenceDom : Statement .fenceDom := .inl ⟨rfl, rfl, fun _ _ => rfl⟩
theorem fenceNc : Statement .fenceNc := .inl ⟨rfl, rfl, fun _ _ => rfl⟩
theorem fenceSys : Statement .fenceSys := .inl ⟨rfl, rfl, fun _ _ => rfl⟩
theorem pdstop : Statement .pdstop := .inl ⟨rfl, rfl, fun _ _ => rfl⟩
theorem pdstopRel : Statement .pdstopRel := .inl ⟨rfl, rfl, fun _ _ => rfl⟩
theorem wlquietReg : Statement .wlquietReg := .inl ⟨rfl, rfl, fun _ _ => rfl⟩
theorem wlquietUnreg : Statement .wlquietUnreg := .inl ⟨rfl, rfl, fun _ _ => rfl⟩
theorem ibend : Statement .ibend := .inl ⟨rfl, rfl, fun _ _ => rfl⟩
theorem vack : Statement .vack := .inl ⟨rfl, rfl, fun _ _ => rfl⟩
theorem trap : Statement .trap := .inl ⟨rfl, rfl, fun _ _ => rfl⟩
theorem tret : Statement .tret := .inl ⟨rfl, rfl, fun _ _ => rfl⟩
theorem bkpt : Statement .bkpt := .inl ⟨rfl, rfl, fun _ _ => rfl⟩
theorem halt : Statement .halt := .inl ⟨rfl, rfl, fun _ _ => rfl⟩
theorem pdefer : Statement .pdefer := .inl ⟨rfl, rfl, fun _ _ => rfl⟩
theorem fragmentFuse (r : FragRef) : Statement (.fragmentFuse r) := .inr (.inr ⟨rfl, rfl, fun _ _ => rfl⟩)
theorem napExpire (r : FragRef) : Statement (.napExpire r) := .inr (.inr ⟨rfl, rfl, fun _ _ => rfl⟩)
theorem windowCopyLanded (team w : Nat) : Statement (.windowCopyLanded team w) := .inr (.inr ⟨rfl, rfl, fun _ _ => rfl⟩)
theorem claspUpdate (team addr : Nat) : Statement (.claspUpdate team addr) := .inr (.inr ⟨rfl, rfl, fun _ _ => rfl⟩)
theorem homeLineAccess (line : Nat) (act : HomeAct) : Statement (.homeLineAccess line act) := .inr (.inr ⟨rfl, rfl, fun _ _ => rfl⟩)
theorem redArrival (die line : Nat) (op : MemRedOp) (ty : Ty) (offset : Nat) (operand : DWord) : Statement (.redArrival die line op ty offset operand) := .inr (.inr ⟨rfl, rfl, fun _ _ => rfl⟩)
theorem signatureSquash (core line : Nat) : Statement (.signatureSquash core line) := .inr (.inr ⟨rfl, rfl, fun _ _ => rfl⟩)
theorem l1Eviction (core line : Nat) : Statement (.l1Eviction core line) := .inr (.inr ⟨rfl, rfl, fun _ _ => rfl⟩)
theorem requestReplay (requester seq : Nat) : Statement (.requestReplay requester seq) := .inr (.inr ⟨rfl, rfl, fun _ _ => rfl⟩)
theorem cachePowerGate (core : Nat) : Statement (.cachePowerGate core) := .inr (.inr ⟨rfl, rfl, fun _ _ => rfl⟩)
theorem cacheWake (core : Nat) : Statement (.cacheWake core) := .inr (.inr ⟨rfl, rfl, fun _ _ => rfl⟩)
theorem copyEntryGrant (team : Nat) : Statement (.copyEntryGrant team) := .inr (.inr ⟨rfl, rfl, fun _ _ => rfl⟩)
theorem copyLineTransfer (copy unit : Nat) : Statement (.copyLineTransfer copy unit) := .inr (.inr ⟨rfl, rfl, fun _ _ => rfl⟩)
theorem fragmentUnpark (r : FragRef) : Statement (.fragmentUnpark r) := .inr (.inr ⟨rfl, rfl, fun _ _ => rfl⟩)
theorem copyComplete (copy : Nat) : Statement (.copyComplete copy) := .inr (.inr ⟨rfl, rfl, fun _ _ => rfl⟩)
theorem copyFault (copy cause : Nat) (addr : Nat) : Statement (.copyFault copy cause addr) := .inr (.inr ⟨rfl, rfl, fun _ _ => rfl⟩)
theorem tableLanded (core : Nat) (tb : Bool) : Statement (.tableLanded core tb) := .inr (.inr ⟨rfl, rfl, fun _ _ => rfl⟩)
theorem producerFault (core cause : Nat) (addr : Nat) : Statement (.producerFault core cause addr) := .inr (.inr ⟨rfl, rfl, fun _ _ => rfl⟩)
theorem worklistQuiescent (die : Nat) : Statement (.worklistQuiescent die) := .inr (.inr ⟨rfl, rfl, fun _ _ => rfl⟩)
theorem sessionGrant (die : Nat) : Statement (.sessionGrant die) := .inr (.inr ⟨rfl, rfl, fun _ _ => rfl⟩)
theorem ibfenceInFlip (r : FragRef) : Statement (.ibfenceInFlip r) := .inr (.inr ⟨rfl, rfl, fun _ _ => rfl⟩)
theorem ibfenceOutFlip (r : FragRef) : Statement (.ibfenceOutFlip r) := .inr (.inr ⟨rfl, rfl, fun _ _ => rfl⟩)
theorem sessionEnd (team group : Nat) : Statement (.sessionEnd team group) := .inr (.inr ⟨rfl, rfl, fun _ _ => rfl⟩)
theorem ibStep (team group : Nat) : Statement (.ibStep team group) := .inr (.inr ⟨rfl, rfl, fun _ _ => rfl⟩)
theorem ibWatchdogExpiry (team group channel : Nat) : Statement (.ibWatchdogExpiry team group channel) := .inr (.inr ⟨rfl, rfl, fun _ _ => rfl⟩)
theorem collectiveMessage (coll sender : Nat) (tag : Tag) (body : CollMsg) : Statement (.collectiveMessage coll sender tag body) := .inr (.inr ⟨rfl, rfl, fun _ _ => rfl⟩)
theorem collectiveStragglerTimeout (coll : Nat) : Statement (.collectiveStragglerTimeout coll) := .inr (.inr ⟨rfl, rfl, fun _ _ => rfl⟩)
theorem collectiveComplete (coll : Nat) : Statement (.collectiveComplete coll) := .inr (.inr ⟨rfl, rfl, fun _ _ => rfl⟩)
theorem notificationArrival (sender fctx : Nat) (tag : Tag) (value : DWord) : Statement (.notificationArrival sender fctx tag value) := .inr (.inr ⟨rfl, rfl, fun _ _ => rfl⟩)
theorem remoteRequestArrival (sender : Nat) (seq : ReqNo) (tag : Tag) (line : Nat) (kind : RemoteKind) : Statement (.remoteRequestArrival sender seq tag line kind) := .inr (.inr ⟨rfl, rfl, fun _ _ => rfl⟩)
theorem remoteReplyArrival (req : Nat) (tag : Tag) (reply : RemoteReply) : Statement (.remoteReplyArrival req tag reply) := .inr (.inr ⟨rfl, rfl, fun _ _ => rfl⟩)
theorem flitCrcReplay (port : Nat) : Statement (.flitCrcReplay port) := .inr (.inr ⟨rfl, rfl, fun _ _ => rfl⟩)
theorem requestRetransmit (req : Nat) : Statement (.requestRetransmit req) := .inr (.inr ⟨rfl, rfl, fun _ _ => rfl⟩)
theorem linkDown (port : Nat) : Statement (.linkDown port) := .inr (.inr ⟨rfl, rfl, fun _ _ => rfl⟩)
theorem linkTraining (port : Nat) (extensions full : Bool) : Statement (.linkTraining port extensions full) := .inr (.inr ⟨rfl, rfl, fun _ _ => rfl⟩)
theorem heartbeatSend : Statement .heartbeatSend := .inr (.inr ⟨rfl, rfl, fun _ _ => rfl⟩)
theorem heartbeatReceive (sender : Nat) : Statement (.heartbeatReceive sender) := .inr (.inr ⟨rfl, rfl, fun _ _ => rfl⟩)
theorem memberSuspect (member : Nat) : Statement (.memberSuspect member) := .inr (.inr ⟨rfl, rfl, fun _ _ => rfl⟩)
theorem suspicion (sender : Nat) (suspects : BitVec 288) : Statement (.suspicion sender suspects) := .inr (.inr ⟨rfl, rfl, fun _ _ => rfl⟩)
theorem proposal (sender : Nat) (members : BitVec 288) (count : BitVec 16) : Statement (.proposal sender members count) := .inr (.inr ⟨rfl, rfl, fun _ _ => rfl⟩)
theorem accept (sender : Nat) (count : Ballot) : Statement (.accept sender count) := .inr (.inr ⟨rfl, rfl, fun _ _ => rfl⟩)
theorem commit (sender : Nat) (members : BitVec 288) (count : BitVec 16) : Statement (.commit sender members count) := .inr (.inr ⟨rfl, rfl, fun _ _ => rfl⟩)
theorem exclusionTimeout : Statement .exclusionTimeout := .inr (.inr ⟨rfl, rfl, fun _ _ => rfl⟩)
theorem joinRequest (sender : Nat) (session : BitVec 16) : Statement (.joinRequest sender session) := .inr (.inr ⟨rfl, rfl, fun _ _ => rfl⟩)
theorem trapEntry (r : FragRef) (cause : BitVec 9) (mask : Mask) (info : DWord) : Statement (.trapEntry r cause mask info) := .inr (.inr ⟨rfl, rfl, fun _ _ => rfl⟩)
theorem impreciseCauseDelivery (r : FragRef) : Statement (.impreciseCauseDelivery r) := .inr (.inr ⟨rfl, rfl, fun _ _ => rfl⟩)
theorem contextFaultTrap (r : FragRef) : Statement (.contextFaultTrap r) := .inr (.inr ⟨rfl, rfl, fun _ _ => rfl⟩)
theorem fetchLine (r : FragRef) (flip : BitVec 512) : Statement (.fetchLine r flip) := .inr (.inr ⟨rfl, rfl, fun _ _ => rfl⟩)
theorem fetchLineRefetch (r : FragRef) (flip : BitVec 512) : Statement (.fetchLineRefetch r flip) := .inr (.inr ⟨rfl, rfl, fun _ _ => rfl⟩)
theorem portIssue (core port : Nat) : Statement (.portIssue core port) := .inr (.inr ⟨rfl, rfl, fun _ _ => rfl⟩)
theorem instructionComplete (team group id : Nat) : Statement (.instructionComplete team group id) := .inr (.inr ⟨rfl, rfl, fun _ _ => rfl⟩)
theorem fragmentPromote (r : FragRef) : Statement (.fragmentPromote r) := .inr (.inr ⟨rfl, rfl, fun _ _ => rfl⟩)
theorem coreSwap (core : Nat) : Statement (.coreSwap core) := .inr (.inr ⟨rfl, rfl, fun _ _ => rfl⟩)
theorem launchRecordTake (ctx list : Nat) : Statement (.launchRecordTake ctx list) := .inr (.inr ⟨rfl, rfl, fun _ _ => rfl⟩)
theorem teamPlace (launch origin : Nat) : Statement (.teamPlace launch origin) := .inr (.inr ⟨rfl, rfl, fun _ _ => rfl⟩)
theorem teamRetire (team : Nat) : Statement (.teamRetire team) := .inr (.inr ⟨rfl, rfl, fun _ _ => rfl⟩)
theorem launchComplete (launch : Nat) : Statement (.launchComplete launch) := .inr (.inr ⟨rfl, rfl, fun _ _ => rfl⟩)
theorem cretire (core : BitVec 8) : Statement (.cretire core) := .inr (.inr ⟨rfl, rfl, fun _ _ => rfl⟩)
theorem coreRetireEffect (core : BitVec 8) : Statement (.coreRetireEffect core) := .inr (.inr ⟨rfl, rfl, fun _ _ => rfl⟩)
theorem tlbinv (ctx : Nat) (value : DWord) : Statement (.tlbinv ctx value) := .inr (.inr ⟨rfl, rfl, fun _ _ => rfl⟩)
theorem preemptRequest (team : Nat) : Statement (.preemptRequest team) := .inr (.inr ⟨rfl, rfl, fun _ _ => rfl⟩)
theorem forcedStop (team group : Nat) : Statement (.forcedStop team group) := .inr (.inr ⟨rfl, rfl, fun _ _ => rfl⟩)
theorem teamDrain (team : Nat) : Statement (.teamDrain team) := .inr (.inr ⟨rfl, rfl, fun _ _ => rfl⟩)
theorem imageWrite (team : Nat) : Statement (.imageWrite team) := .inr (.inr ⟨rfl, rfl, fun _ _ => rfl⟩)
theorem ctxres (ctx : Nat) (value : DWord) : Statement (.ctxres ctx value) := .inr (.inr ⟨rfl, rfl, fun _ _ => rfl⟩)
theorem imageRestore (ctx slot core : Nat) : Statement (.imageRestore ctx slot core) := .inr (.inr ⟨rfl, rfl, fun _ _ => rfl⟩)
theorem heldWritePlace : Statement .heldWritePlace := .inr (.inr ⟨rfl, rfl, fun _ _ => rfl⟩)
theorem balloonReclaim : Statement .balloonReclaim := .inr (.inr ⟨rfl, rfl, fun _ _ => rfl⟩)
theorem clockSweep : Statement .clockSweep := .inr (.inr ⟨rfl, rfl, fun _ _ => rfl⟩)
theorem evictedFrameReturn (frame : Nat) : Statement (.evictedFrameReturn frame) := .inr (.inr ⟨rfl, rfl, fun _ _ => rfl⟩)
theorem reclaimTimeout : Statement .reclaimTimeout := .inr (.inr ⟨rfl, rfl, fun _ _ => rfl⟩)
theorem capcmdAssign (count : BitVec 20) : Statement (.capcmdAssign count) := .inr (.inr ⟨rfl, rfl, fun _ _ => rfl⟩)
theorem capcmdReturn (count : BitVec 20) : Statement (.capcmdReturn count) := .inr (.inr ⟨rfl, rfl, fun _ _ => rfl⟩)
theorem capcmdPin (count : BitVec 20) : Statement (.capcmdPin count) := .inr (.inr ⟨rfl, rfl, fun _ _ => rfl⟩)
theorem capcmdUnpin (count : BitVec 20) : Statement (.capcmdUnpin count) := .inr (.inr ⟨rfl, rfl, fun _ _ => rfl⟩)
theorem capcmdStripeOn (count : BitVec 20) : Statement (.capcmdStripeOn count) := .inr (.inr ⟨rfl, rfl, fun _ _ => rfl⟩)
theorem capcmdStripeOff (count : BitVec 20) : Statement (.capcmdStripeOff count) := .inr (.inr ⟨rfl, rfl, fun _ _ => rfl⟩)
theorem locketPrecopy : Statement .locketPrecopy := .inr (.inr ⟨rfl, rfl, fun _ _ => rfl⟩)
theorem locketStopAndCopy : Statement .locketStopAndCopy := .inr (.inr ⟨rfl, rfl, fun _ _ => rfl⟩)
theorem locketAbort : Statement .locketAbort := .inr (.inr ⟨rfl, rfl, fun _ _ => rfl⟩)
theorem locketReceive : Statement .locketReceive := .inr (.inr ⟨rfl, rfl, fun _ _ => rfl⟩)
theorem locketMessage (seq : Nat) (body : LocketBody) : Statement (.locketMessage seq body) := .inr (.inr ⟨rfl, rfl, fun _ _ => rfl⟩)
theorem ownclaimClaim (m : Master) (prio : BitVec 8) (nonce : BitVec 32) : Statement (.ownclaimClaim m prio nonce) := .inr (.inr ⟨rfl, rfl, fun _ _ => rfl⟩)
theorem electionClose : Statement .electionClose := .inr (.inr ⟨rfl, rfl, fun _ _ => rfl⟩)
theorem ownclaimHand (m : Master) (succ : BitVec 2) : Statement (.ownclaimHand m succ) := .inr (.inr ⟨rfl, rfl, fun _ _ => rfl⟩)
theorem ownerPathTimeout : Statement .ownerPathTimeout := .inr (.inr ⟨rfl, rfl, fun _ _ => rfl⟩)
theorem hostirqEnable (en : BitVec 5) : Statement (.hostirqEnable en) := .inr (.inr ⟨rfl, rfl, fun _ _ => rfl⟩)
theorem hostAccess (act : HostAct) : Statement (.hostAccess act) := .inr (.inr ⟨rfl, rfl, fun _ _ => rfl⟩)
theorem firmwareLoad (version : FwImage) (rsa slh : Bool) : Statement (.firmwareLoad version rsa slh) := .inr (.inr ⟨rfl, rfl, fun _ _ => rfl⟩)
theorem attestation (nonce : DWord) (peer : Option AttestPeer) : Statement (.attestation nonce peer) := .inr (.inr ⟨rfl, rfl, fun _ _ => rfl⟩)
theorem packageReset : Statement .packageReset := .inr (.inr ⟨rfl, rfl, fun _ _ => rfl⟩)
theorem powerThrottle (watts : BitVec 16) : Statement (.powerThrottle watts) := .inr (.inr ⟨rfl, rfl, fun _ _ => rfl⟩)
theorem registerWrite (m : Master) (sreg : BitVec 12) (value : DWord) : Statement (.registerWrite m sreg value) := .inr (.inr ⟨rfl, rfl, fun _ _ => rfl⟩)
theorem locketAcknowledgement (status : Nat) : Statement (.locketAcknowledgement status) := .inr (.inr ⟨rfl, rfl, fun _ _ => rfl⟩)
theorem preCopyRoundEnd : Statement .preCopyRoundEnd := .inr (.inr ⟨rfl, rfl, fun _ _ => rfl⟩)
theorem scaleOutLinkFailure : Statement .scaleOutLinkFailure := .inr (.inr ⟨rfl, rfl, fun _ _ => rfl⟩)
theorem hostStoreAcknowledgement : Statement .hostStoreAcknowledgement := .inr (.inr ⟨rfl, rfl, fun _ _ => rfl⟩)
theorem joinRefusal (sender : Nat) : Statement (.joinRefusal sender) := .inr (.inr ⟨rfl, rfl, fun _ _ => rfl⟩)

end Sys2Proof.Laws.OneEncoding
end

