-- ==== Sys2Proof/Tests/Slice0.lean ====
section
/-!
SUPPORT. Sys2Proof/Tests/Slice0.lean: small tests of one step or one word each, with the words and results written out from the manual,
and, for every statement with hypotheses, states and operands that meet them.
-/

namespace Sys2Proof.Tests

set_option maxRecDepth 100000
set_option exponentiation.threshold 1024
set_option Elab.async false

open Sys2Proof.Machine Sys2Proof.Machine.Claims

/-! ## Operands -/

def plain : Hdr := ⟨false, 7, false, 0⟩

def fA (ty : Ty) (d a b c : BitVec 8) : FmtA := ⟨ty, d, a, b, c, false, .rne, false, false, false, 0, 0⟩

/-- With the b operand an immediate. -/
def fI (ty : Ty) (d a c : BitVec 8) (imm : BitVec 32) : FmtA := ⟨ty, d, a, 0, c, false, .rne, false, false, false, 2, imm⟩

def fM (ty : Ty) (d : BitVec 8) (bf : BitVec 5) (x : BitVec 8) (off : BitVec 32) : FmtM := ⟨ty, d, bf, x, 0, 0, 0, 0, off⟩

def fE (sub : BitVec 4) (d a b : BitVec 8) (imm : BitVec 32) : FmtE := ⟨sub, d, a, b, 0, 0, 0, 0, imm⟩

def fT (ty : Ty) (md ma mb mc : BitVec 4) : FmtT := ⟨ty, md, ma, mb, mc, 0, 0, 0, 0⟩

/-! ## Words (R56 to R68, R255, R342) -/

/-- The examples that the manual writes out: `ld.n32 v4, bf3[v8 + 64]`, `add.i32 v3, v1, v2`, `st.n32 bf5[v6 + 8], v9`, and the branch
of its worked example. -/
theorem test_words_worked_examples :
    decodeTableWord 96 0x802202041840000000000040 = some (.ld (fM .n32 4 3 8 64)) ∧
    decodeTableWord 96 0x107006030102000000000000 = some (.add (fA .i32 3 1 2 0)) ∧
    decodeTableWord 96 0x817002092830000000000008 = some (.st (fM .n32 9 5 6 8)) ∧
    decodeTableWord 96 0x011006000000000000001000 = some (.bra ⟨3, 0, 0, 1, 0, 0⟩) := by decide

/-- op, header 0x700, fn, ty, d, a, b, c, md, imm (R57, R58). -/
theorem test_words_format_A :
    decodeTableWord 96 0x1270520701020300000000F8 = some (.lop3 { fA .n32 7 1 2 3 with imm := 0xF8 }) ∧
    decodeTableWord 96 0x157026010400070200000064 = some (.cmp .lt (fI .i32 1 4 7 100)) ∧
    decodeTableWord 96 0x4270080A0102030000000000 = some (.ffma (fA .f32 10 1 2 3)) ∧
    decodeTableWord 96 0x50700B050400000000000028 = some (.cvt { fA .e4m3 5 4 0 0 with imm := 0x28 }) ∧
    decodeTableWord 96 0x537028090607090000000000 = some (.dp4E4m3 (fA .f32 9 6 7 9)) := by decide

theorem test_words_formats_T_S_M :
    decodeTableWord 96 0x65700A312300000000000000 = some (.mma (fT .bf16 3 1 2 3)) ∧
    decodeTableWord 96 0xE27000120500000000000000 = some (.mfsp ⟨0x012, 5, 0⟩) ∧
    decodeTableWord 96 0x907002041040000000000000 = some (.atm .add (fM .n32 4 2 8 0)) ∧
    decodeTableWord 96 0xC6700006182A000000000000 = some (.ibfenceIn { fM .n8 6 3 5 0 with ix := 1 }) ∧
    decodeTableWord 96 0xC6701006182A000000000000 = some (.ibfenceOut { fM .n8 6 3 5 0 with ix := 1 }) := by decide

theorem test_words_format_E :
    decodeTableWord 96 0x7670000007000180000153FF = some (.qpush { fE 0 0 7 0 0x153FF with wq := 3 }) ∧
    decodeTableWord 96 0xA27000000407180000000000 = some (.cpyld { fE 0 0 4 7 0 with ts := 3 }) ∧
    decodeTableWord 96 0xB07000020600000000000B04 = some (.pdload (fE 0 2 6 0 0xB04)) ∧
    decodeTableWord 96 0xC27000000200000000000001 = some (.ibvec (fE 0 0 2 0 1)) ∧
    decodeTableWord 96 0xC57000080300000000000000 = some (.ibread (fE 0 8 3 0 0)) ∧
    decodeTableWord 96 0xD07001000406001000000001 = some (.collAllred { fE 1 0 4 6 1 with bt := 2 }) ∧
    decodeTableWord 96 0xD47000020406000000000000 = some (.fnote (fE 0 2 4 6 0)) ∧
    decodeTableWord 96 0xD57000080000000000000000 = some (.fwait (fE 0 8 0 0 0)) ∧
    decodeTableWord 96 0xD17000050000000000000000 = some (.vwq (fE 0 5 0 0 0)) ∧
    decodeTableWord 96 0x977000030000000000000000 = some (.vcommit (fE 0 3 0 0 0)) := by decide

theorem test_words_no_operands :
    decodeTableWord 96 0xE070000000000000000001E5 = some .trap ∧
    decodeTableWord 96 0x997000000000000000000000 = some .fenceDom ∧
    decodeTableWord 96 0x997020000000000000000000 = some .fenceSys ∧
    decodeTableWord 96 0xD27000000000000000000000 = some .vack ∧
    decodeTableWord 96 0 = some .nop := by decide

/-- The producer's words of the worked example (R255). -/
theorem test_words_producer :
    decodeTableWord 32 0xA5008040 = some (.streamAddImm 5 0 64) ∧ decodeTableWord 32 0x40010000 = some (.tld false true 0) ∧
    decodeTableWord 32 0x21000002 = some (.unp 1 false 2) ∧ decodeTableWord 32 0x32100000 = some (.lut 2 1 false) ∧
    decodeTableWord 32 0xA4230010 = some (.streamAddShift 4 2 3 16) ∧ decodeTableWord 32 0x70400000 = some (.push 4 false 0) ∧
    decodeTableWord 32 0x90500002 = some (.streamLoop 5 2) ∧ decodeTableWord 32 0x00000001 = some (.endp 1) := by decide

/-- In-bank command words (R342). -/
theorem test_words_in_bank :
    decodeBgu 0x08000005 = some (.openRow false 0 false 0 5) ∧ decodeBgu 0x38000001 = some (.zacc 1) ∧
    decodeBgu 0x1C000000 = some (.mac true false 0 0 0) ∧ decodeBgu 0x1C000001 = some (.mac true false 0 0 1) ∧
    decodeBgu 0x60000000 = some .halt ∧ decodeBgu 0x68000000 = none := by decide

/-- Words that are no instruction: an op of no row, a nonzero reserved field, an fn of no row. -/
theorem test_words_refused :
    decodeTableWord 96 0xF00000000000000000000000 = none ∧ decodeTableWord 96 0x107006030102000000000001 = none ∧
    decodeTableWord 96 0x1070F6030102000000000000 = none ∧ decodeTableWord 32 0xF0000000 = none := by decide

/-- One ill-formed slot for each check of well-formedness, and a well-formed neighbour (R57, R65, R121). -/
theorem test_ill_formed :
    WellFormed ⟨plain, 0, .add (fA .i32 3 1 2 0)⟩ = true ∧
    WellFormed ⟨plain, 0, .add (fA .i32 3 1 2 9)⟩ = false ∧
    WellFormed ⟨plain, 0, .add (fA .f32 3 1 2 0)⟩ = false ∧
    WellFormed ⟨plain, 0, .add (fA .i64 3 2 4 0)⟩ = false ∧
    WellFormed ⟨⟨false, 7, true, 0⟩, 0, .add (fA .i32 3 1 2 0)⟩ = false ∧
    WellFormed ⟨⟨false, 7, false, 3⟩, 0, .add (fA .i32 3 1 2 0)⟩ = false ∧
    WellFormed ⟨plain, 1, .add (fA .i32 3 1 2 0)⟩ = false ∧
    WellFormed ⟨plain, 0, .nop⟩ = false ∧ WellFormed ⟨Hdr.zero, 0, .nop⟩ = true := by decide

/-- What the encoder makes of the worked examples. -/
theorem test_encodes :
    encode ⟨plain, 0, .add (fA .i32 3 1 2 0)⟩ = some 0x107006030102000000000000 ∧
    encode ⟨plain, 0, .st (fM .n32 9 5 6 8)⟩ = some 0x817002092830000000000008 ∧
    encodeStream (.push 4 false 0) = some 0x70400000 ∧ encodeBgu (.mac true false 0 0 1) = 0x1C000001 := by decide

/-! ## States -/

/-- A loaded package whose one fragment (32 lanes, system level) executes a slot at 0x10000. -/
def base : State := { State.reset.loaded with cur := ⟨⟨0, 0, 0⟩, plain, 0, 0⟩ }

/-- The same where the fragment has two lanes, 0 and 5. -/
def two : State := base.setF (fun f => { f with om := 0x21, em := 0x21 })

/-- The same with a value in each of vector registers 1, 2 and 3 of lanes 0 and 5 and in uniform registers 1 to 3; predicate 1 is true
in lane 5. -/
def regs (x1 x2 x3 : Word) : State :=
  two.setG (fun g =>
    { g with
      v := [(64, x1), (69, x1), (128, x2), (133, x2), (192, x3), (197, x3)]
      s := [(1, x1.signExtend 64), (2, x2.signExtend 64), (3, x3.signExtend 64)]
      p := [(1, 0x20)] })

/-- A slot under a predicate that no lane holds. -/
def idle : State := { base with cur := ⟨⟨0, 0, 0⟩, ⟨false, 3, false, 0⟩, 0, 0⟩ }

/-- Whether a slot takes effect, as a Bool. -/
def issuesB (s : State) (i : Instr) (u : Uses) : Bool :=
  (s.slotCause i).isNone && (s.ct.firstBeyond u).isNone && !s.flagFull && !s.cg.interlocked s.cur.hdr u && !s.ct.shapeHeld u

theorem issues_of {s : State} {i : Instr} {u : Uses} (h : issuesB s i u = true) : s.Issues i u := by
  simp only [issuesB, Bool.and_eq_true, Option.isNone_iff_eq_none, Bool.not_eq_true'] at h
  exact ⟨h.1.1.1.1, h.1.1.1.2, h.1.1.2, h.1.2, h.2⟩

theorem issues_all {s : State} {l : List (Instr × Uses)} (h : l.all (fun p => issuesB s p.1 p.2) = true) :
    ∀ p ∈ l, s.Issues p.1 p.2 :=
  fun p hp => issues_of (List.all_eq_true.mp h p hp)

/-- A claim about the next state. -/
def after (r : Res) (k : State → Bool) : Bool :=
  match r with
  | .next t => k t
  | _ => false

/-- A vector register of a lane, and a uniform register, after a step. -/
def laneIs (d l : Nat) (x : Word) (t : State) : Bool := t.cg.vreg d l == x
def uniIs (d : Nat) (x : DWord) (t : State) : Bool := t.cg.ureg d == x
def predIs (d : Nat) (m : Mask) (t : State) : Bool := t.cg.pred d == m

/-! ## Lanes and uniform registers (R125 to R144) -/

def f3 (ty : Ty) : FmtA := fA ty 4 1 2 0
def f4 (ty : Ty) : FmtA := fA ty 4 1 2 3
def f2 (ty : Ty) : FmtA := fA ty 4 1 0 0

theorem witness_SumsAndCarries :
    ∀ p ∈ [(Instr.add (f3 .i32), usesDAB (f3 .i32)), (.sub (f3 .n8), usesDAB (f3 .n8)), (.min (f3 .i32), usesDAB (f3 .i32)),
        (.max (f3 .i16), usesDAB (f3 .i16)), (.abs (f2 .i32), usesDA (f2 .i32)), (.neg (f2 .i32), usesDA (f2 .i32)),
        (.addc (fA .n32 4 1 2 1), (usesDAB (fA .n32 4 1 2 1)).and (predReg 1) (predReg 1)),
        (.subb (fA .n32 4 1 2 7), (usesDAB (fA .n32 4 1 2 7)).and (predReg 7) (predReg 7)),
        (.add (fA .n64 4 2 6 0), usesDAB (fA .n64 4 2 6 0))],
      (regs 9 7 2).Issues p.1 p.2 := issues_all (by decide)

/-- R126: a sum wraps, and with sat goes to the greatest number; R125: the carry of the greatest numbers. -/
theorem test_add_wraps : after (execAdd (f3 .i32) (regs 0x7FFFFFFF 2 0)) (laneIs 4 5 0x80000001) = true := by decide
theorem test_add_saturates :
    after (execAdd { f3 .i32 with sat := true } (regs 0x7FFFFFFF 2 0)) (laneIs 4 5 0x7FFFFFFF) = true := by decide
theorem test_addc_carries :
    after (execAddc (fA .n32 4 1 2 1) (regs 0xFFFFFFFF 0 0)) (fun t => laneIs 4 0 0xFFFFFFFF t && laneIs 4 5 0 t && predIs 1 0x20 t) =
      true := by decide
theorem test_subb_borrows :
    after (execSubb (fA .n32 4 1 2 1) (regs 0 1 0)) (fun t => laneIs 4 0 0xFFFFFFFF t && laneIs 4 5 0xFFFFFFFE t && predIs 1 0x21 t) =
      true := by decide

theorem witness_ProductsAndQuotients :
    ∀ p ∈ [(Instr.mul (f3 .i32), usesDAB (f3 .i32)), (.mulh (f3 .i32), usesDAB (f3 .i32)), (.mulhu (f3 .n32), usesDAB (f3 .n32)),
        (.mad (f4 .i32), (usesDAB (f4 .i32)).and (regsOf .i32 3) []),
        (.madw (fA .i32 4 1 2 6),
          { reads := .v 1 :: useB (fA .i32 4 1 2 6) false ++ vregs 6 2, writes := vregs 4 2 }),
        (.div (f3 .i32), usesDAB (f3 .i32)), (.divu (f3 .n32), usesDAB (f3 .n32)), (.rem (f3 .i32), usesDAB (f3 .i32)),
        (.remu (f3 .n32), usesDAB (f3 .n32))],
      (regs 9 7 2).Issues p.1 p.2 := issues_all (by decide)

/-- R127, R128: -3 × 2 + 9; quotients toward zero, by zero, and of the most negative number by -1. -/
theorem test_mad : after (execMad (f4 .i32) (regs 0xFFFFFFFD 2 9)) (laneIs 4 0 3) = true := by decide
theorem test_div_truncates : after (execDiv (f3 .i32) (regs 0xFFFFFFF9 2 0)) (laneIs 4 5 0xFFFFFFFD) = true := by decide
theorem test_div_by_zero :
    after (execDiv (f3 .i32) (regs 7 0 0)) (laneIs 4 0 0xFFFFFFFF) && after (execRem (f3 .i32) (regs 7 0 0)) (laneIs 4 0 7) = true := by
  decide
theorem test_div_most_negative :
    after (execDiv (f3 .i32) (regs 0x80000000 0xFFFFFFFF 0)) (laneIs 4 0 0x80000000) &&
      after (execRem (f3 .i32) (regs 0x80000000 0xFFFFFFFF 0)) (laneIs 4 0 0) = true := by decide
theorem test_mulh : after (execMulh (f3 .i32) (regs 0xFFFFFFFF 2 0)) (laneIs 4 0 0xFFFFFFFF) = true := by decide

theorem witness_LaneLogicAndShifts :
    ∀ p ∈ [(Instr.and (f3 .n32), usesDAB (f3 .n32)), (.or (f3 .n32), usesDAB (f3 .n32)), (.xor (f3 .n32), usesDAB (f3 .n32)),
        (.not (f2 .n32), usesDA (f2 .n32)), (.andn (f3 .n32), usesDAB (f3 .n32)),
        (.lop3 { f4 .n32 with imm := 0xF8 }, (usesDAB (f4 .n32)).and (regsOf .n32 3) []), (.shl (f3 .n32), usesDAb (f3 .n32)),
        (.shr (f3 .n32), usesDAb (f3 .n32)), (.sra (f3 .i32), usesDAb (f3 .i32)), (.rol (f3 .n32), usesDAb (f3 .n32)),
        (.ror (f3 .n32), usesDAb (f3 .n32))],
      (regs 9 7 2).Issues p.1 p.2 := issues_all (by decide)

/-- R129 to R131: 0xF8 is A or (B and C); shifts by the width and more; a rotation takes its count modulo the width. -/
theorem test_lop3 :
    after (execLop3 { f4 .n32 with imm := 0xE0 } (regs 0xFF00 0xF0F0 0x0FF0)) (fun t => t.cg.vreg 4 0 != 0) = true := by decide
theorem test_shl_width : after (execShl (f3 .n32) (regs 1 32 0)) (laneIs 4 0 0) = true := by decide
theorem test_sra_width : after (execSra (f3 .i32) (regs 0x80000000 40 0)) (laneIs 4 0 0xFFFFFFFF) = true := by decide
theorem test_rol : after (execRol (f3 .n32) (regs 0x80000001 33 0)) (laneIs 4 5 3) = true := by decide

theorem witness_LaneBitFields :
    (∀ p ∈ [(Instr.bfx (f3 .i32), usesDAb (f3 .i32)), (.bfi (f4 .n32), (usesDAb (f4 .n32)).and (regsOf .n32 3) []),
        (.popc (f2 .n32), usesCount (f2 .n32)), (.clz (f2 .n32), usesCount (f2 .n32)), (.ctz (f2 .n32), usesCount (f2 .n32)),
        (.brev (f2 .n32), usesDA (f2 .n32)), (.bperm (f4 .n32), (usesDAB (f4 .n32)).and (regsOf .n32 3) [])],
      (regs 9 7 2).Issues p.1 p.2) ∧ (f4 .n32).ty = .n32 := ⟨issues_all (by decide), rfl⟩

/-- R132, R133: four bits from bit 4, signed; a field that begins at the width is empty; counts of zero. -/
theorem test_bfx : after (execBfx (f3 .i32) (regs 0xF0 0x0404 0)) (laneIs 4 0 0xFFFFFFFF) = true := by decide
theorem test_bfx_empty : after (execBfx (f3 .i32) (regs 0xF0 0x0420 0)) (laneIs 4 0 0) = true := by decide
theorem test_bfi : after (execBfi (f4 .n32) (regs 0 0x0804 0xABC)) (laneIs 4 0 0xBC0) = true := by decide
theorem test_counts :
    after (execClz (f2 .n32) (regs 0 0 0)) (laneIs 4 0 32) && after (execCtz (f2 .n32) (regs 8 0 0)) (laneIs 4 0 3) &&
      after (execPopc (f2 .n32) (regs 0xFF 0 0)) (laneIs 4 0 8) = true := by decide

def pm : FmtA := { fA .n8 0 1 0 0 with bsel := 2, imm := 3 }

theorem witness_CompareMoveAndPredicates :
    (∀ p ∈ [(Instr.cmp .lt (fA .i32 2 1 2 1),
          { reads := regsOf .i32 1 ++ useB (fA .i32 2 1 2 1) false ++ predReg 1, writes := predReg 2 }),
        (.mov (fA .n32 4 0 2 0), { reads := useB (fA .n32 4 0 2 0) false, writes := regsOf .n32 4 }),
        (.movi (fI .n32 4 0 0 5), { writes := regsOf .n32 4 }),
        (.sel (fA .n32 4 1 2 1), (usesDAB (fA .n32 4 1 2 1)).and (predReg 1) []),
        (.sext (fA .i8 4 1 0 0), { reads := [.v 1], writes := extRegs (fA .i8 4 1 0 0) }),
        (.zext (fA .n32 4 1 0 0), { reads := [.v 1], writes := extRegs (fA .n32 4 1 0 0) }),
        (.lea (fA .n32 4 1 2 3), usesDAb (fA .n32 4 1 2 3)), (.pand (fA .n8 2 1 0 0), usesPP (fA .n8 2 1 0 0)),
        (.por (fA .n8 2 1 0 0), usesPP (fA .n8 2 1 0 0)), (.pxor (fA .n8 2 1 0 0), usesPP (fA .n8 2 1 0 0)),
        (.pnot (fA .n8 2 1 0 0), { reads := predReg 1, writes := predReg 2 }),
        (.pmfs (fA .n8 4 0 0 0), { reads := allPreds, writes := [.v 4] }),
        (.pmts pm, { reads := [.v 1], writes := (maskPreds pm).map .p })],
      (regs 9 7 2).Issues p.1 p.2) ∧ (2 : BitVec 8).toNat < 7 := ⟨issues_all (by decide), by decide⟩

/-- R134 to R136. -/
theorem test_cmp_and : after (execCmp .lt (fA .i32 2 1 2 1) (regs 0xFFFFFFFF 0 0)) (predIs 2 0x20) = true := by decide
theorem test_sext : after (execSext (fA .i8 4 1 0 0) (regs 0x80 0 0)) (laneIs 4 0 0xFFFFFF80) = true := by decide
theorem test_lea : after (execLea (fA .n32 4 1 2 3) (regs 100 5 0)) (laneIs 4 0 140) = true := by decide
theorem test_pmfs : after (execPmfs (fA .n8 4 0 0 0) (regs 0 0 0)) (fun t => laneIs 4 0 0 t && laneIs 4 5 2 t) = true := by decide

def cmpct : FmtA := { fA .n32 4 1 5 1 with bsel := 1 }

theorem witness_CrossLaneWork :
    (∀ p ∈ [(Instr.shfl .xor (fA .n32 4 1 2 1), (usesDAB (fA .n32 4 1 2 1)).and [] (predReg 1)),
        (.vany (fA .n8 2 1 0 0), usesVote (fA .n8 2 1 0 0)), (.vall (fA .n8 2 1 0 0), usesVote (fA .n8 2 1 0 0)),
        (.vbal (fA .n8 4 1 0 0), { reads := predReg 1, writes := [.s 4] }),
        (.vred .add (f2 .i32), { reads := regsOf .i32 1, writes := [.s 4] }), (.vscan true .max (f2 .i32), usesDA (f2 .i32)),
        (.vcomp cmpct, (usesDA cmpct).and (predReg 1) [.s 5]),
        (.mfl (fI .n32 4 1 0 5), { reads := regsOf .n32 1 ++ useB (fI .n32 4 1 0 5) false, writes := [.s 4] }),
        (.mtl (fI .n32 4 1 0 5), { reads := .s 1 :: useB (fI .n32 4 1 0 5) false, writes := regsOf .n32 4 })],
      (regs 9 7 2).Issues p.1 p.2) ∧
      ((regs 9 7 2).cg.srcB (fI .n32 4 1 0 5) 0 false false).toNat < (regs 9 7 2).ct.width ∧
      (regs 9 7 2).cf.om.getLsbD ((regs 9 7 2).cg.srcB (fI .n32 4 1 0 5) 0 false false).toNat = true ∧
      (regs 9 7 2).actsAny = true ∧ idle.actsAny = false ∧ (regs 9 7 2).lanes[1]? = some 5 ∧
      ((regs 9 7 2).lanes.filter (P (regs 9 7 2) 1 false))[0]? = some 5 ∧ (2 : BitVec 8).toNat < 7 :=
  ⟨issues_all (by decide), by decide⟩

/-- R138 to R142: lane 5 reads lane 0 at distance 5; a sum over two lanes; the one lane of a predicate comes first. -/
theorem test_shfl :
    after (execShfl .up (fI .n32 4 1 1 5) (regs 9 7 2)) (fun t => laneIs 4 5 9 t && predIs 1 0x20 t) = true := by decide
theorem test_vred : after (execVred .add (f2 .i32) (regs 0xFFFFFFFF 0 0)) (uniIs 4 0xFFFFFFFFFFFFFFFE) = true := by decide
theorem test_vscan_exclusive :
    after (execVscan true .add (f2 .i32) (regs 9 0 0)) (fun t => laneIs 4 0 0 t && laneIs 4 5 9 t) = true := by decide
theorem test_vcomp : after (execVcomp cmpct (regs 9 7 2)) (fun t => laneIs 4 0 9 t && laneIs 4 5 0 t && uniIs 5 1 t) = true := by
  decide

/-- With the b operand a uniform register. -/
def u3 (ty : Ty) : FmtA := { f3 ty with bsel := 1 }
def u4 (ty : Ty) : FmtA := { f4 ty with bsel := 1 }

theorem witness_UniformResults :
    (∀ p ∈ [(Instr.uadd (u3 .i32), usesUAB (u3 .i32)), (.usub (u3 .n32), usesUAB (u3 .n32)), (.umin (u3 .i32), usesUAB (u3 .i32)),
        (.umax (u3 .i32), usesUAB (u3 .i32)), (.umul (u3 .i32), usesUAB (u3 .i32)),
        (.umad (u4 .i32), (usesUAB (u4 .i32)).and [.s 3] []), (.uand (u3 .n32), usesUAB (u3 .n32)),
        (.uor (u3 .n64), usesUAB (u3 .n64)), (.uxor (u3 .n32), usesUAB (u3 .n32)), (.ushl (u3 .n32), usesUAB (u3 .n32)),
        (.ushr (u3 .n32), usesUAB (u3 .n32)), (.usra (u3 .i32), usesUAB (u3 .i32)), (.ubfx (u3 .i32), usesUAB (u3 .i32)),
        (.ubfi (u4 .n32), (usesUAB (u4 .n32)).and [.s 3] []), (.upopc (f2 .n64), usesUA (f2 .n64)),
        (.ucmp .ge { fA .i32 2 1 2 7 with bsel := 1 }, { reads := .s 1 :: useB { fA .i32 2 1 2 7 with bsel := 1 } false ++ predReg 7, writes := predReg 2 }),
        (.umov { fA .n64 4 0 2 0 with bsel := 1 }, { reads := useB { fA .n64 4 0 2 0 with bsel := 1 } false, writes := [.s 4] }),
        (.umovi (fI .n32 4 0 0 5), { writes := [.s 4] }), (.ulea { fA .n32 4 1 2 3 with bsel := 1 }, usesUAB { fA .n32 4 1 2 3 with bsel := 1 })],
      ((regs 9 7 2)).Issues p.1 p.2) ∧ (regs 9 7 2).actsAny = true ∧ idle.actsAny = false :=
  ⟨issues_all (by decide), by decide⟩

/-- R143, R144: the i32 result is written sign-extended, and nothing where no lane takes part. -/
theorem test_uadd_extends :
    after (execUadd (u3 .i32) (regs 0x7FFFFFFF 1 0)) (uniIs 4 0xFFFFFFFF80000000) = true := by decide
theorem test_umovi_idle : after (execUmovi (fI .n32 4 0 0 5) idle) (uniIs 4 0) = true := by decide


/-! ## Control (R86 to R100) -/

/-- A marked line of code at 0x10000, whose first slot holds a word. -/
def placed (w : BitVec 96) (s : State) : State :=
  { s with mem := Map.setBytes s.mem 0x10000 (bytesOfNat 64 (lineWith w).toNat) }

def code : State := placed 0 (regs 0x10002 0 2)

/-- The same under predicate 1, which only lane 5 of the two holds. -/
def split : State := { code with cur := ⟨⟨0, 0, 0⟩, ⟨false, 1, false, 0⟩, 0, 0⟩ }

/-- The same under a predicate that no lane holds. -/
def none3 : State := { code with cur := ⟨⟨0, 0, 0⟩, ⟨false, 3, false, 0⟩, 0, 0⟩ }

/-- Whether a code pointer can be entered, as a Bool. -/
def entersB (s : State) (pc : CodePtr) : Bool :=
  match s.fetch s.cur.ref s.ct.ctx (!s.cg.sys) (lineOfPc pc) with
  | .ok (line, _) => slotMarked line (slotOfPc pc)
  | .error _ => false

theorem enters_of {s : State} {pc : CodePtr} (h : entersB s pc = true) : Enters s pc := by
  right
  simp only [entersB] at h
  split at h
  · rename_i l x e; rw [e]; exact h
  · cases h

theorem direct_of {s : State} {f : FmtB}
    (h : (decide (0 ≤ targetLine s f) && decide (targetLine s f < 2 ^ 57) && entersB s (target s f)) = true) : Direct s f := by
  simp only [Bool.and_eq_true, decide_eq_true_eq] at h
  exact ⟨h.1.1, h.1.2, enters_of h.2⟩

/-- A branch to slot 3 of its own line, and one to a slot of the next line, which is not marked. -/
def toSlot3 : FmtB := ⟨3, 0, 0, 1, 0, 0⟩
def toUnmarked (a : BitVec 8) : FmtB := ⟨3, 1, 0, 0, a, 0⟩

def noEntryB (s : State) (pc : CodePtr) : Bool :=
  pc != nextPc s.cf.pc &&
    match s.fetch s.cur.ref s.ct.ctx (!s.cg.sys) (lineOfPc pc) with
    | .ok (line, _) => !slotMarked line (slotOfPc pc)
    | .error _ => false

theorem noEntry_of {s : State} {pc : CodePtr} (h : noEntryB s pc = true) : NoEntry s pc := by
  simp only [noEntryB, Bool.and_eq_true, bne_iff_ne] at h
  refine ⟨h.1, ?_⟩
  have h := h.2
  split at h
  · rename_i l x e
    exact ⟨l, x, e, by simpa using h⟩
  · cases h

/-- A team whose split table is full, the fragment with no pending record or with one, and the spill area there or not. -/
def fullTable : State := split.updTeam 0 (fun t => { t with entries := 1 })
def side (phase : Bool) : Pending := ⟨0x20, 0x10003, 0x10000, 0x21, 0x21, none, phase⟩
def oneDeep : State := fullTable.setF (fun f => { f with pend := [side false] })
def spilling : State := (oneDeep.setPreg 0x801 0x200000).setPreg 0x810 (1024 * 2 ^ 29)

/-- The spill line is a copy's own, or fails its check, or is in-bank. -/
def spillWaits : State := { spilling with locks := [(spillLine spilling 0, 5)] }
def spillFails : State := { spilling with badLines := [spillLine spilling 0] }
def spillInBank : State := { spilling with rowOwner := [(spillLine spilling 0 / 1024, true)] }

theorem witness_BranchesAndTransfers :
    (code.Issues (.bra toSlot3) {} ∧ split.Issues (.bra toSlot3) {} ∧ none3.Issues (.bra toSlot3) {} ∧
      fullTable.Issues (.bra toSlot3) {} ∧ oneDeep.Issues (.bra toSlot3) {} ∧ spilling.Issues (.bra toSlot3) {} ∧
      code.Issues (.bra ⟨3, 0x10000000, 0, 1, 0, 0⟩) {}) ∧
    (Direct code toSlot3 ∧ Direct split toSlot3 ∧ Direct fullTable toSlot3 ∧ Direct oneDeep toSlot3 ∧ Direct spilling toSlot3) ∧
    (targetLine code ⟨3, 0x10000000, 0, 1, 0, 0⟩ < 0 ∧ oneDeep.cf.pend ≠ [] ∧ spilling.cf.pend ≠ [] ∧
      field (oneDeep.preg 0x801) 47 21 = 0 ∧ field (spilling.preg 0x801) 47 21 ≠ 0 ∧ spilling.cg.spilled < 64 ∧
      spilling.compressed (alignDown 64 (spilling.spillAt spilling.ct.core spilling.cg.slot spilling.cg.spilled)) = false ∧ spilling.cLines = []) ∧
    (none3.act = 0 ∧ code.act ≠ 0 ∧ code.cf.em &&& ~~~code.act = 0 ∧ split.act ≠ 0 ∧ split.cf.em &&& ~~~split.act ≠ 0 ∧
      split.ct.usedEntries < split.ct.entries ∧ split.ct.freeEntry ≠ split.cur.ref.entry ∧
      fullTable.ct.entries ≤ fullTable.ct.usedEntries ∧ fullTable.cf.pend = []) ∧
    (Direct code ⟨3, 0, 0, 0, 0, 0⟩ ∧ Enters code (code.cg.ureg 1)) ∧
    (code.actsAny = true ∧ none3.actsAny = false ∧ pcOk (code.cg.ureg 1) = true ∧ code.cf.em ≠ 0) ∧
    (∀ p ∈ [(Instr.braU ⟨3, 0, 0, 0, 0, 0⟩, ({} : Uses)), (.jmp ⟨3, 0, 0, 0, 0, 0⟩, {}),
        (.jmpi ⟨0, 0, 0, 0, 1, 0⟩, { reads := [.s 1] }), (.call ⟨3, 0, 0, 0, 6, 0⟩, { writes := vregs 6 2 }),
        (.loop ⟨3, 0, 0, 0, 3, 0⟩, { reads := [.s 3], writes := [.s 3] })], code.Issues p.1 p.2) ∧
    none3.Issues (.braU ⟨3, 0, 0, 0, 0, 0⟩) {} ∧
    (spilling.reach (spillLine spilling spilling.cg.spilled) false = .ok ∧
      spilling.compressed (spillLine spilling spilling.cg.spilled) = false) ∧
    (∀ s ∈ [spillWaits, spillFails, spillInBank],
      issuesB s (.bra toSlot3) {} = true ∧ entersB s (target s toSlot3) = true ∧ targetLine s toSlot3 = 0x10000 ∧ s.cf.pend ≠ [] ∧
        field (s.preg 0x801) 47 21 ≠ 0 ∧ s.cg.spilled < 64 ∧ s.act ≠ 0 ∧ s.cf.em &&& ~~~s.act ≠ 0 ∧ s.ct.entries ≤ s.ct.usedEntries) ∧
    (spillWaits.reach (spillLine spillWaits 0) false = .wait ∧
      (spillFails.reach (spillLine spillFails 0) false).cause = some 0x050 ∧
      (spillInBank.reach (spillLine spillInBank 0) false).cause = some 0x04C) ∧
    (∀ p ∈ [(Instr.bra { toUnmarked 0 with jline := 1 }, ({} : Uses)), (.braU (toUnmarked 0), {}), (.jmp (toUnmarked 0), {}),
        (.call (toUnmarked 6), { writes := vregs 6 2 }), (.loop (toUnmarked 3), { reads := [.s 3], writes := [.s 3] })], code.Issues p.1 p.2) ∧
    NoTarget code (toUnmarked 0) ∧ code.cg.ureg 3 ≠ 1 :=
  ⟨⟨issues_of (by decide), issues_of (by decide), issues_of (by decide), issues_of (by decide), issues_of (by decide),
      issues_of (by decide), issues_of (by decide)⟩,
    ⟨direct_of (by decide), direct_of (by decide), direct_of (by decide), direct_of (by decide), direct_of (by decide)⟩, by decide,
    by decide,
    ⟨direct_of (by decide), enters_of (by decide)⟩, by decide, issues_all (by decide), issues_of (by decide), by decide, by decide,
    by decide, issues_all (by decide), .inr (.inr (noEntry_of (by decide))), by decide⟩

/-- A caller's return pointer in registers 2 and 3 of every lane of `em`: slot 4 of the line. -/
def returning : State := placed 0 (regs 0 0x10004 0)

theorem witness_BranchesAndTransfers_ret :
    returning.Issues (.ret ⟨0, 0, 0, 0, 2, 0⟩) { reads := vregs 2 2 } ∧ returning.cf.em ≠ 0 ∧
      (∀ l < 64, returning.cf.em.getLsbD l = true → returning.cg.vpair 2 l = 0x10004) ∧ pcOk 0x10004 = true ∧
      Enters returning 0x10004 :=
  ⟨issues_of (by decide), by decide, by decide, by decide, enters_of (by decide)⟩

/-- A code pointer that is malformed, and one to a slot that is not marked. -/
theorem witness_BranchesAndTransfers_pointers :
    (∀ x ∈ [(0x10005 : Word), 0x10040], (∀ s ∈ [placed 0 (regs x 0 0)], s.Issues (.jmpi ⟨0, 0, 0, 0, 1, 0⟩) { reads := [.s 1] }) ∧
      (∀ s ∈ [placed 0 (regs 0 x 0)], s.Issues (.ret ⟨0, 0, 0, 0, 2, 0⟩) { reads := vregs 2 2 } ∧ s.cf.em ≠ 0 ∧
        ∀ l < 64, s.cf.em.getLsbD l = true → s.cg.vpair 2 l = x.setWidth 64)) ∧
    pcOk 0x10005 = false ∧ NoEntry (placed 0 (regs 0x10040 0 0)) 0x10040 ∧ NoEntry (placed 0 (regs 0 0x10040 0)) 0x10040 := by
  refine ⟨fun x h => ⟨fun s e => ?_, fun s e => ?_⟩, by decide, noEntry_of (by decide), noEntry_of (by decide)⟩ <;>
    simp only [List.mem_cons, List.not_mem_nil, or_false] at h e <;> subst e <;> rcases h with rfl | rfl
  · exact issues_of (by decide)
  · exact issues_of (by decide)
  · exact ⟨issues_of (by decide), by decide, by decide⟩
  · exact ⟨issues_of (by decide), by decide, by decide⟩

/-- R89: lane 5 branches, lane 0 goes on, and the two are siblings; R93. -/
theorem test_bra_splits :
    after (execBra toSlot3 split) (fun t =>
      t.cf.em == 1 && t.cf.pc == 0x10001 && t.cf.sib == some 1 && (t.cg.fragOf 1).em == 0x20 && (t.cg.fragOf 1).pc == 0x10003) =
      true := by decide
theorem test_bra_pends :
    after (execBra toSlot3 fullTable) (fun t => t.cf.em == 0x20 && t.cf.pc == 0x10003 && t.cf.pend.map (·.mask) == [1]) = true := by
  decide
theorem test_call : after (execCall ⟨3, 0, 0, 0, 6, 0⟩ code) (fun t => laneIs 6 5 0x10001 t && laneIs 7 5 0 t && t.cf.pc == 0x10003) =
    true := by decide
theorem test_ret : after (execRet ⟨0, 0, 0, 0, 2, 0⟩ returning) (fun t => t.cf.pc == 0x10004) = true := by decide
theorem test_loop : after (execLoop ⟨3, 0, 0, 0, 3, 0⟩ code) (fun t => uniIs 3 1 t && t.cf.pc == 0x10003) = true := by decide

/-- Two lanes, one of which takes part, and a fragment that naps or has waited for a port. -/
def parked (w : Park) : State := code.setF (fun f => { f with park := some w })
def napSafe : State := ((parked (.nap 0)).setF (fun f => { f with sp := true })).updTeam 0 (fun t => { t with request := some 0 })
def waited : State :=
  { code.setF (fun f => { f with ready := some 0, line := some (0x10000, lineWith 0) }) with now := 1024 }

theorem witness_MasksParkingAndNaps :
    (∀ p ∈ [(Instr.mfem (fA .n8 4 0 0 0), ({ writes := [.s 4] } : Uses)), (.mfom (fA .n8 4 0 0 0), { writes := [.s 4] }),
        (.mtem { fA .n8 0 0 1 0 with bsel := 1 }, { reads := useB { fA .n8 0 0 1 0 with bsel := 1 } false }), (.yield, {}),
        (.nap { fA .n8 0 0 0 0 with imm := 7 }, {})], code.Issues p.1 p.2) ∧
    none3.Issues .yield {} ∧ code.actsAny = true ∧ none3.actsAny = false ∧ { fA .n8 0 0 0 0 with imm := 7 }.imm.extractLsb' 0 16 ≠ 0 ∧
    (parked (.nap 0)).live ⟨0, 0, 0⟩ = true ∧ ((parked (.nap 0)).groupAt 0 0).stop = none ∧
    ((parked (.nap 0)).fragAt ⟨0, 0, 0⟩).park = some (.nap 0) ∧ 0 ≤ (parked (.nap 0)).now ∧ waited.live ⟨0, 0, 0⟩ = true ∧
    ((napSafe.fragAt ⟨0, 0, 0⟩).park = some (.nap 0) ∧ (napSafe.fragAt ⟨0, 0, 0⟩).sp = true ∧ (napSafe.teamOf 0).request ≠ none ∧
      (napSafe.groupAt 0 0).stop = none ∧ napSafe.live ⟨0, 0, 0⟩ = true) ∧
    (waited.fragAt ⟨0, 0, 0⟩).promoted = false ∧ (waited.fragAt ⟨0, 0, 0⟩).ready = some 0 ∧ waited.ready ⟨0, 0, 0⟩ = true ∧
    0 + 1024 ≤ waited.now :=
  ⟨issues_all (by decide), issues_of (by decide), by decide⟩

/-- R96: seven cycles and one more. -/
theorem test_nap : after (execNap { fA .n8 0 0 0 0 with imm := 7 } code) (fun t => t.cf.park == some (.nap 8)) = true := by decide
theorem test_napExpire : after (execNapExpire ⟨0, 0, 0⟩ (parked (.nap 0))) (fun t => t.cf.park == none && t.cf.pc == 0x10001) = true := by
  decide
theorem test_mtem : after (execMtem { fA .n8 0 0 1 0 with bsel := 1 } code) (fun t => t.cf.em == 0 && t.cf.om == 0x21) = true := by decide

/-- A fragment at its join, with what a branch left pending in its first phase or its second, or a sibling, or neither. -/
def atJoin (pend : List Pending) (sib : Option Nat) : State :=
  (code.setF (fun f => { f with
    om := 1, em := 1, join := some 0x10000, pend := pend, sib := sib, line := some (0x10000, lineWith 0) }))

/-- The same with one more record in the spill area, whose line can be read, is a copy's own, or is in-bank. -/
def deepJoin : State := ((atJoin [side true, side false] none).setPreg 0x801 0x200000).setPreg 0x810 (1024 * 2 ^ 29)
def deepWaits : State := { deepJoin with locks := [(spillLine deepJoin 0, 5)] }
def deepInBank : State := { deepJoin with rowOwner := [(spillLine deepJoin 0 / 1024, true)] }

/-- The two sides of a split, waiting at their join. -/
def siblings : State :=
  base.setG (fun g => { g with frags :=
    [(0, { nullFrag with om := 1, em := 1, pc := 0x10000, join := some 0x10000, sib := some 1, wait := true, park := some .join }),
      (1, { nullFrag with
        om := 0x20, em := 0x20, pc := 0x10000, join := some 0x10000, sib := some 0, parent := some 0, wait := true, park := some .join
        save := some ⟨0x21, 0x21, none, none⟩ })] })

def exiting (pend : List Pending) (sib : Option Nat) : State := (regs 0 0 0).setF (fun f => { f with pend := pend, sib := sib })

theorem witness_JoinsAndExits :
    (∀ s ∈ [code.setF (fun f => { f with line := some (0x10000, lineWith 0) }), atJoin [] none, atJoin [] (some 1),
        atJoin [side false] none, atJoin [side true] none, deepJoin, deepWaits, deepInBank],
      issuesB s .join {} = true ∧ s.cf.line = some (lineOfPc s.cf.pc, lineWith 0) ∧
        slotMarked (lineWith 0) (slotOfPc s.cf.pc) = true) ∧
    (code.cf.join ≠ some code.cf.pc ∧ (atJoin [] none).cf.join = some (atJoin [] none).cf.pc ∧
      (side false).join = (atJoin [] none).cf.pc ∧ (side false).mask &&& ~~~(atJoin [] none).cg.exited ≠ 0 ∧
      (side true).om &&& ~~~(atJoin [] none).cg.exited ≠ 0) ∧
    (∀ s ∈ [deepJoin, deepWaits, deepInBank], s.cf.pend = side true :: [side false] ∧ s.cf.join = some s.cf.pc ∧
      (side true).join = s.cf.pc ∧ s.cg.spilled - 1 = 0) ∧
    (deepJoin.reach (spillLine deepJoin 0) false = .ok ∧ deepJoin.compressed (spillLine deepJoin 0) = false ∧ deepJoin.cLines = [] ∧
      Map.get none deepJoin.lineOwner (spillLine deepJoin 0 / 64) = none) ∧
    (deepWaits.reach (spillLine deepWaits 0) false = .wait ∧
      (deepInBank.reach (spillLine deepInBank 0) false).cause = some 0x04C) ∧
    (siblings.live ⟨0, 0, 0⟩ = true ∧ (siblings.groupAt 0 0).stop = none ∧ (siblings.groupAt 0 0).fusePair 0 = some (1, 0) ∧
      (siblings.cg.fragOf 1).save = some ⟨0x21, 0x21, none, none⟩ ∧ (siblings.cg.fragOf 1).join = some 0x10000 ∧
      0x21 &&& ~~~siblings.cg.exited ≠ 0 ∧ (siblings.teamOf 0).request = none) ∧
    (let s := siblings.updTeam 0 (fun t => { t with
       request := some 0, groups := Map.modify nullGroup t.groups 0 (·.updFrag 1 (fun f => { f with sp := true })) })
     (s.teamOf 0).request ≠ none ∧ (s.cg.fragOf 1).sp = true ∧ (s.groupAt 0 0).fusePair 0 = some (1, 0)) ∧
    (∀ s ∈ [exiting [] none, exiting [] (some 1), { split with cur := ⟨⟨0, 0, 0⟩, ⟨false, 1, false, 0⟩, 0, 0⟩ }],
      s.cg.arr = none ∧ s.allGroups.filterMap (·.worker) = [] ∧ issuesB s .exit {} = true) ∧
    (exiting [] none).cf.om &&& ~~~(exiting [] none).act = 0 ∧ split.cf.om &&& ~~~split.act ≠ 0 := by decide

/-- R91: the pending side comes first, then what the branch saved; siblings fuse with the masks of the split. R92. -/
theorem test_join_turns :
    after (execJoin (atJoin [side false] none)) (fun t => t.cf.em == 0x20 && t.cf.pc == 0x10003 && t.cf.pend == [side true]) = true := by
  decide
theorem test_join_restores :
    after (execJoin (atJoin [side true] none)) (fun t => t.cf.em == 0x21 && t.cf.pc == 0x10001 && t.cf.pend == [] && t.cf.join == none) =
      true := by decide
theorem test_fuse :
    after (execFragmentFuse ⟨0, 0, 0⟩ siblings) (fun t => t.cf.em == 0x21 && t.cf.pc == 0x10001 && t.cg.frags.length == 1) = true := by
  decide
theorem test_exit : after (execExit split) (fun t => t.cg.exited == 0x20 && t.cf.om == 1 && t.cf.pc == 0x10001) = true := by decide

/-! ## Exceptions (R385 to R390) -/

/-- Every vector at slot 1 of the line at 0x10000. -/
def vectored (w : BitVec 96) : State :=
  let s := placed w (regs 9 7 2)
  { s with ctxs := [(1, { s.ctxOf 1 with sregs :=
      [(0x404, 0xFFFFFFFFFFFFFFFF), (0x405, 0x20000), (0x450, 0x10001), (0x451, 0x10001), (0x452, 0x10001), (0x453, 0x10001),
        (0x454, 0x10001), (0x455, 0x10001), (0x456, 0x10001)] })] }

def hand : State := vectored 0

/-- In a handler whose frame returns to slot 4. -/
def inHandler (cause resume : DWord) : State :=
  hand.setG (fun g => { g with tf := [(0x470, 0x1000 ||| cause), (0x477, resume), (0x478, 1)], trapEntry := some 0 })

def canEnterB (s : State) (r : FragRef) (c : Cause) : Bool :=
  !(s.groupAt r.team r.group).ent && !s.trapWaits r c &&
    match s.fetch r (s.teamOf r.team).ctx false (lineOfPc (vector s r c)) with
    | .ok (line, _) => slotMarked line (slotOfPc (vector s r c))
    | .error _ => false

theorem canEnter_of {s : State} {r : FragRef} {c : Cause} (h : canEnterB s r c = true) : ∃ u, CanEnter s r c u := by
  simp only [canEnterB, Bool.and_eq_true, Bool.not_eq_true'] at h
  obtain ⟨⟨a, b⟩, d⟩ := h
  split at d
  · rename_i l x e; exact ⟨x, a, b, l, e, d⟩
  · cases d

theorem witness_TrapEntryWritesFrame :
    (∃ u, CanEnter hand ⟨0, 0, 0⟩ { code := 0x002, addr := 0x10000, resume := 0x10000 } u) ∧
      (∃ u, CanEnter hand ⟨0, 0, 0⟩ { code := 0x10C, precise := false, addr := 0x10000, resume := 0x10000 } u) ∧
      (hand.groupAt 0 0).inflight.all (fun x => x.2.req.isNone) = true :=
  ⟨canEnter_of (by decide), canEnter_of (by decide), by decide⟩

theorem witness_SoftwareTrapsAndReturn :
    (∃ u, CanEnter hand ⟨0, 0, 0⟩
        { code := 0x1E5, mask := some 1, addr := (hand.fragAt ⟨0, 0, 0⟩).pc, info0 := 4, resume := (hand.fragAt ⟨0, 0, 0⟩).pc } u) ∧
    (hand.runs ⟨0, 0, 0⟩ = true ∧ hand.finishes ⟨0, 0, 0⟩ = false ∧ hand.actsAny = true) ∧ hand.Issues .trap {} ∧
    hand.Issues .bkpt {} ∧ none3.Issues .trap {} ∧ none3.Issues .bkpt {} ∧
    (∃ u, CanEnter hand hand.cur.ref
        { code := 0, sw := true, addr := hand.cf.pc, info0 := 0, info3 := 0x0800000000000000, resume := nextPc hand.cf.pc } u) ∧
    (∃ u, CanEnter hand hand.cur.ref
        { code := 0x1D0, sw := true, addr := hand.cf.pc, info0 := 0, info3 := 0x0800000000000000, resume := nextPc hand.cf.pc } u) ∧
    (inHandler 2 0x10004).Issues .tret {} ∧ hand.Issues .tret {} ∧ (inHandler 2 7).Issues .tret {} ∧
    ((inHandler 2 0x10004).cg.ent = true ∧ hand.cg.ent = false ∧ pcOk ((inHandler 2 0x10004).cg.tfReg 0x477) = true ∧
      pcOk ((inHandler 2 7).cg.tfReg 0x477) = false) :=
  ⟨canEnter_of (by decide), by decide, issues_of (by decide), issues_of (by decide), issues_of (by decide), issues_of (by decide),
    canEnter_of (by decide), canEnter_of (by decide), issues_of (by decide), issues_of (by decide), issues_of (by decide), by decide⟩

/-- The null vector's line cannot be marked where memory is empty. -/
def unmarkedB (s : State) (c : Cause) : Bool :=
  match s.fetch s.cur.ref s.ct.ctx false (lineOfPc (vector s s.cur.ref c)) with
  | .ok (line, _) => !slotMarked line (slotOfPc (vector s s.cur.ref c))
  | .error _ => false

theorem witness_DoubleFaultEndsTeam :
    ((inHandler 2 0x10004).groupAt 0 0).ent = true ∧ base.trapWaits ⟨0, 0, 0⟩ { code := 2, addr := 0, resume := 0 } = false ∧
      unmarkedB base { code := 2, addr := 0, resume := 0 } = true := by decide

/-- R386, R387: `trap 0x1E5` in two lanes: its frame, and where the fragment is. R390: and back. -/
theorem test_trap :
    after (execTrap { hand with cur := ⟨⟨0, 0, 0⟩, plain, 0x1E5, 0⟩ }) (fun t =>
      t.cf.pc == 0x10001 && t.cg.tfReg 0x470 == 0x1FE5 && t.cg.tfReg 0x471 == 0x10000 && t.cg.tfReg 0x472 == 0x21 &&
        t.cg.tfReg 0x473 == 0x1E5 && t.cg.tfReg 0x477 == 0x10001) = true := by decide
theorem test_tret :
    after (execTret (inHandler 2 0x10004)) (fun t => t.cf.pc == 0x10004 && t.cf.em == 1 && !t.cg.sys && !t.cg.ent) = true := by decide
theorem test_double_fault :
    (((inHandler 2 0).raise 0x002).ct.ending, ((inHandler 2 0).raise 0x002).ct.status) = (some (2, 0x1D3), .frozen) := by decide
theorem test_checks : after (execAdd (fA .i32 3 1 2 9) hand) (fun t => t.cg.tfReg 0x470 == 0x1602 && t.cf.pc == 0x10001) = true := by decide

/-! ## From a line to an instruction (R43 to R50, R65) -/

/-- An answer that is no error and of which something holds. -/
def okB {ε α : Type} (x : Except ε α) (k : α → Bool) : Bool :=
  match x with
  | .ok a => k a
  | .error _ => false

/-- `add.i32 v4, v1, v2` in slot 0, fetched. -/
def addWord : BitVec 96 := 0x107006040102000000000000
def there (w : BitVec 96) : State := (placed w (regs 9 7 2)).setF (fun f => { f with line := some (0x10000, lineWith w) })

def zero : FragRef := ⟨0, 0, 0⟩

/-- What the statements about a slot that issues ask of a fragment. -/
def readyB (s : State) (w : BitVec 96) : Bool :=
  s.live zero && (s.groupAt 0 0).stop.isNone && (s.teamOf 0).status == .resident && (s.fragAt zero).park.isNone &&
    (s.fragAt zero).sent.isEmpty && !s.forceDue 0 (s.groupAt 0 0) && (s.groupAt 0 0).held.isEmpty &&
    (s.groupAt 0 0).ctxFault.isNone && (s.fragAt zero).here == some (lineWith w) &&
    !(slotOfPc (s.fragAt zero).pc == 0 && (s.groupAt 0 0).waitsOn (lineWith w)) && !(s.fragAt zero).fresh &&
    s.powered zero && s.runs zero

theorem witness_StepRunsDecodedInstruction :
    readyB { there addWord with agenda := [(.slot zero, 3)] } addWord = true ∧
      okB (decodeRaw (slotBits (lineWith addWord) 0)) (fun x => x.hdr == plain && x.ins == .add (fA .i32 4 1 2 0)) = true := by decide

theorem witness_FailedChecksTakeTheirCause :
    (Instr.add (fA .i32 4 1 2 9)).isEvent = false ∧ encodeStream (.add (fA .i32 4 1 2 9)) = none ∧
      (regs 9 7 2).slotCause (.add (fA .i32 4 1 2 9)) = some 0x002 ∧ Instr.tret.supervisor = true ∧
      ((regs 9 7 2).setG (fun g => { g with sys := false })).cg.sys = false ∧ (⟨0x810, 1, 0⟩ : FmtS).sreg.toNat ≥ 0x800 ∧
      ((regs 9 7 2).updCtx 1 (fun c => { c with owner := false })).cc.owner = false ∧
      (let s := (regs 9 7 2).setG (fun g => { g with inflight := [(0, ⟨none, [.v 1], ⟨[], []⟩, 0, none⟩)] })
       s.slotCause (.add (f3 .i32)) = none ∧ s.ct.firstBeyond (usesDAB (f3 .i32)) = none ∧
         s.cg.interlocked s.cur.hdr (usesDAB (f3 .i32)) = true ∧ s.flagFull = false ∧ s.cf.counted = uncounted) ∧
      (let s := (there addWord).setG (fun g => { g with k := [(1, 63)] })
       let s : State := { s with cur := ⟨zero, ⟨false, 7, false, 1⟩, 0, 0⟩ }
       s.slotCause (.add (f3 .i32)) = none ∧ s.flagFull = true) ∧
      readyB (there 0xF00000000000000000000000) 0xF00000000000000000000000 = true ∧
      decodeRaw 0xF00000000000000000000000 = .error .unassigned ∧ readyB (there 1) 1 = true ∧ decodeRaw 1 = .error .reserved := by decide

/-- One instruction of each shape that the statement lists, in a team with 8 vector and 8 uniform registers, and the registers that it uses
held by one in flight. -/
def shapes (v s : BitVec 8) : List (Instr × Uses) :=
  [(.add (fA .i32 v 1 2 0), usesDAB (fA .i32 v 1 2 0)), (.abs (fA .i32 v 1 0 0), usesDA (fA .i32 v 1 0 0)),
    (.shl (fA .n32 v 1 2 0), usesDAb (fA .n32 v 1 2 0)), (.uadd { fA .i32 s 1 2 0 with bsel := 1 }, usesUAB { fA .i32 s 1 2 0 with bsel := 1 }),
    (.jmpi ⟨0, 0, 0, 0, s, 0⟩, { reads := [.s s.toNat] }), (.call ⟨0, 0, 0, 0, v, 0⟩, { writes := vregs v.toNat 2 }),
    (.ret ⟨0, 0, 0, 0, v, 0⟩, { reads := vregs v.toNat 2 }),
    (.lds (fE 2 v 1 0 0), { reads := [.v 1], writes := spRegs 2 v }), (.sts (fE 2 0 v 1 0), { reads := .v v.toNat :: spRegs 2 1 }),
    (.carrive (fE 0 s 1 0 0), { reads := [.s 1], writes := [.s s.toNat] }),
    (.qpush (fE 0 0 v 0 0), { reads := pushReads (fE 0 0 v 0 0) false }), (.qpop (fE 0 v 0 0 0), { writes := popWrites (fE 0 v 0 0 0) false }),
    (.mfsp ⟨0x006, s, 0⟩, { writes := [moveReg ⟨0x006, s, 0⟩] }), (.mtsp ⟨0x471, s, 0⟩, { reads := [.s s.toNat] })]
def small (pend : List Reg) : State :=
  ((regs 9 7 2).updTeam 0 (fun t => { t with vblocks := 1, uregs := 8 })).setG (fun g =>
    { g with inflight := if pend.isEmpty then [] else [(0, ⟨none, pend, ⟨[], []⟩, 0, none⟩)] })

theorem witness_FailedChecksTakeTheirCause_shapes :
    (∀ v s, ∀ p ∈ shapes v s, ClaimedUses p.1 p.2) ∧
    ((shapes 8 8).all (fun p => ((small []).slotCause p.1).isNone && ((small []).ct.firstBeyond p.2).isSome) = true) ∧
    ((shapes 4 4).all (fun p =>
      let s := small [.v 4, .s 4]
      (s.slotCause p.1).isNone && (s.ct.firstBeyond p.2).isNone && s.cg.interlocked s.cur.hdr p.2 && !s.flagFull) = true) := by
  refine ⟨fun v s p h => ?_, by decide, by decide⟩
  simp only [shapes, List.mem_cons, List.not_mem_nil, or_false] at h
  unfold ClaimedUses
  rcases h with rfl | rfl | rfl | rfl | rfl | rfl | rfl | rfl | rfl | rfl | rfl | rfl | rfl | rfl
  · exact .inl ⟨_, .inl ⟨rfl, by simp⟩⟩
  · exact .inl ⟨_, .inr (.inl ⟨rfl, by simp⟩)⟩
  · exact .inl ⟨_, .inr (.inr (.inl ⟨rfl, by simp⟩))⟩
  · exact .inl ⟨_, .inr (.inr (.inr ⟨rfl, by simp⟩))⟩
  · exact .inr (.inl ⟨_, .inl ⟨rfl, rfl⟩⟩)
  · exact .inr (.inl ⟨_, .inr (.inl ⟨rfl, rfl⟩)⟩)
  · exact .inr (.inl ⟨_, .inr (.inr ⟨rfl, rfl⟩)⟩)
  · exact .inr (.inr (.inl ⟨fE 2 v 1 0 0, .inl ⟨rfl, by simp⟩⟩))
  · exact .inr (.inr (.inl ⟨fE 2 0 v 1 0, .inr (.inl ⟨rfl, by simp⟩)⟩))
  · exact .inr (.inr (.inl ⟨fE 0 s 1 0 0, .inr (.inr (.inl ⟨rfl, by simp⟩))⟩))
  · exact .inr (.inr (.inl ⟨_, .inr (.inr (.inr (.inl ⟨rfl, rfl⟩)))⟩))
  · exact .inr (.inr (.inl ⟨_, .inr (.inr (.inr (.inr ⟨rfl, rfl⟩)))⟩))
  · exact .inr (.inr (.inr ⟨⟨0x006, s, 0⟩, .inl ⟨rfl, by simp⟩⟩))
  · exact .inr (.inr (.inr ⟨⟨0x471, s, 0⟩, .inr ⟨rfl, by simp⟩⟩))

theorem test_beyond : after (execAdd (fA .i32 4 1 200 0) { small [] with ctxs := hand.ctxs, mem := hand.mem }) (fun t =>
    t.cg.tfReg 0x470 == 0x160D && t.cg.tfReg 0x473 == 200) = true := by decide

/-- One step fetches the line, decodes the slot and runs it (R46, R99), and its record is pending (R50). -/
theorem test_step_add :
    after (step { placed addWord (regs 9 7 2) with agenda := [(.slot zero, 3)] }) (fun t =>
      laneIs 4 5 16 t && t.cf.pc == 0x10001 && t.now == 3 && t.cg.pendingRegs.contains (.v 4)) = true := by decide
theorem test_step_unassigned :
    after (step { placed 0xF00000000000000000000000 (vectored 0xF00000000000000000000000) with agenda := [(.slot zero, 0)] })
      (fun t => t.cg.tfReg 0x470 == 0x1601 && t.cf.pc == 0x10001) = true := by decide

/-- The state after a step, for the step that follows. -/
def next (r : Res) : State :=
  match r with
  | .next t => t
  | _ => base

def ran : State := next (execAdd (f3 .i32) code)

theorem witness_FetchAndIssueEvents :
    (code.runs zero = true ∧ (code.fragAt zero).park = none ∧ (code.fragAt zero).here = none ∧ (code.fragAt zero).refetch = false) ∧
    okB (code.fetch zero 1 false 0x10000) (fun p => parityOk p.1 && !flagsReserved p.1 && !parityOk (p.1 ^^^ 1)) = true ∧
    (code.setF (fun f => { f with refetch := true })).runs zero = true ∧
    (there 0).choose 0 0 = some zero ∧
    (Map.find (ran.groupAt 0 0).inflight 0).isSome = true ∧
    ((ran.groupAt 0 0).inflight.any (fun p => p.2.regs == [.v 4] && p.2.req.isNone && !(ran.teamOf 0).tileHeld p.2.time p.2.tile) = true ∧
      Map.has ran.teams 0 = true ∧ Map.has (ran.teamOf 0).groups 0 = true) := by decide

/-- R45: a bad copy is fetched once more, and a second one takes 0x004. -/
theorem test_refetch : after (execFetchLine zero 1 code) (fun t => t.cf.refetch && t.preg 0x854 == 0x0001000000000000) = true := by decide
theorem test_second_bad_copy :
    after (execFetchLineRefetch zero 1 (hand.setF (fun f => { f with refetch := true }))) (fun t => t.cg.tfReg 0x470 == 0x1604) = true := by
  decide +kernel
theorem test_complete :
    after (execInstructionComplete 0 0 ((ran.groupAt 0 0).inflight.headD (0, ⟨none, [], ⟨[], []⟩, 0, none⟩)).1 ran)
      (fun t => t.cg.inflight.isEmpty && t.cg.pendingRegs.isEmpty && laneIs 4 0 0x10002 t) = true := by decide

def held : Held := ⟨.copy, 0x10C, 0x10000, none, 0, none, 0, 0, none⟩
def holding : State := hand.setG (fun g => { g with held := [held] })
def armed : State := (hand.setG (fun g => { g with ctxFault := some (0x40, 2) })).setF (fun f => { f with park := some .opener })

theorem witness_ImpreciseCausesEnterHandler :
    (holding.runs zero = true ∧ holding.finishes zero = false ∧ (holding.groupAt 0 0).held.filterMap (holding.heldNow (holding.groupAt 0 0)) = [held] ∧
      (holding.fragAt zero).park = none ∧ holding.trapWaits zero (held.toCause (holding.fragAt zero).pc) = false) ∧
    canEnterB (holding.updGroupAt 0 0 (fun g => { g with held := g.held.tail })) zero (held.toCause (holding.fragAt zero).pc) = true ∧
    (armed.runs zero = true ∧ armed.finishes zero = false ∧ (armed.groupAt 0 0).ctxFault = some (0x40, 2) ∧
      (armed.fragAt zero).park ≠ none) ∧
    canEnterB (armed.updGroupAt 0 0 (fun g => { g with ctxFault := none })) zero
      { code := 0x051, precise := false, addr := (armed.fragAt zero).pc, info0 := 0x40, info1 := 2, resume := (armed.fragAt zero).pc } = true ∧
    ((inHandler 2 0).groupAt 0 0).ent = true := by decide

/-- R388: imprecise, `tresume` at the unissued slot. -/
theorem test_imprecise :
    after (execImpreciseCauseDelivery zero holding) (fun t => t.cg.tfReg 0x470 == 0x150C && t.cg.tfReg 0x477 == 0x10000 && t.cg.held.isEmpty)
      = true := by decide

/-! ## Special registers (R81, R387, R389, R390) -/

/-- An owner that hands over while a frame that it has pinned has yet to come back. -/
def handWaits : State :=
  { hand.setG (fun g => { g with s := [(1, 0x2800000000000000)] }) with
    owner := 0, frames := [(0x40000, ⟨.evicted, 1, 0, false, true, false⟩)] }

theorem witness_SpecialRegisters :
    (∀ p ∈ [(Instr.mfsp ⟨0x006, 4, 0⟩, ({ writes := [moveReg ⟨0x006, 4, 0⟩] } : Uses)),
        (.mfsv ⟨0x810, 4, 0⟩, { writes := [moveReg ⟨0x810, 4, 0⟩] }), (.mfsp ⟨2, 4, 0⟩, { writes := [moveReg ⟨2, 4, 0⟩] }),
        (.mtsp ⟨0x471, 1, 0⟩, { reads := [.s 1] }), (.mtsv ⟨0x471, 1, 0⟩, { reads := [.s 1] }), (.mtsp ⟨0x021, 1, 0⟩, { reads := [.s 1] })],
      hand.Issues p.1 p.2) ∧
    hand.actsAny = true ∧ none3.actsAny = false ∧ none3.Issues (.mtsp ⟨0x471, 1, 0⟩) { reads := [.s 1] } ∧
    okB (hand.writeSreg 0x471 (hand.cg.ureg 1)) (·.2) = true ∧
    (okB (handWaits.writeSreg 0x850 (handWaits.cg.ureg 1)) (fun p => !p.2) = true ∧ handWaits.actsAny = true ∧
      issuesB handWaits (.mtsp ⟨0x850, 1, 0⟩) { reads := [.s 1] } = true) ∧
    (match hand.writeSreg 0x450 7 with | .error c => c == 0x002 | .ok _ => false) = true ∧
    shapeBad (1 &&& 0xFFFFFFF1) 0 = true ∧
    pcOk 0x10004 = true ∧ pcOk 7 = false ∧ (hand.cc.sreg 0x450 &&& ~~~0x01FFFFFFFFFFFFC7) = 0 :=
  ⟨issues_all (by decide), by decide, by decide, issues_of (by decide), by decide⟩

/-- R82: the number of each lane in its team and its group. -/
theorem test_mfsp_lane : after (execMfsp ⟨2, 4, 0⟩ hand) (laneIs 4 5 0x50005) = true := by decide
theorem test_mtsp_em : after (execMtsp ⟨0, 3, 0⟩ hand) (fun t => t.cf.em == 0) = true := by decide
theorem test_mtsp_vector : after (execMtsp ⟨0x450, 1, 0⟩ hand) (fun t => t.cg.tfReg 0x470 == 0x1602) = true := by decide

/-! ## Pre-emption, images, launch, worklists (R76 to R113, R392 to R399) -/

/-- A context with a launch list at 0x30000, private memory for four teams, and two save slots. -/
def rich : State :=
  let s := placed 0 (regs 9 7 2)
  { s with ctxs := [(1, { s.ctxOf 1 with sregs :=
      [(0x400, 0x30000), (0x404, 0xFFFFFFFFFFFFFFFF), (0x405, 0x20000), (0x40A, 0x80000), (0x40B, 0x0000000400000004), (0x40C, 4),
        (0x448, 0x40002), (0x450, 0x10001), (0x451, 0x10001), (0x452, 0x10001), (0x453, 0x10001), (0x454, 0x10001), (0x455, 0x10001),
        (0x456, 0x10001)] })] }

/-- A team asked to stop so long ago that its group is stopped by force, and one that has stopped, and one that has drained. -/
def asked : State := { rich.updTeam 0 (fun t => { t with request := some 0 }) with now := 1000001 }
def stopped : State := (rich.updTeam 0 (fun t => { t with request := some 0 })).setG (fun g => { g with stop := some .implicit })
def drained : State := stopped.updTeam 0 (fun t => { t with drained := true, status := .stopped })
def faulted : State := drained.updTeam 0 (fun t => { t with ending := some (2, 0x1D3) })
def halted : State := drained.updTeam 0 (fun t => { t with ending := some (1, 0) })

theorem witness_PreemptionAndHalt :
    (Map.has rich.teams 0 = true ∧ (rich.teamOf 0).status = .resident ∧ (rich.teamOf 0).ending = none ∧ rich.canSave 0 = true ∧
      0 ∈ rich.clusterOf 0 ∧ (rich.teamOf 0).request = none) ∧
    (Map.has (asked.teamOf 0).groups 0 = true ∧ asked.forceDue 0 (asked.groupAt 0 0) = true ∧
      (asked.groupAt 0 0).frags.all (fun f => f.2.sent.isEmpty) = true ∧ (asked.groupAt 0 0).stop = none ∧
      (asked.groupAt 0 0).frags ≠ [] ∧ (asked.groupAt 0 0).inflight.all (fun x => x.2.req.isNone) = true) ∧
    issuesB { rich with cur := ⟨zero, plain, 100, 0⟩ } .pdefer {} = true ∧ issuesB rich .halt {} = true ∧ 0 ∈ rich.halves rich.cur.ref.team := by decide

theorem test_pdefer :
    after (execPdefer { rich with cur := ⟨zero, plain, 100, 0⟩, now := 5 }) (fun t => t.cg.deferUntil == 105) = true := by decide
theorem test_halt : after (execHalt rich) (fun t => t.ct.ending == some (1, 0) && t.cg.stop == some .implicit && laneIs 1 5 9 t) = true := by
  decide
theorem test_forcedStop : after (execForcedStop 0 0 asked) (fun t => t.cg.stop == some .implicit && laneIs 1 5 9 t) = true := by decide

theorem witness_DrainAndSave :
    (Map.has stopped.teams 0 = true ∧ (stopped.teamOf 0).groups ≠ [] ∧ 0 ∈ stopped.savedWith 0 ∧ (stopped.teamOf 0).drained = false ∧
      (stopped.teamOf 0).request ≠ none ∧ (stopped.savedWith 0).all stopped.settled = true ∧ stopped.copiesDone 0 = true ∧
      (stopped.savedWith 0).any ((stopped.savedWith 0).foldl (fun s h => s.stopProducer h) stopped).producerLoads = false) ∧
    (∀ s ∈ [drained, faulted, halted], (s.teamOf 0).drained = true ∧ s.savedWith 0 = [0] ∧ (s.teamOf 0).half = 0 ∧
      (s.teamOf 0).partner = none ∧ s.imagesDue 1 false < (s.freeImages 1).length ∧ s.locket.stopping = false ∧
      (s.teamOf 0).landings = [] ∧ s.copiesDone 0 = true) ∧
    (drained.teamOf 0).ending = none ∧ (faulted.teamOf 0).ending = some (2, 0x1D3) ∧ (halted.teamOf 0).ending = some (1, 0) := by decide

/-- The image of the drained team, as pre-empted and as halted. -/
def imageRecs (status : Nat) : List ImageRec := drained.image [0] status 0

/-- The package with an image in save slot 0, the team gone, and the image waiting or not. -/
def saved (rs : List ImageRec) (waiting : Bool) : State :=
  let s := rich.updCtx 1 (fun c => { c with images := [(0, rs)] })
  { s with teams := [], waiting := if waiting then [(1, 0)] else [] }

/-- R396's example: a vector-register record of 4,096 bytes. -/
theorem test_recordHeader :
    ((⟨0x21, 1, false, 4096, .other⟩ : ImageRec).header = 0x0000100000010021) ∧
    bytesOfNat 8 (⟨0x21, 1, false, 4096, .other⟩ : ImageRec).header.toNat = [0x21, 0, 1, 0, 0, 0x10, 0, 0] := by decide

/-- The lengths of records are free values (log 12), within what a slot holds: a reader accepts them as they are. -/
theorem recordLen_le {n : Nat} (h : 2 ≤ n) (h' : n ≤ 262144) (type : Nat) : 8 + recordLen n type ≤ 8 * (524288 / n) := by
  have h2 : 2 ≤ 524288 / n := (Nat.le_div_iff_mul_le (by omega)).mpr (by omega)
  unfold recordLen
  split
  · omega
  · have : Config.recordLen type n % (524288 / n - 1) < 524288 / n - 1 := Nat.mod_lt _ (by omega)
    omega

theorem lens_le {b : Nat} (rs : List ImageRec) (h : ∀ r ∈ rs, 8 + r.len ≤ b) (k : Nat) :
    rs.foldl (fun n r => n + 8 + r.len) k ≤ k + rs.length * b := by
  induction rs generalizing k with
  | nil => simp
  | cons r rs ih =>
    have h1 := h r (by simp)
    have h2 := ih (fun x hx => h x (by simp [hx])) (k + 8 + r.len)
    simp only [List.foldl_cons, List.length_cons, Nat.succ_mul]
    omega

theorem imageOk_of {rs : List ImageRec} {n len : Nat} {skip : Bool}
    (h : ((match rs.head? with | some r => r.isHeader | none => false) && rs.all (·.known)) = true)
    (hl : rs.map (·.len) = rs.map (fun r => recordLen rs.length r.type)) (h2 : 2 ≤ rs.length) (h3 : rs.length ≤ 262144)
    (hn : rs.getLast? = some ⟨0xFFFF, 1, skip, len, .finish n⟩) (hc : n + 1 = rs.length) : imageOk rs = true := by
  simp only [Bool.and_eq_true] at h
  have hk : rs.all (fun r => r.known || r.skip) = true := by
    rw [List.all_eq_true] at h ⊢; intro r hr; simp [h.2 r hr]
  have hr : ∀ r ∈ rs, r.len = recordLen rs.length r.type := fun r hr => List.map_inj_left.mp hl r hr
  have he : rs.all (fun r => !r.known || r.len == recordLen rs.length r.type) = true := by
    rw [List.all_eq_true]; intro r h; simp [hr r h]
  have hs : rs.foldl (fun n r => n + 8 + r.len) 0 ≤ 4194304 := by
    have h4 := lens_le rs (b := 8 * (524288 / rs.length)) (fun r h => by rw [hr r h]; exact recordLen_le h2 h3 _) 0
    have h5 := Nat.mul_div_le 524288 rs.length
    have h6 : rs.length * (8 * (524288 / rs.length)) = 8 * (rs.length * (524288 / rs.length)) := by ring
    omega
  unfold imageOk
  rw [hk, he, hn]
  simp only [hs, hc, decide_true, Bool.and_true]
  exact h.1

theorem witness_ImagesResumeAndRestore :
    (Map.find ((saved (imageRecs 0) false).ctxOf 1).images 0 = some (imageRecs 0) ∧ field (0 : DWord) 11 0 = 0 ∧
      0 < field (((saved (imageRecs 0) false).ctxOf 1).sreg 0x448) 11 0 ∧ (imageHead (imageRecs 0)).isSome = true ∧
      (1, 0) ∉ (saved (imageRecs 0) false).waiting ∧
      (saved (imageRecs 0) false).owner ≠ masterNumber (saved (imageRecs 0) false).writer ∧
      ({ saved (imageRecs 0) false with owner := 0 } : State).owner = masterNumber (saved (imageRecs 0) false).writer) ∧
    imageOk (imageRecs 1) = true ∧
    ((1, 0) ∈ (saved (imageRecs 0).tail true).waiting ∧ ((saved (imageRecs 0).tail true).ctxOf 1).stopped = false ∧
      imageOk (imageRecs 0).tail = false) ∧
    (⟨0x55, 1, false, 0, .other⟩ : ImageRec).known = false :=
  ⟨⟨rfl, by decide⟩, imageOk_of (by decide +kernel) rfl (by decide) (by decide) rfl rfl, by decide +kernel, by decide⟩

theorem sooner_irrefl (s : State) (w : Waiter) : s.sooner w w = false := by simp [State.sooner]

/-- What waits alone is not outranked. -/
theorem outranked_alone {s : State} {w : Waiter} (h : s.waiters = [w]) : s.outranked w = false := by
  simp [State.outranked, h, sooner_irrefl]

theorem witness_ImagesResumeAndRestore_placed :
    (match Saved.of 0 (imageRecs 1) with
      | some x => (match x.halves with
        | [(tm, gs)] => x.status != 0 && tm.half == 0 && !tm.pair && tm.partner.isNone && tm.rank == 0 && tm.ctx == 1 &&
            !Map.has (saved (imageRecs 1) true).teams x.id && x.producers.all (·.isNone) && (saved (imageRecs 1) true).sessions.isEmpty &&
            (saved (imageRecs 1) true).teams.all (fun p => !p.2.sameCluster tm) &&
            (saved (imageRecs 1) true).seatOk 9 tm gs false && (saved (imageRecs 1) true).routed 1 tm.entry 9
        | _ => false)
      | none => false) = true ∧ (saved (imageRecs 1) true).outranked (.image 1 0) = false ∧
    ((1, 0) ∉ (saved (imageRecs 1) true).received ∧ (1, 0) ∈ ({ saved (imageRecs 1) true with received := [(1, 0)] } : State).received) :=
  ⟨by decide +kernel, outranked_alone (by decide +kernel), by decide +kernel⟩

/-- The 256 bytes of a launch record (R105) of one team of 32 lanes, entered at 0x10001, with its sequence word, in list slot 0. -/
def recordBytes (entry seq : Nat) : List Byte :=
  bytesOfNat 8 entry ++ bytesOfNat 8 77 ++ bytesOfNat 4 1 ++ bytesOfNat 4 (1 * 2 ^ 15 + 1 * 2 ^ 12 + 32) ++
    bytesOfNat 4 (1 * 2 ^ 21 + 4 * 2 ^ 13 + 32 * 2 ^ 6 + 16) ++ bytesOfNat 4 (4 * 2 ^ 13 + 2 * 2 ^ 7 + 2) ++ bytesOfNat 216 0 ++
    bytesOfNat 8 seq

/-- A launch list with one record (R104): head 0, tail 1, sixteen slots. -/
def listed (entry seq : Nat) : State :=
  let m := Map.setBytes rich.mem 0x30000 (bytesOfNat 8 0 ++ bytesOfNat 8 seq ++ bytesOfNat 8 4)
  { rich with mem := Map.setBytes m 0x30040 (recordBytes entry seq) }

def headOf (s : State) : Option ListHead :=
  match s.listHead 1 false 0 with
  | .ok (h, _) => h
  | .error _ => none

/-- An empty list of sixteen slots, and a record at 0x31000 that `spawn` is to copy. -/
def spawning : State :=
  { rich.setG (fun g => { g with s := [(1, 0x31000)] }) with
    mem := Map.setBytes (Map.setBytes rich.mem 0x30000 (bytesOfNat 16 0 ++ bytesOfNat 8 4)) 0x31000 (recordBytes 0x10001 0) }

/-- The same where the list is full. -/
def spawnFull : State := { spawning with mem := Map.setBytes spawning.mem 0x30008 (bytesOfNat 8 16) }

def spawnF : FmtE := fE 0 4 1 0 0

theorem witness_RecordsAreSpawnedAndTaken :
    (issuesB spawning (.spawn spawnF) { reads := [.s 1], writes := [.s 4] } = true ∧ spawning.actsAny = true ∧
      field (spawning.cg.ureg 1) 5 0 = 0 ∧ field (spawning.cc.sreg 0x400) 56 6 ≠ 0 ∧ field (base.cc.sreg 0x400) 56 6 = 0 ∧
      headOf spawning = some ⟨0x30000, 0, 0, 4⟩ ∧ 0x31000 + 248 ≤ 2 ^ 57 ∧ spawning.cf.sent = []) ∧
    okB (spawning.recordReqs 0x31000) (fun ls =>
      ls.all (fun l => !l.place.remote) &&
        okB ((spawning.readReqs ls).2.agentWrites 1 false
            (lineWrites 0x30040 (bytesOfNat 248 (laneNat 248 (spawning.readReqs ls).1 0) ++ bytesOfNat 8 1)))
          (fun s => okB (s.agentWrite 1 false 0x30008 (bytesOfNat 8 1)) (fun _ => true))) = true ∧
    (headOf spawnFull = some ⟨0x30000, 0, 16, 4⟩ ∧ issuesB spawnFull (.spawn spawnF) { reads := [.s 1], writes := [.s 4] } = true) ∧
    (let s := spawning.setG (fun g => { g with s := [(1, 0x31008)] })
     issuesB s (.spawn spawnF) { reads := [.s 1], writes := [.s 4] } = true ∧ s.actsAny = true ∧ field (s.cg.ureg 1) 5 0 ≠ 0) ∧
    (let s := spawning.setG (fun g => { g with s := [(1, 0x01FFFFFFFFFFFFC0)] })
     issuesB s (.spawn spawnF) { reads := [.s 1], writes := [.s 4] } = true ∧ s.actsAny = true ∧ field (s.cg.ureg 1) 5 0 = 0 ∧
      2 ^ 57 < (s.cg.ureg 1).toNat + 248) ∧
    (issuesB none3 (.spawn spawnF) { reads := [.s 1], writes := [.s 4] } = true ∧ none3.actsAny = false) ∧
    (Map.has (listed 0x10001 1).ctxs 1 = true ∧ ((listed 0x10001 1).ctxOf 1).stopped = false ∧
      headOf (listed 0x10001 1) = some ⟨0x30000, 0, 1, 4⟩) ∧
    okB ((listed 0x10001 1).agentWrite 1 false 0x30000 (bytesOfNat 8 1)) (fun _ => true) = true ∧
    (match (listed 0x10001 1).headRecord 1 ⟨0x30000, 0, 1, 4⟩ with | .launch r _ => r.teams == 1 && r.lanes == 32 | _ => false) = true ∧
    (match (listed 7 1).headRecord 1 ⟨0x30000, 0, 1, 4⟩ with | .refuse _ => true | _ => false) = true := by decide +kernel

theorem test_spawn :
    after (execSpawn spawnF spawning) (fun t =>
      uniIs 4 0 t && t.byteAt 0x30008 == 1 && t.byteAt 0x30040 == 1 && t.byteAt 0x30138 == 1 && t.byteAt 0x30042 == 1) = true := by
  decide +kernel
theorem test_take :
    after (execLaunchRecordTake 1 0 (listed 0x10001 1)) (fun t => t.launches.length == 1 && t.byteAt 0x30000 == 1) = true := by
  decide +kernel
theorem test_take_refuses :
    after (execLaunchRecordTake 1 0 (listed 7 1)) (fun t => t.launches.isEmpty && (t.ctxOf 1).sreg 0x404 == 0 && t.byteAt 0x30000 == 1) = true := by
  decide +kernel

def launched : State := next (execLaunchRecordTake 1 0 (listed 0x10001 1))

/-- The team's last lane has left. -/
def ended : State := base.setG (fun g => { g with exited := 0xFFFFFFFF, frags := [] })

def finished : State :=
  { base with launches := [(1, ⟨1, 0, 0, { LaunchRec.of (recordBytes 0x10001 1) with teams := 1 }, 1, 1⟩)] }
def counting : State :=
  { base with launches := [(1, ⟨1, 0, 0, { LaunchRec.of (recordBytes 0x10001 1) with teams := 1, done := 0x5000 }, 1, 1⟩)] }

theorem witness_TeamsArePlacedAndRetire :
    (match Map.find launched.launches 1 with
      | some l => launched.placeable l 9 == some [⟨0, 0, 9⟩] && !launched.outranked (.launch 1) && !l.record.pair
      | none => false) = true ∧
    (Map.has ended.teams 0 = true ∧ (ended.teamOf 0).status = .resident ∧ (ended.teamOf 0).groups ≠ [] ∧
      (ended.halves 0).all ended.teamDone = true) ∧
    ((Map.find finished.launches 1).map (fun l => l.retired == l.record.teams && l.record.done == 0)) = some true ∧
    finished.reqs.all (fun r => !(r.2.launch == 1 && r.2.reply.isNone && !r.2.fetch)) = true ∧
    ((Map.find counting.launches 1).map (fun l => l.retired == l.record.teams && l.record.done != 0)) = some true ∧
    okB (({ counting with launches := Map.erase counting.launches 1 } : State).agentRead 1 false 0x5000 8) (fun p =>
      okB (p.2.agentWrites 1 false (lineWrites 0x5000 (bytesOfNat 8 (natOfBytes p.1 + 1)))) (fun _ => true)) = true ∧
    (base.owner ≠ masterNumber base.writer ∧ (let s : State := { rich with owner := 1, writer := .board }
      s.owner = masterNumber s.writer ∧ s.retired.getLsbD 0 = false ∧ 0 ∉ s.retiring ∧
        (s.teams.filter (fun t => t.2.core == 0 && t.2.holds)).map (·.1) = [0] ∧ 0 ∈ s.clusterOf 0 ∧ (s.teamOf 0).ending = none ∧
        (s.teamOf 0).status = .resident ∧ (s.teamOf 0).request = none ∧ s.canSave 0 = true) ∧ base.canSave 0 = false) ∧
    (5 ∈ ({ base with retiring := [5] } : State).retiring ∧ base.teams.all (fun t => t.2.core != 5) = true) := by decide +kernel

/-- A team blocked on its core, and a launch whose team would fit there alone. -/
def swapping : State :=
  let s := launched.updTeam 0 (fun t => { t with vblocks := 32, groupCount := 48, spSize := 327680 })
  { s.setF (fun f => { f with park := some .opener }) with now := 200000 }

theorem witness_TeamsArePlacedAndRetire_swap :
    swapping.swapAfter = some 65536 ∧ Map.get 0 swapping.lastIssue 0 + 65536 ≤ swapping.now ∧
      swapping.swapChoice 0 swapping.canSave = some 0 ∧ 0 ∈ swapping.clusterOf 0 ∧ (swapping.teamOf 0).request = none ∧
      (swapping.teamOf 0).ending = none ∧ (swapping.teamOf 0).status = .resident ∧
      swapping.swapFor 0 = some (.launch 1) := by decide +kernel

/-- A launch whose context's driver has taken its private-memory slots away. -/
def slotless : State := launched.updCtx 1 (fun c => { c with sregs := Map.set 0 c.sregs 0x40C 0 })

theorem witness_TeamsArePlacedAndRetire_refused :
    (match Map.find slotless.launches 1 with
      | some l => (slotless.placeable l 9).isNone && l.ranks != 0 && decide ((slotless.ctxOf l.ctx).privateCount < l.privatesDue)
      | none => false) = true := by decide +kernel

/-- R84, R118: the team, its argument and its lanes; R80: what it holds is given up; R109: the done counter. -/
theorem test_place :
    after (execTeamPlace 1 9 launched) (fun t =>
      (t.teamOf 1).core == 9 && (t.groupAt 1 0).ureg 0 == 77 && (t.groupAt 1 0).owned == 0xFFFFFFFF &&
        ((t.groupAt 1 0).fragOf 0).pc == 0x10001 && (t.groupAt 1 0).sys == false) = true := by decide +kernel
theorem test_retire : after (execTeamRetire 0 ended) (fun t => (t.teamOf 0).groups.isEmpty) = true := by decide +kernel
theorem test_done : after (execLaunchComplete 1 counting) (fun t => t.byteAt 0x5000 == 1 && t.launches.isEmpty) = true := by
  decide +kernel

/-- Context 1 owns the worklist unit of die 0, whose list 3 holds an item. -/
def units (items : List Word) (quiet : List Nat) : State :=
  { (regs 9 3 3).setPreg 0x802 1 with lists := if items = [] then [] else [(3, items)], quiet := quiet }

theorem witness_Worklists :
    (field ((units [5] []).preg 0x802) 15 0 = 1 ∧ (units [5] []).ct.ctx = 1 ∧ (units [5] []).actsAny = true) ∧
    (∀ p ∈ [(Instr.wlapp (fE 0 1 1 2 0), ({ reads := [.v 1, .v 2], writes := [.p 1] } : Uses)),
        (.wlpop (fE 0 4 1 2 0), { reads := [.s 2], writes := [.v 4, .p 1] }), (.wlquietReg, {}), (.wlquietUnreg, {}),
        (.wlquiet (fE 0 4 1 0 0), { reads := [.s 1], writes := [.s 4] })], issuesB (units [5] []) p.1 p.2 = true) ∧
    (∀ l ∈ (units [5] []).lanes, ((units [5] []).cg.vreg 2 l).toNat < 64) ∧ field ((units [5] []).cg.ureg 2) 63 6 = 0 ∧
    (((units [5] []).setG (fun g => { g with worker := some 0 })).cg.worker = some 0) ∧
    ((units [5] []).cg.ureg 1 &&& (units [5] []).fullLists 0 ≠ 0 ∧ (units [] []).cg.ureg 1 &&& (units [] []).fullLists 0 = 0 ∧
      0 ∈ (units [] [0]).quiet ∧ 0 ∉ (units [] []).quiet) ∧
    ((units [] []).setG (fun g => { g with worker := some 0 })).quiescent 0 = false ∧
    (((units [] []).setG (fun g => { g with worker := some 0 })).setF
      (fun f => { f with park := some (.quiet 0 9 4) })).quiescent 0 = true := by decide

/-- R112: both lanes append to list 3; the oldest item goes to the lowest lane. -/
theorem test_wlapp :
    after (execWlapp (fE 0 1 1 2 0) (units [5] [])) (fun t => t.lists == [(3, [5, 9, 9])] && predIs 1 0x21 t) = true := by decide
theorem test_wlpop :
    after (execWlpop (fE 0 4 1 2 0) (units [5] [])) (fun t => t.lists == [] && laneIs 4 0 5 t && laneIs 4 5 0 t && predIs 1 1 t) = true := by
  decide
theorem test_wlquiet : after (execWlquiet (fE 0 4 1 0 0) (units [5] [])) (uniIs 4 8) = true := by decide


/-! ## Floating point, conversion, packed products (R24 to R37, R146 to R166) -/

def one : Word := 0x3F800000

theorem witness_RoundingChoosesNeighbour :
    (∀ m ∈ [Rm.rne, .rtz, .rdn, .rup], (FFmt.f32.round m true 0x1000001 0).2 = false ∧ (FFmt.e2m1.round m false 5 (-2)).2 = false ∧
      (FFmt.f32.round m false 1 128).2 = true) ∧
      FFmt.f32.decode 0x3F800000 = .fin false 0x800000 (-23) ∧ FFmt.e2m1 ∈ formats :=
  ⟨by decide, by decide, by simp [formats]⟩

theorem witness_FloatResults :
    (∀ p ∈ [(Instr.fadd (f3 .f32), usesAB1 (f3 .f32)), (.fsub (f3 .f32), usesAB1 (f3 .f32)), (.fmul (f3 .f32), usesAB1 (f3 .f32)),
        (.ffma (f4 .f32), usesABC1 (f4 .f32)), (.ffms (f4 .f32), usesABC1 (f4 .f32)), (.fnma (f4 .f32), usesABC1 (f4 .f32)),
        (.fmin (f3 .f32), usesAB1 (f3 .f32)), (.fmax (f3 .f32), usesAB1 (f3 .f32)), (.fdiv (f3 .f32), usesAB1 (f3 .f32)),
        (.fsqrt (f2 .f32), usesA1 (f2 .f32)), (.frcp (f2 .f32), usesA1 (f2 .f32)), (.frsq (f2 .f32), usesA1 (f2 .f32)),
        (.fex2 (f2 .f32), usesA1 (f2 .f32)), (.flg2 (f2 .f32), usesA1 (f2 .f32)), (.fsin (f2 .f32), usesA1 (f2 .f32)),
        (.fcos (f2 .f32), usesA1 (f2 .f32)), (.ftanh (f2 .f32), usesA1 (f2 .f32)), (.frnd (f2 .f32), usesA1 (f2 .f32)),
        (.ffrac (f2 .f32), usesA1 (f2 .f32)), (.fclass (f2 .bf16), usesA1 (f2 .bf16)), (.fscale (f3 .f32), usesAB1 (f3 .f32)),
        (.hadd2 (f3 .f16), usesAB1 (f3 .f16)), (.hmul2 (f3 .bf16), usesAB1 (f3 .bf16)), (.hfma2 (f4 .f16), usesABC1 (f4 .f16)),
        (.hmin2 (f3 .f16), usesAB1 (f3 .f16)), (.hmax2 (f3 .f16), usesAB1 (f3 .f16)),
        (.fcmp .un (fA .f32 2 1 2 7), { reads := .v 1 :: useB (fA .f32 2 1 2 7) false ++ predReg 7, writes := predReg 2 }),
        (.fcmp .lt { fA .f16 2 1 2 7 with bsel := 1 },
          { reads := .v 1 :: useB { fA .f16 2 1 2 7 with bsel := 1 } false ++ predReg 7, writes := predReg 2 })],
      (regs one 0x10000 2).Issues p.1 p.2) ∧
    (regs one 0x10000 2).cg.src32 { fA .f16 2 1 2 7 with bsel := 1 } 0 / 65536 ≠ 0 ∧
    (FFmt.f32.decode 0x7FC00000).isNan = true ∧ FFmt.f32.decode 0x7F800000 = .inf false ∧ FFmt.f32.decode 0xFF800000 = .inf true ∧
    (FFmt.f32.decode 0).isZero = true ∧ (FFmt.f32.decode 0x3F800000).isNan = false ∧ FFmt.f32.decode 0 = .fin false 0 (-149) :=
  ⟨issues_all (by decide), by decide⟩

/-- 1 + 2; the greatest number twice, without sat and with it; a NaN and a number; 1 / 0. -/
theorem test_fadd : after (execFadd (f3 .f32) (regs one 0x40000000 0)) (laneIs 4 5 0x40400000) = true := by decide
theorem test_fadd_saturates :
    after (execFadd { f3 .f32 with sat := true } (regs 0x7F7FFFFF 0x7F7FFFFF 0)) (laneIs 4 0 0x7F7FFFFF) = true := by decide
theorem test_ffma : after (execFfma (f4 .f32) (regs 0x40000000 0x40400000 one)) (laneIs 4 0 0x40E00000) = true := by decide
theorem test_fmin_nan : after (execFmin (f3 .f32) (regs 0x7FC00000 one 0)) (laneIs 4 0 one) = true := by decide
theorem test_fdiv_zero : after (execFdiv (f3 .f32) (regs one 0x80000000 0)) (laneIs 4 0 0xFF800000) = true := by decide
theorem test_fsqrt : after (execFsqrt (f2 .f32) (regs 0x40800000 0 0)) (laneIs 4 0 0x40000000) = true := by decide
theorem test_hadd2 : after (execHadd2 (f3 .f16) (regs 0x3C004000 0x3C003C00 0)) (laneIs 4 0 0x40004200) = true := by decide
theorem test_fcmp_un : after (execFcmp .un (fA .f32 2 1 2 7) (regs 0x7FC00000 one 0)) (predIs 2 0x21) = true := by decide

/-- Sources of conversions: f32 to e4m3 with policy 2. -/
def toE4m3 : FmtA := { fA .e4m3 4 1 0 0 with imm := 0x28 }

/-- Policy 2 of the team faults on every class (R30). -/
def strict : State := (regs 0x7F800000 0 0).updTeam 0 (fun t => { t with cvpol := [(2, 0xFF)] })

theorem no_faults {t : Ty} {rm : Rm} {pol : DWord} {x : FVal} {c : ConvClass}
    (h : ∀ c ∈ [ConvClass.nan, .inf, .ovf, .unf], ConvClass.choice pol c ≠ 3) : ¬ Faults t rm pol x c := by
  rintro ⟨y, -, e⟩
  exact h c (by cases c <;> simp) e

theorem faults_inf {t : Ty} {rm : Rm} {pol : DWord} {n : Bool} {c : ConvClass} (h : Faults t rm pol (.inf n) c) : c = .inf := by
  obtain ⟨y, e, -⟩ := h
  simpa [Classed] using e

theorem witness_ConversionsAndDotProducts :
    (∀ p ∈ [(Instr.cvt toE4m3, ({ reads := regsOf .f32 1, writes := regsOf .e4m3 4 } : Uses)),
        (.cvtpk (fA .bf16 4 2 0 0), { reads := vregs 2 2, writes := [.v 4] }),
        (.cvtun (fA .bf16 4 1 0 0), { reads := [.v 1], writes := vregs 4 2 }),
        (.dp2Bf16 (f4 .f32), usesABC1 (f4 .f32)), (.dp2F16 (f4 .f32), usesABC1 (f4 .f32)), (.dp4E4m3 (f4 .f32), usesABC1 (f4 .f32)),
        (.dp4E5m2 (f4 .f32), usesABC1 (f4 .f32)), (.dp8E2m1 (f4 .f32), usesABC1 (f4 .f32)), (.dp4I8 (f4 .i32), usesABC1 (f4 .i32)),
        (.dp4N8 (f4 .n32), usesABC1 (f4 .n32)), (.dp4Hs8 (f4 .i32), usesABC1 (f4 .i32)), (.dp8Hs4 (f4 .i32), usesABC1 (f4 .i32)),
        (.mxs (f3 .i32), usesAB1 (f3 .i32))], (regs one one one).Issues p.1 p.2) ∧
    toE4m3.cvtSrc = .f32 ∧
    (∀ x c, ¬ Faults .e4m3 .rne (Map.get 0 (regs one one one).ct.cvpol 2) x c) ∧
    ((∃ l ∈ strict.lanes, Faults .e4m3 .rne (Map.get 0 strict.ct.cvpol 2) (Ty.value .f32 (strict.cg.regI .f32 1 l)) .inf) ∧
      ∀ l ∈ strict.lanes, ∀ c, Faults .e4m3 .rne (Map.get 0 strict.ct.cvpol 2) (Ty.value .f32 (strict.cg.regI .f32 1 l)) c →
        (ConvClass.cause .inf).toNat ≤ (ConvClass.cause c).toNat) := by
  have inf : ∀ l ∈ strict.lanes, Ty.value .f32 (strict.cg.regI .f32 1 l) = .inf false := by decide
  refine ⟨issues_all (by decide), by decide, fun x c => no_faults (by decide), ⟨0, by decide, 0, ?_, by decide⟩, fun l hl c h => ?_⟩
  · rw [inf 0 (by decide)]; rfl
  · rw [inf l hl] at h
    rw [faults_inf h]

/-- 1.0 in e4m3; the sum of four products of bytes and an accumulator; two bf16 products. -/
theorem test_cvt : after (execCvt toE4m3 (regs one 0 0)) (laneIs 4 5 0x38) = true := by decide
theorem test_dp4I8 : after (execDp4I8 (f4 .i32) (regs 0x01FF0203 0x01010101 10)) (laneIs 4 0 15) = true := by decide
theorem test_dp2Bf16 : after (execDp2Bf16 (f4 .f32) (regs 0x3F804000 0x40003F80 one)) (laneIs 4 0 0x40A00000) = true := by decide
theorem test_dp8Hs4 : after (execDp8Hs4 (f4 .i32) (regs 0 0 0)) (laneIs 4 0 8) = true := by decide

/-! ## Tiles (R168 to R191) -/

/-- A shape register (R171). -/
def shape (ty : Ty) (rows cols unit : Nat) : DWord :=
  BitVec.ofNat 64 (1 + 16 * (cols - 1) + 4096 * (rows - 1) + 2 ^ 20 * (Ty.code ty).toNat + 2 ^ 24 * unit)

/-- Tiles of two by two: m0, m4, m5 of f32 (of m4, 1 and 2, and 0 and 4), m1 and m2 of bf16 (1 2 / 1 1 and 1 1 / 2 1), m3 and m6 of i8,
m7 of i32. -/
def tiled : State :=
  let bf := bytesOfNat 8 0x3F803F8040003F80
  let bf' := bytesOfNat 8 0x3F8040003F803F80
  let s := (regs 0 1 0).updTeam 0 (fun t =>
    { t with
      mc := [(0, shape .f32 2 2 0), (1, shape .bf16 2 2 1), (2, shape .bf16 2 2 2), (3, shape .i8 2 2 3), (4, shape .f32 2 2 4),
        (5, shape .f32 2 2 5), (6, shape .i8 2 2 6), (7, shape .i32 2 2 7), (8, shape .e4m3 2 32 8), (9, shape .e4m3 32 2 9)]
      tiles := Map.setBytes (Map.setBytes (Map.setBytes (Map.setBytes [] 4096 bf) 8192 bf') 16384
        (bytesOfNat 16 0x40000000000000003F800000)) 12288 (bytesOfNat 4 0x02FF0201) })
  { s with }

def mmaF : FmtT := { fT .bf16 0 1 2 0 with tmod := 1 }
def mma8 : FmtT := { fT .i8 7 3 3 0 with tmod := 1 }
def mmasF : FmtT := { fT .e4m3 0 8 9 0 with tmod := 1 }

def freeB (s : State) (use : TileUse) : Bool :=
  !s.tileParked use && !s.ct.tileHeld s.tick use && use.reads.all (fun u => !s.ct.badUnits.contains u)

theorem free_of {s : State} {use : TileUse} (h : freeB s use = true) : UnitsFree s use := by
  simp only [freeB, Bool.and_eq_true, Bool.not_eq_true', List.all_eq_true, List.contains_eq_mem, decide_eq_false_iff_not] at h
  exact ⟨h.1.1, h.1.2, h.2⟩

/-- Tiles m10 and m11 of e2m1; m4 of infinities, with a policy that faults on them. -/
def tiledE : State :=
  tiled.updTeam 0 (fun t => { t with mc := t.mc ++ [(10, shape .e2m1 2 32 10), (11, shape .e2m1 32 2 11)] })
def tiledInf : State :=
  tiled.updTeam 0 (fun t =>
    { t with cvpol := [(0, 0xFF)], tiles := Map.setBytes t.tiles 16384 (bytesOfNat 16 0x7F8000007F8000007F8000007F800000) })
def mmaE : FmtT := { fT .e2m1 0 10 11 0 with sa := 1, sb := 2 }

theorem witness_TileArithmetic :
    (∀ p ∈ [(Instr.mzero (fT .n8 0 0 0 0), ({} : Uses)), (.mzero (fT .n8 15 0 0 0), {}), (.mtr (fT .n8 0 4 0 0), {}),
        (.madd { fT .n8 0 4 5 0 with tmod := 4 }, {}), (.mcvt (fT .n8 1 4 0 0), {}), (.mma mmaF, { reads := tiled.mmaScales mmaF }),
        (.mma mma8, { reads := tiled.mmaScales mma8 }), (.mmas mmasF, { reads := tiled.mmasScales mmasF }),
        (.mrel { fT .n8 0 0 0 0 with imm := 3 }, {})], issuesB tiled p.1 p.2 = true) ∧
    (tiled.actsAny = true ∧ (tiled.ct.tile 15).en = false ∧ UnitsFree tiled ⟨[], (tiled.ct.tile 0).units⟩ ∧
      UnitsFree tiled ⟨(tiled.ct.tile 4).units, (tiled.ct.tile 0).units⟩ ∧
      UnitsFree tiled ⟨(tiled.ct.tile 4).units ++ (tiled.ct.tile 5).units, (tiled.ct.tile 0).units⟩ ∧
      UnitsFree tiled ⟨(tiled.ct.tile 4).units, (tiled.ct.tile 1).units⟩ ∧ UnitsFree tiledInf ⟨(tiled.ct.tile 4).units, (tiled.ct.tile 1).units⟩ ∧
      UnitsFree tiled ⟨(tiled.ct.tile 1).units ++ (tiled.ct.tile 2).units ++ (tiled.ct.tile 0).units, (tiled.ct.tile 0).units⟩ ∧
      UnitsFree tiled ⟨(tiled.ct.tile 3).units ++ (tiled.ct.tile 3).units ++ (tiled.ct.tile 7).units, (tiled.ct.tile 7).units⟩ ∧
      UnitsFree tiled ⟨(tiled.ct.tile 8).units ++ (tiled.ct.tile 9).units ++ (tiled.ct.tile 0).units, (tiled.ct.tile 0).units⟩ ∧
      UnitsFree tiledE ⟨(tiledE.ct.tile 10).units ++ (tiledE.ct.tile 11).units ++ (tiledE.ct.tile 0).units, (tiledE.ct.tile 0).units⟩) ∧
    (∀ p ∈ [(Instr.mzero (fT .n8 15 0 0 0), ({} : Uses)), (.mtr (fT .n8 15 4 0 0), {}), (.mcvt (fT .n8 15 4 0 0), {}),
        (.madd (fT .n8 15 4 5 0), {}), (.mma { mmaF with md := 15 }, { reads := tiled.mmaScales { mmaF with md := 15 } }),
        (.mmas { mmasF with md := 15 }, { reads := tiled.mmasScales { mmasF with md := 15 } })], issuesB tiled p.1 p.2 = true) ∧
    (let a := tiled.ct.tile 4
     let d := tiled.ct.tile 0
     d.en = true ∧ a.en = true ∧ a.ty = d.ty ∧ a.rows = d.cols ∧ a.cols = d.rows ∧ d.overlaps a = false ∧ d.ty = .f32) ∧
    ((tiled.ct.tile 4).ty ≠ (tiled.ct.tile 1).ty ∧ (tiled.ct.tile 1).overlaps (tiled.ct.tile 4) = false ∧
      (∀ x c, ¬ Faults .bf16 .rne (Map.get 0 tiled.ct.cvpol 0) x c) ∧ issuesB tiledInf (.mcvt (fT .n8 1 4 0 0)) {} = true ∧
      (let x := fun k => Ty.value .f32 (tiledInf.ct.tileElem (tiledInf.ct.tile 4) (k / 2) (k % 2))
       Faults .bf16 .rne (Map.get 0 tiledInf.ct.cvpol 0) (x 0) .inf ∧
         ∀ k < 4, ∀ c, Faults .bf16 .rne (Map.get 0 tiledInf.ct.cvpol 0) (x k) c →
           (ConvClass.cause .inf).toNat ≤ (ConvClass.cause c).toNat)) ∧
    (Matched mmaF .f32 (tiled.ct.tile 1) (tiled.ct.tile 2) (tiled.ct.tile 0) (tiled.ct.tile 0) ∧
      Matched mma8 .i32 (tiled.ct.tile 3) (tiled.ct.tile 3) (tiled.ct.tile 7) (tiled.ct.tile 7) ∧
      Matched mmasF .f32 (tiled.ct.tile 8) (tiled.ct.tile 9) (tiled.ct.tile 0) (tiled.ct.tile 0) ∧
      Matched mmaE .f32 (tiledE.ct.tile 10) (tiledE.ct.tile 11) (tiledE.ct.tile 0) (tiledE.ct.tile 0)) ∧
    (issuesB tiledE (.mma mmaE) { reads := tiledE.mmaScales mmaE } = true ∧ colsA mmaE (tiledE.ct.tile 10) % 32 = 0 ∧
      rowsA mmaE (tiledE.ct.tile 10) = 2 ∧ colsB mmaE (tiledE.ct.tile 11) = 2 ∧ rowsA mmasF (tiled.ct.tile 8) = 2 ∧
      ∀ i < 2, tiled.cg.owned.getLsbD (i % tiled.ct.width) = true ∧ tiledE.cg.owned.getLsbD (i % tiledE.ct.width) = true) := by
  have inf : ∀ k < 4, Ty.value .f32 (tiledInf.ct.tileElem (tiledInf.ct.tile 4) (k / 2) (k % 2)) = .inf false := by decide
  refine ⟨by decide, ⟨by decide, by decide, free_of (by decide), free_of (by decide), free_of (by decide), free_of (by decide),
    free_of (by decide), free_of (by decide), free_of (by decide), free_of (by decide), free_of (by decide)⟩, by decide, by decide,
    ⟨by decide, by decide, fun x c => no_faults (by decide), by decide, ⟨0, ?_, by decide⟩, fun k hk c h => ?_⟩,
    ⟨⟨by decide, by decide, by decide, by decide, by decide⟩, ⟨by decide, by decide, by decide, by decide, by decide⟩,
      ⟨by decide, by decide, by decide, by decide, by decide⟩, ⟨by decide, by decide, by decide, by decide, by decide⟩⟩, by decide⟩
  · show Classed _ _ (Ty.value .f32 (tiledInf.ct.tileElem (tiledInf.ct.tile 4) (0 / 2) (0 % 2))) _ _
    rw [inf 0 (by decide)]
    rfl
  · simp only [inf k hk] at h
    rw [faults_inf h]

def elemIs (n : BitVec 4) (i j : Nat) (x : Nat) (t : State) : Bool := t.ct.tileElem (tiled.ct.tile n) i j == x

/-- The product of m1 and m2 is 5 3 / 3 2; of m3 (1 2 / -1 2) with itself, -1 6 / -3 2. -/
theorem test_mma :
    after (execMma mmaF tiled) (fun t =>
      elemIs 0 0 0 0x40A00000 t && elemIs 0 0 1 0x40400000 t && elemIs 0 1 0 0x40400000 t && elemIs 0 1 1 0x40000000 t) = true := by
  decide
theorem test_mma_i8 :
    after (execMma mma8 tiled) (fun t =>
      elemIs 7 0 0 0xFFFFFFFF t && elemIs 7 0 1 6 t && elemIs 7 1 0 0xFFFFFFFD t && elemIs 7 1 1 2 t) = true := by decide
theorem test_mtr : after (execMtr (fT .n8 0 4 0 0) tiled) (fun t => elemIs 0 0 0 one.toNat t && elemIs 0 0 1 0x40000000 t) = true := by
  decide
theorem test_mcvt : after (execMcvt (fT .n8 1 4 0 0) tiled) (fun t => elemIs 1 0 0 0x3F80 t && elemIs 1 1 0 0x4000 t) = true := by decide
theorem test_mzero_disabled :
    after (execMzero (fT .n8 15 0 0 0) { tiled with ctxs := hand.ctxs, mem := hand.mem }) (fun t => t.cg.tfReg 0x470 == 0x1612) = true := by
  decide

/-- Rows 16 bytes apart from offset 0x100, and a sparse block (R184) at 0x200 with one entry a row. -/
def rowF (md ma : BitVec 4) (sa sb : BitVec 8) : FmtT := { fT .n8 md ma 0 0 with sa := sa, sb := sb, imm := 0x00100100 }

def sparseBytes : List Byte :=
  bytesOfNat 4 0x220 ++ bytesOfNat 4 0x240 ++ bytesOfNat 4 0x260 ++ bytesOfNat 4 2 ++ bytesOfNat 16 0 ++ bytesOfNat 4 0 ++
    bytesOfNat 4 1 ++ bytesOfNat 4 2 ++ bytesOfNat 20 0 ++ bytesOfNat 2 1 ++ bytesOfNat 2 0 ++ bytesOfNat 28 0 ++ bytesOfNat 4 0x77 ++
    bytesOfNat 4 0x88

def sparse : State :=
  tiled.updTeam 0 (fun t =>
    { t with sp := Map.setBytes (Map.setBytes t.sp 0x100 (bytesOfNat 8 0x0807060504030201)) 0x200 sparseBytes })

def gathF : FmtT := { fT .n8 0 0 0 0 with sa := 1, sb := 3, imm := 0x200 }

def readableB (x n : Nat) : Bool :=
  decide (x % n = 0) && decide (x + n ≤ sparse.ct.spSize) && !sparse.ct.lineAbsent (x / 128) && !sparse.ct.badSp.contains (x / 128)

theorem readable_of {x n : Nat} (h : readableB x n = true) : Readable sparse.ct x n := by
  simp only [readableB, Bool.and_eq_true, decide_eq_true_eq, Bool.not_eq_true', List.contains_eq_mem, decide_eq_false_iff_not] at h
  exact ⟨h.1.1.1, h.1.1.2, h.1.2, h.2⟩

theorem witness_TilesAndStorage :
    (∀ p ∈ [(Instr.mld (rowF 0 0 1 0), ({ reads := [.s 1] } : Uses)), (.mst (rowF 0 4 1 0), { reads := [.s 1] }),
        (.mgath gathF, { reads := [.s 1, .s 3] }),
        (.mlaneGet { fT .n8 0 4 0 0 with sa := 8 }, { writes := spread 8 (sparse.ct.tile 4).words 32 }),
        (.mlanePut { fT .n8 0 0 0 0 with sa := 8, tmod := 1 }, { reads := spread 8 (sparse.ct.tile 0).words 32 }),
        (.mxlaneGet { fT .n8 0 3 0 0 with sa := 8, sb := 2 }, { reads := [.s 2], writes := spread 8 2 32 }),
        (.mxlanePut { fT .n8 3 0 0 0 with sa := 8, sb := 2, tmod := 3 }, { reads := .s 2 :: spread 8 2 32 })],
      issuesB sparse p.1 p.2 = true) ∧
    sparse.actsAny = true ∧ sparse.cf.run = none ∧
    (RowsOk sparse (rowF 0 0 1 0) (sparse.ct.tile 0) (sparse.cg.ureg 1) ∧ RowsOk sparse (rowF 0 4 1 0) (sparse.ct.tile 4) (sparse.cg.ureg 1) ∧
      UnitsFree sparse ⟨[], (sparse.ct.tile 0).units⟩ ∧ UnitsFree sparse ⟨(sparse.ct.tile 4).units, []⟩ ∧ sparse.ct.badSp = []) ∧
    (let sp := sparse.ct.sparse 0x200
     let lo := fun i => sparse.ct.spRead (sp.rowptr + 4 * i) 4
     let hi := fun i => sparse.ct.spRead (sp.rowptr + 4 * i + 4) 4
     (∀ k < 4, Readable sparse.ct (0x200 + 4 * k) 4) ∧ sparse.ct.spRead (0x200 + 12) 4 < 65536 ∧ (sparse.ct.tile 0).rows = 2 ∧
       (∀ i < 2, lo i ≤ hi i ∧ hi i ≤ sp.nnz) ∧ (∀ i < 3, Readable sparse.ct (sp.rowptr + 4 * i) 4) ∧
       ∀ p < 2, Readable sparse.ct (sp.colidx + 2 * p) 2 ∧ Readable sparse.ct (sp.values + 4 * p) 4) ∧
    (let on := fun n => sparse.act.getLsbD (n % sparse.ct.width)
     let m := sparse.ct.tile 3
     let get : FmtT := { fT .n8 0 3 0 0 with sa := 8, sb := 2 }
     (sparse.ct.tile 4).en = true ∧ (spread 8 (sparse.ct.tile 4).words sparse.ct.width).length ≤ 64 ∧
       UnitsFree sparse ⟨((List.range (sparse.ct.tile 4).words).filter on).map (fun n => (sparse.ct.tile 4).base + n / 1024), []⟩ ∧
       Shaped sparse 3 ∧ (sparse.cg.ureg 2).toNat < m.rows ∧
       UnitsFree sparse ⟨((List.range (sliceLen get m)).filter on).map (fun k => m.base +
         ((sliceAt get (sparse.cg.ureg 2).toNat k).1 * m.cols + (sliceAt get (sparse.cg.ureg 2).toNat k).2) * m.bits / 32768), []⟩ ∧
       UnitsFree sparse ⟨[], m.units⟩) ∧
    (match sparse.ct.gathAll (sparse.ct.tile 0) 0x200 0 0 with | .ok _ => true | _ => false) = true ∧
    ((sparse.ct.tile 15).en = false ∧ issuesB sparse (.mlanePut { fT .n8 15 0 0 0 with sa := 8, tmod := 1 }) { reads := [.v 8] } = true ∧
      ∀ p ∈ [(Instr.mld (rowF 15 0 1 0), ({ reads := [.s 1] } : Uses)), (.mst (rowF 0 15 1 0), { reads := [.s 1] }),
          (.mgath { gathF with md := 15 }, { reads := [.s 1, .s 3] }), (.mlaneGet { fT .n8 0 15 0 0 with sa := 8 }, { writes := [.v 8] }),
          (.mxlaneGet { fT .n8 0 15 0 0 with sa := 8, sb := 2 }, { reads := [.s 2], writes := [.v 8] }),
          (.mxlanePut { fT .n8 15 0 0 0 with sa := 8, sb := 2, tmod := 3 }, { reads := [.s 2, .v 8] })], issuesB sparse p.1 p.2 = true) := by
  exact ⟨by decide, by decide, by decide, ⟨⟨by decide, by decide, by decide, by decide⟩, ⟨by decide, by decide, by decide, by decide⟩,
    free_of (by decide), free_of (by decide), by decide⟩,
    ⟨fun k h => readable_of ((by decide : ∀ k < 4, readableB (0x200 + 4 * k) 4 = true) k h), by decide, by decide, by decide,
      fun i h => readable_of ((by decide : ∀ i < 3, readableB ((sparse.ct.sparse 0x200).rowptr + 4 * i) 4 = true) i h),
      fun p h => ⟨readable_of ((by decide : ∀ p < 2, readableB ((sparse.ct.sparse 0x200).colidx + 2 * p) 2 = true) p h),
        readable_of ((by decide : ∀ p < 2, readableB ((sparse.ct.sparse 0x200).values + 4 * p) 4 = true) p h)⟩⟩,
    ⟨by decide, by decide, free_of (by decide), ⟨by decide, by decide⟩, by decide, free_of (by decide), free_of (by decide)⟩, by decide,
    by decide⟩

/-- The first row from 0x100; the entries 0x77 at (0, 1) and 0x88 at (1, 0); row 1 of m3 is -1 2, widened. -/
theorem test_mld : after (execMld (rowF 0 0 1 0) sparse) (fun t => elemIs 0 0 0 0x04030201 t && elemIs 0 0 1 0x08070605 t) = true := by
  decide
theorem test_mst :
    after (execMst (rowF 0 4 1 0) sparse) (fun t => t.ct.spRead 0x100 8 == 0x3F800000 && t.ct.spRead 0x110 4 == 0x40000000) = true := by
  decide
theorem test_mgath :
    after (execMgath gathF sparse) (fun t => elemIs 0 0 1 0x77 t && elemIs 0 1 0 0x88 t && elemIs 0 0 0 0 t) = true := by decide
theorem test_mld_disabled :
    after (execMld (rowF 15 0 1 0) { sparse with ctxs := hand.ctxs, mem := hand.mem }) (fun t => t.cg.tfReg 0x470 == 0x1612) = true := by decide
theorem test_mxlane_get :
    after (execMxlaneGet { fT .n8 0 3 0 0 with sa := 8, sb := 2 } (sparse.setF (fun f => { f with em := 3 })))
      (fun t => laneIs 8 0 0xFFFFFFFF t && laneIs 8 1 2 t) = true := by decide


/-! ## Scratchpad, windows, queues and clasps (R194 to R220) -/

/-- A second team of the cluster on the core to the east, and the route there (R202). -/
def eastRoute : Nat := 1 * 2 ^ 14 + 0x3FFF

def pairAt (x : Word) (status : TeamStatus) : State :=
  let s := (regs x 0x11223344 0x50).updTeam 0 (fun t => { t with csize := 2, launch := 1 })
  { s with teams := Map.put s.teams 1 { readyTeam 1 with csize := 2, launch := 1, rank := 1, status := status } }
def pair2 (status : TeamStatus) : State := pairAt 0x40 status

/-- The line at 0x40 of the own scratchpad is absent, and window 3, not started, covers it or not. -/
def lacks (win : Bool) : State :=
  (pair2 .resident).updTeam 0 (fun t =>
    { t with absent := [(0, true)], win := if win then [(3, ⟨1, 0, 128, 0, [0], true, 0, 0x10000⟩)] else [] })

def peerF (sub : BitVec 4) : FmtE := fE sub 4 1 2 (BitVec.ofNat 32 eastRoute)

/-- Window 3 free, started or landed, over a descriptor in shape slot 0 of one 16-byte row. -/
def descOne : BitVec 512 := BitVec.ofNat 512 (1 + 2 ^ 8 * 0)

def reachesB (s : State) (team : Nat) (l : List SpAcc) : Bool :=
  (spCheck (s.teamOf team).spSize false l).isNone && (accLines l).all (fun n => !(s.teamOf team).lineAbsent n && !(s.teamOf team).badSp.contains n)

theorem reaches_of {s : State} {team : Nat} {l : List SpAcc} (h : reachesB s team l = true) : Reaches s team l true := by
  simp only [reachesB, Bool.and_eq_true, Option.isNone_iff_eq_none, List.all_eq_true, Bool.not_eq_true', List.contains_eq_mem,
    decide_eq_false_iff_not] at h
  exact ⟨h.1, fun n hn => (h.2 n hn).1, fun _ n hn => (h.2 n hn).2⟩

/-- Every access of scratchpad issues there, and its addresses, own and at a peer, fail their check. -/
def failsCheck (s : State) : Bool :=
  [(Instr.lds (fE 4 4 1 0 0), ({ reads := [.v 1], writes := spRegs 4 4 } : Uses)), (.sts (fE 4 0 1 2 0), { reads := .v 1 :: spRegs 4 2 }),
      (.pld { peerF 4 with b := 0 }, { reads := [.v 1], writes := spRegs 4 4 }), (.pst { peerF 4 with d := 0 }, { reads := .v 1 :: spRegs 4 2 }),
      (.atms .add (fE 2 4 1 2 0), atmsUses .add (fE 2 4 1 2 0))].all (fun p => issuesB s p.1 p.2) &&
    (spCheck (s.teamOf 0).spSize false (s.spAccs 1 0 4)).isSome && (spCheck (s.teamOf 1).spSize false (s.spAccs 1 0 4)).isSome &&
    okB (s.peer eastRoute) (· == 1) && !s.lanes.isEmpty

theorem witness_ScratchpadAndWindows :
    (∀ p ∈ [(Instr.lds (fE 4 4 1 0 0), ({ reads := [.v 1], writes := spRegs 4 4 } : Uses)),
        (.sts (fE 4 0 1 2 0), { reads := .v 1 :: spRegs 4 2 }), (.pld { peerF 4 with b := 0 }, { reads := [.v 1], writes := spRegs 4 4 }),
        (.pst { peerF 4 with d := 0 }, { reads := .v 1 :: spRegs 4 2 }), (.atms .add (fE 2 4 1 2 0), atmsUses .add (fE 2 4 1 2 0))],
      (pair2 .resident).Issues p.1 p.2) ∧
    (Reaches (pair2 .resident) 0 ((pair2 .resident).spAccs 1 0 4) true ∧ Reaches (pair2 .resident) 1 ((pair2 .resident).spAccs 1 0 4) true) ∧
    spCheck base.ct.spSize false ((regs 0x41 0 0).spAccs 1 0 4) ≠ none ∧
    ((pair2 .resident).lanes ≠ [] ∧ okB ((pair2 .resident).peer eastRoute) (· == 1) = true ∧ ((pair2 .resident).teamOf 1).status ≠ .frozen ∧
      okB ((pair2 .frozen).peer eastRoute) (· == 1) = true ∧ ((pair2 .frozen).teamOf 1).status = .frozen) ∧
    (failsCheck (pairAt 0x41 .resident) = true ∧ failsCheck (pairAt 0x7FFFFF80 .resident) = true) ∧
    (∀ w ∈ [true, false], issuesB (lacks w) (.lds (fE 4 4 1 0 0)) { reads := [.v 1], writes := spRegs 4 4 } = true ∧
      spCheck (lacks w).ct.spSize false ((lacks w).spAccs 1 0 4) = none ∧ (lacks w).ct.absentOf (accLines ((lacks w).spAccs 1 0 4)) ≠ []) :=
  ⟨issues_all (by decide), ⟨reaches_of (by decide), reaches_of (by decide)⟩, by decide, by decide, by decide, by decide⟩

/-- R196: the highest lane's bytes stay; R201: each lane adds to what the lanes before it left. -/
theorem test_sts_lds :
    after (execSts (fE 4 0 1 2 0) (pair2 .resident)) (fun t => t.ct.spRead 0x40 4 == 0x11223344 && t.ct.spRead 0x44 4 == 0) = true := by
  decide
theorem test_atms :
    after (execAtms .add (fE 2 4 1 2 0) (pair2 .resident)) (fun t =>
      t.ct.spRead 0x40 4 == 0x22446688 && laneIs 4 0 0 t && laneIs 4 5 0x11223344 t) = true := by decide
theorem test_pst : after (execPst { peerF 4 with d := 0 } (pair2 .resident)) (fun t => (t.teamOf 1).spRead 0x40 4 == 0x11223344) = true := by
  decide
theorem test_pst_frozen :
    after (execPst { peerF 4 with d := 0 } { pair2 .frozen with ctxs := hand.ctxs, mem := hand.mem }) (fun t =>
      t.cg.tfReg 0x470 == 0x170A && t.cg.tfReg 0x473 == BitVec.ofNat 64 eastRoute) = true := by decide

/-- R197, R205: a load of an absent line parks, and the window over it starts; so does one of a line that is there. -/
theorem test_lds_parks :
    after (execLds (fE 4 4 1 0 0) (lacks true)) (fun t =>
      t.cf.park == some (.lines 0 [0]) && (t.ct.window 3).state == 2 && t.ct.entryWait == [(⟨0, 0, 0⟩, some 3)]) = true := by decide
theorem test_lds_touches :
    after (execLds (fE 4 4 1 0 0) ((lacks true).updTeam 0 (fun t => { t with absent := [] }))) (fun t =>
      t.cf.park == none && (t.ct.window 3).state == 2) = true := by decide

/-- A descriptor (R226): n32, rank 1, one element, over the addresses from 0x40000. -/
def desc1 : BitVec 512 := BitVec.ofNat 512 0

/-- Shape slot 0 holds a descriptor, and window 3 is in a state. -/
def windowed (state : Nat) : State :=
  (regs 0 0x100 0).updTeam 0 (fun t =>
    { t with ts := [(0, desc1)], win := if state = 0 then [] else [(3, ⟨state, 0x200, 128, desc1, [0], true, 0, 0x10000⟩)] })

def windowF : FmtE := { fE 0 0 4 2 0 with wq := 3 }

theorem witness_ScratchpadAndWindows_windows :
    (∀ p ∈ [(Instr.wbind windowF, ({ reads := uregs 4 3 ++ [.s 2] } : Uses)), (.wtouch { fE 0 0 0 0 0 with wq := 3 }, {}),
        (.wstat { fE 0 4 0 0 0 with wq := 3 }, { writes := [.s 4] }), (.wunbind { fE 0 0 0 0 0 with wq := 3 }, {})],
      issuesB (windowed 0) p.1 p.2 = true) ∧
    ((windowed 0).actsAny = true ∧ (0 : Nat) < (windowed 0).ct.slots ∧ Map.find (windowed 0).ct.ts 0 = some desc1 ∧
      ((windowed 0).ct.window 3).state = 0 ∧ ((windowed 0).cg.ureg 6).toNat < 2 ^ 32 ∧ ((windowed 0).cg.ureg 2).toNat % 128 = 0 ∧
      ((windowed 0).cg.ureg 2).toNat + alignUp 128 (Desc.of desc1).boxBytes ≤ (windowed 0).ct.spSize ∧
      (∀ k < 16, k ≠ 3 → ((windowed 0).ct.window k).covers 2 = false) ∧ (windowed 0).ct.lineAbsent 2 = false) ∧
    ((windowed 1).ct.window 3).state = 1 ∧ ((windowed 2).ct.window 3).state = 2 ∧ ((windowed 3).ct.window 3).state = 3 := by decide

theorem test_wtouch :
    after (execWtouch { fE 0 0 0 0 0 with wq := 3 } (windowed 1)) (fun t => (t.ct.window 3).state == 2 && t.ct.entryWait.length == 1) = true := by
  decide
theorem test_wunbind :
    after (execWunbind { fE 0 0 0 0 0 with wq := 3 } (windowed 3)) (fun t => (t.ct.window 3).state == 0) &&
      after (execWunbind { fE 0 0 0 0 0 with wq := 3 } (windowed 2)) (fun t => t.cf.park == some (.again (.window 3))) = true := by decide

/-- Queue 3 of depth 4 over the scratchpad at 0x80, with some items, from a head. -/
def queued (head n : Nat) : State :=
  (regs 0x71 0x72 0x80000080).updTeam 0 (fun t =>
    { t with q := [(3, ⟨true, false, 2, 0x80, head, head + n, [], [], none⟩)], sp := Map.setBytes t.sp 0x80 (bytesOfNat 16 0xD0000000C0000000B0000000A) })

def qF (a : BitVec 8) : FmtE := { fE 0 0 a 0 0 with wq := 3 }
def qPop (sub : BitVec 4) : FmtE := { fE sub 4 0 1 0 with wq := 3 }
def cfgS : State := (regs 0 0 0).setG (fun g => { g with s := [(1, 0x82000080)] })

theorem witness_QueuesKeepOrder :
    (∀ p ∈ [(Instr.qpush (qF 1), ({ reads := [.v 1] } : Uses)), (.qpushTry { qF 1 with d := 1 }, { reads := [.v 1], writes := [.p 1] }),
        (.qpushU { qF 1 with sub := 1 }, { reads := [.s 1] }), (.qpushTry { qF 1 with d := 1, sub := 1 }, { reads := [.s 1], writes := [.p 1] }),
        (.qpop (qPop 0), { writes := popWrites (qPop 0) false }), (.qpopTry (qPop 0), { writes := popWrites (qPop 0) false }),
        (.qpopU (qPop 1), { writes := popWrites (qPop 1) true }), (.qpopTry (qPop 1), { writes := popWrites (qPop 1) true }),
        (.qclose (qF 0), {}), (.qstat { qF 0 with d := 4 }, { writes := [.s 4] })], issuesB (queued 0 2) p.1 p.2 = true) ∧
    (issuesB cfgS (.qcfg (qF 1)) { reads := [.s 1] } = true ∧ cfgS.actsAny = true ∧ (cfgS.cg.ureg 1).getLsbD 31 = true ∧
      field (cfgS.cg.ureg 1) 63 32 = 0 ∧ field (cfgS.cg.ureg 1) 30 28 = 0 ∧ field (cfgS.cg.ureg 1) 23 0 % 4 = 0 ∧
      field (cfgS.cg.ureg 1) 27 24 = 2 ∧ field (cfgS.cg.ureg 1) 23 0 + 4 * 2 ^ 2 ≤ cfgS.ct.spSize ∧ (cfgS.ct.queue 3).count = 0 ∧
      (cfgS.ct.queue 3).pushers = [] ∧ (cfgS.ct.queue 3).poppers = []) ∧
    okB ((queued 0 2).holder (qF 1).imm) (· == 0) = true ∧ (queued 0 2).lanes.length = 2 ∧
    (∀ s ∈ [queued 0 2, queued 3 2], (s.ct.queue 3).cfg = true ∧ (s.ct.queue 3).closed = false ∧
      (s.ct.queue 3).count + 2 ≤ (s.ct.queue 3).depth ∧ 2 ≤ (s.ct.queue 3).count ∧ (s.ct.queue 3).pushers = [] ∧
      (s.ct.queue 3).poppers = [] ∧ (s.ct.queue 3).first = none ∧ 2 ≤ (s.ct.queue 3).depth ∧
      (∀ j < 2, ∀ b < 4, s.ct.lineAbsent (((s.ct.queue 3).slotAddr ((s.ct.queue 3).tail + j) + b) / 128) = false ∧
        s.ct.lineAbsent (((s.ct.queue 3).slotAddr ((s.ct.queue 3).head + j) + b) / 128) = false) ∧ s.ct.badSp = []) ∧
    ((queued 0 3).ct.queue 3).first = none ∧
    ((queued 0 3).ct.queue 3).depth < ((queued 0 3).ct.queue 3).count + 2 ∧
    (qPop 0).sub ≠ 1 ∧ (1 : BitVec 8).toNat < 7 ∧ (cfgS.ct.queue 3).first = none ∧
    ((queued 0 4).ct.queue 3).depth < ((queued 0 4).ct.queue 3).count + 1 ∧ ((queued 0 1).ct.queue 3).count < 2 ∧
    ((queued 0 0).ct.queue 3).count < 1 ∧ (2 : Nat) ≤ ((queued 0 1).ct.queue 3).depth ∧
    (∀ n ∈ [0, 1, 3, 4], okB ((queued 0 n).holder (qF 1).imm) (· == 0) = true ∧ (queued 0 n).actsAny = true ∧ (queued 0 n).lanes ≠ [] ∧
      ((queued 0 n).ct.queue 3).cfg = true ∧ ((queued 0 n).ct.queue 3).closed = false ∧ ((queued 0 n).ct.queue 3).pushers = [] ∧
      ((queued 0 n).ct.queue 3).poppers = [] ∧ ((queued 0 n).ct.queue 3).head < 2 ^ 32 ∧
      ∀ p ∈ [(Instr.qpush (qF 1), ({ reads := [.v 1] } : Uses)), (.qpushU { qF 1 with sub := 1 }, { reads := [.s 1] }),
        (.qpushTry { qF 1 with d := 1, sub := 1 }, { reads := [.s 1], writes := [.p 1] }), (.qpop (qPop 0), { writes := popWrites (qPop 0) false }),
        (.qpopU (qPop 1), { writes := popWrites (qPop 1) true }), (.qpopTry (qPop 0), { writes := popWrites (qPop 0) false }),
        (.qpopTry (qPop 1), { writes := popWrites (qPop 1) true })], issuesB (queued 0 n) p.1 p.2 = true) := by decide

/-- R210: two items after two, the second in the slot the ring wraps to; R211: a full queue parks; the oldest to the lowest lane. -/
theorem test_qpush :
    after (execQpush (qF 1) (queued 1 2)) (fun t => t.ct.spRead 0x8C 4 == 0x71 && t.ct.spRead 0x80 4 == 0x71 && (t.ct.queue 3).tail == 5) =
      true := by decide
theorem test_qpush_parks :
    after (execQpush (qF 1) (queued 0 3)) (fun t => t.cf.park == some (.queue 0 3) && (t.ct.queue 3).pushers.length == 1) = true := by decide
theorem test_qpop :
    after (execQpop (qPop 0) (queued 0 2)) (fun t => laneIs 4 0 0xA t && laneIs 4 5 0xB t && (t.ct.queue 3).head == 2 && predIs 1 0x21 t) =
      true := by decide
theorem test_qpushTry :
    after (execQpushTry { qF 1 with d := 1 } (queued 0 3)) (fun t => predIs 1 0 t && (t.ct.queue 3).pushers.isEmpty && t.cf.park == none) =
      true := by decide

theorem test_qpop_parks :
    after (execQpop (qPop 0) (queued 0 1)) (fun t => t.cf.park == some (.queue 0 3) && (t.ct.queue 3).poppers.length == 1 && laneIs 4 0 0 t) =
      true := by decide
theorem test_qpopTry :
    after (execQpopTry (qPop 0) (queued 0 1)) (fun t => predIs 1 0 t && (t.ct.queue 3).poppers.isEmpty && laneIs 4 0 0 t) = true := by decide

/-- A clasp at 0x40: expected, remaining, pending and phase, and the group's lanes 0 and 5. -/
def clasped (remaining : Nat) (pending : Int) : State :=
  let s := ({ base with teams := [(0, ((base.teamOf 0).putClasp 0x40 ⟨2, remaining, pending, false⟩))] } : State).setG
    (fun g => { g with owned := 0x21, s := [(1, 0x40), (2, 2)] })
  s.setF (fun f => { f with om := 0x21, em := 0x21 })

def claspF (d b : BitVec 8) (sub : BitVec 4) : FmtE := fE sub d 1 b 0

/-- An earlier arrival of this clock has flipped the clasp's phase; an arrival record that names another clasp. -/
def flipped : State := (clasped 1 0).updTeam 0 (fun t => { t with flips := [⟨0x40, (clasped 1 0).now, 0, [((clasped 1 0).cur.ref, (clasped 1 0).cf.pc)]⟩] })
def elsewhere : State := (clasped 1 0).setG (fun g => { g with arr := some ⟨0x80, none, 0, 1⟩ })

def landing : State :=
  (clasped 1 128).updTeam 0 (fun t => { t with landings := [⟨0x40, 128, .group 0 0 0x10000⟩] })

/-- The same where the clasp's team is frozen. -/
def icedLanding : State := landing.updTeam 0 (fun t => { t with status := .frozen })

theorem witness_ClaspsCountAndFlip :
    (∀ p ∈ [(Instr.cinit (claspF 0 2 0), ({ reads := [.s 1, .s 2] } : Uses)), (.carrive (claspF 4 0 0), { reads := [.s 1], writes := [.s 4] }),
        (.carriveWait (claspF 4 0 0), { reads := [.s 1], writes := [.s 4] }), (.cexpect (claspF 0 2 0), { reads := [.s 1, .s 2] }),
        (.cwait (claspF 0 0 1), { reads := [.s 1] }), (.cwait (claspF 0 0 0), { reads := [.s 1] }),
        (.ctest (claspF 1 0 0), { reads := [.s 1], writes := [.p 1] })], issuesB (clasped 1 0) p.1 p.2 = true) ∧
    (let s := clasped 1 0
     s.actsAny = true ∧ okB (s.holder 0) (· == 0) = true ∧ field (s.cg.ureg 1) 31 0 % 8 = 0 ∧ (s.cg.ureg 1).toNat < 2 ^ 32 ∧
       field (s.cg.ureg 1) 31 0 + 16 ≤ s.ct.spSize ∧ s.ct.claspAbsent 0x40 = [] ∧ 0 < (s.cg.ureg 2).toNat ∧
       (s.cg.ureg 2).toNat < 2 ^ 16 ∧ s.ct.badSp = [] ∧ s.ct.flips = [] ∧ s.cg.arr = none ∧ s.cg.remainingLanes &&& ~~~(0 ||| s.cf.om) = 0 ∧ (s.ct.clasp 0x40).remaining ≠ 0 ∧
       (s.ct.clasp 0x40).phase = false ∧ -(2 ^ 24) ≤ (s.ct.clasp 0x40).pending + (s.cg.ureg 2).toInt) ∧
    ((clasped 1 0).setF (fun f => { f with om := 1 })).cg.remainingLanes &&& ~~~(0 ||| (1 : Mask)) ≠ 0 ∧
    ((clasped 0 1).ct.clasp 0x40).remaining = 0 ∧
    (⟨0x40, flipped.now, 0, [(flipped.cur.ref, flipped.cf.pc)]⟩ ∈ flipped.ct.flips ∧ 0 < flipped.arrivalPlace flipped.cur.ref ∧
      issuesB flipped (.carrive (claspF 4 0 0)) { reads := [.s 1], writes := [.s 4] } = true) ∧
    (elsewhere.cg.arr = some ⟨0x80, none, 0, 1⟩ ∧
      issuesB elsewhere (.carrive (claspF 4 0 0)) { reads := [.s 1], writes := [.s 4] } = true) ∧
    2 ^ 24 ≤ ((clasped 1 (2 ^ 24 - 2)).ct.clasp 0x40).pending + ((clasped 1 0).cg.ureg 2).toInt ∧
    (((landing.teamOf 0).landings.filter (fun x => x.addr = 0x40)).map (·.bytes)).sum = 128 ∧
      (landing.ct.claspAbsent 0x40 = [] ∧ landing.ct.badSp = []) ∧
      -(2 ^ 24) ≤ (landing.ct.clasp 0x40).pending - 128 ∧ (landing.ct.clasp 0x40).pending - 128 < 2 ^ 24 ∧
      (landing.teamOf 0).status ≠ .frozen ∧
    ((icedLanding.teamOf 0).status = .frozen ∧ (icedLanding.teamOf 0).landings ≠ []) ∧
    (issuesB landing (.carrive (claspF 4 0 0)) { reads := [.s 1], writes := [.s 4] } = true ∧ landing.cg.arr = none ∧
      landing.cg.remainingLanes &&& ~~~(0 ||| landing.cf.om) = 0 ∧ landing.ct.flips = []) ∧
    (issuesB (clasped 1 127) (.cexpect (claspF 0 2 0)) { reads := [.s 1, .s 2] } = true ∧
      (127 : Int) + ((clasped 1 127).cg.ureg 2).toInt < 2 ^ 24) := by decide

/-- R217, R218: the last arrival flips the phase and takes the count again; landed bytes that complete a transfer do not flip it
while an arrival is awaited; the boundary of the transfer count. -/
theorem test_carrive :
    after (execCarrive (claspF 4 0 0) (clasped 1 0)) (fun t => t.ct.clasp 0x40 == ⟨2, 2, 0, true⟩ && uniIs 4 0 t) = true := by decide
theorem test_claspUpdate :
    after (execClaspUpdate 0 0x40 landing) (fun t => t.ct.clasp 0x40 == ⟨2, 1, 0, false⟩ && t.ct.landings.isEmpty) = true := by decide
theorem test_cexpect_overflow :
    after (execCexpect (claspF 0 2 0) { clasped 1 (2 ^ 24 - 2) with ctxs := hand.ctxs, mem := hand.mem }) (fun t =>
      t.cg.tfReg 0x470 == 0x1708 && t.cg.tfReg 0x473 == 0) = true := by decide
theorem test_cwait : after (execCwait (claspF 0 0 0) (clasped 1 0)) (fun t => t.cf.park == some (.clasp 0 0x40 false)) = true := by decide


/-! ## Loads, stores, atomics, versions and fences (R262 to R312) -/

/-- A raw buffer record over `extent` bytes at an address. -/
def rawRec (addr extent : Nat) : BitVec 256 := BitVec.ofNat 256 (addr + extent * 2 ^ 96)

/-- Indexes 0x10 and 0x50 in lanes 0 and 5, their data, and record 3 over the bytes at 0x40000. -/
def filed : State :=
  let s := (regs 0 0 0).setG (fun g =>
    { g with
      v := [(64, 0x10), (69, 0x50), (128, 0x55667788), (133, 0x11), (192, 0), (197, 0), (256, 0), (261, 0), (320, 0), (325, 0)]
      s := [(1, 0x20), (2, 0x40040), (3, 0), (4, 0x40000), (5, 0x0000001000000000), (6, 0), (7, 0)] })
  let s := s.updTeam 0 (fun t => { t with bf := [(3, rawRec 0x40000 0x1000)] })
  { s with mem := Map.setBytes (Map.setBytes s.mem 0x40010 (bytesOfNat 8 0x8877665544332211)) 0x40050 (bytesOfNat 4 0xA0B0C0D0) }

def mF (d : BitVec 8) : FmtM := fM .n32 d 3 1 0
def uF (d : BitVec 8) : FmtM := { fM .n32 d 3 1 0 with ix := 1 }

/-- Forms that name lines, and forms over two and three registers. -/
def bF : FmtM := fM .n8 0 3 1 0
def casF : FmtM := { mF 2 with cnt := 1 }
def tripleF (d : BitVec 8) : FmtM := { mF d with cnt := 2 }
def verqF : FmtM := { fM .n8 4 3 1 0 with cnt := 1 }
def verqU : FmtM := { fM .n8 4 3 1 0 with ix := 1, hint := 1 }

def coherentB (s : State) (r : Resolved) : Bool :=
  s.cLines.isEmpty && r.lines.all (fun q => match q.place with | .loc _ => true | _ => false)

theorem coherent_of {s : State} {r : Resolved} (h : coherentB s r = true) : Coherent s r := by
  rw [coherentB, Bool.and_eq_true, List.all_eq_true, List.isEmpty_iff] at h
  refine ⟨fun q hq => ?_, fun l => by rw [h.1]; rfl⟩
  have := h.2 q hq
  cases e : q.place <;> simp_all

def settledB (s : State) (r : Resolved) : Bool :=
  coherentB s r && r.lines.all (fun q => match q.place with | .loc m => !s.compressed m && decide (m % 64 = 0) | _ => false) &&
    r.lines.all (fun q => r.lines.all (fun q' => decide (q.place = q'.place → q = q')))

theorem settled_of {s : State} {r : Resolved} (h : settledB s r = true) : Settled s r := by
  simp only [settledB, Bool.and_eq_true] at h
  obtain ⟨⟨a, b⟩, d⟩ := h
  rw [List.all_eq_true] at b d
  refine ⟨coherent_of a, fun q hq m e => ?_, fun q hq q' hq' => ?_⟩
  · have := b q hq
    simp_all
  · have := d q hq
    rw [List.all_eq_true] at this
    exact of_decide_eq_true (this q' hq')

def plainB (s : State) (r : Resolved) : Bool :=
  settledB s r && r.lines.all (fun q => match q.place with | .loc m => Map.get none s.lineOwner (m / 64) == none | _ => false)

theorem plain_of {s : State} {r : Resolved} (h : plainB s r = true) : Plain s r := by
  rw [plainB, Bool.and_eq_true, List.all_eq_true] at h
  have x := settled_of h.1
  refine ⟨x.coherent, x.plain, x.apart, fun q hq m e => Or.inl ?_⟩
  have := h.2 q hq
  simp_all

def offTablesB (s : State) (r : Resolved) : Bool :=
  r.lines.all (fun q => r.lines.all (fun q' =>
    match q'.place with
    | .loc m => !(s.walkLinesFrom q.va (4096 * field (s.cc.sreg 0x405) 47 12) 4).contains m
    | _ => true))

theorem offTables_of {s : State} {r : Resolved} (h : offTablesB s r = true) : OffTables s r := by
  intro q hq q' hq' m e
  rw [offTablesB, List.all_eq_true] at h
  have := h q hq
  rw [List.all_eq_true] at this
  have := this q' hq'
  simpa [e] using this

theorem resolves {α : Type} {x : Except MStop α} {k : α → Bool} (h : okB x k = true) : ∃ r, x = .ok r ∧ k r = true := by
  cases x with
  | ok r => exact ⟨r, rfl, h⟩
  | error e => cases h

/-- The uses of a load, and of a store. -/
def ldUses (f : FmtM) : Uses := { reads := useX f, writes := vregs f.d.toNat (mCount f) }
def stUses (f : FmtM) : Uses := { reads := useX f ++ vregs f.d.toNat (mCount f) }

/-- An index that is not aligned, and one past the record's end. -/
def skewed : State := filed.setG (fun g => { g with v := [(64, 0x12), (69, 0x50)] })
def beyond : State :=
  (filed.setG (fun g => { g with v := [(64, 0x10), (69, 0x2000)] })).updTeam 0 (fun t =>
    { t with bf := [(3, rawRec 0x40000 0x1000 ||| 1#256 <<< 201)] })

/-- Record 4 interleaves. -/
def woven : State := filed.updTeam 0 (fun t => { t with bf := [(3, BitVec.ofNat 256 (0x40000 + 0x1000 * 2 ^ 96 + 2 ^ 203))] })

theorem witness_LoadsAndStores :
    filed.cf.sent = [] ∧ (∀ s ∈ [filed, skewed], s.Issues (.ld (mF 4)) (ldUses (mF 4)) ∧ s.Issues (.st (mF 2)) (stUses (mF 2))) ∧
    (skewed.laneIxs (mF 4)).filter (fun i => alignAddr (skewed.ct.record 3) 0 i % 4 ≠ 0) ≠ [] ∧
    (∃ r, filed.resolve (mF 4) (laneAsk (mF 4) .read) .plain true (filed.laneIxs (mF 4)) = .ok r ∧ coherentB filed r = true) ∧
    (∃ r, filed.resolve (mF 2) (laneAsk (mF 2) .write) .plain true (filed.laneIxs (mF 2)) = .ok r ∧ plainB filed r = true) ∧
    (∃ r, filed.resolve (uF 4) (uniAsk (uF 4) .read) .plain true (filed.oneIx (uF 4)) = .ok r ∧ coherentB filed r = true) ∧
    (∃ r, filed.resolve (uF 2) (uniAsk (uF 2) .write) .plain true (filed.oneIx (uF 2)) = .ok r ∧ plainB filed r = true) ∧
    (filed.actsAny = true ∧ (filed.ct.record 3).mode ≠ .interleave ∧ woven.actsAny = true ∧ (woven.ct.record 3).mode = .interleave) ∧
    (∀ s ∈ [filed, woven], s.Issues (.ldu (uF 4)) { reads := useX (uF 4), writes := uregs 4 1 } ∧
      s.Issues (.stu (uF 2)) { reads := useX (uF 2) ++ uregs 2 1 }) ∧ filed.Issues (.pfh bF) { reads := useX bF } := by
  refine ⟨by decide, ?_, by decide, resolves (by decide), resolves (by decide), resolves (by decide), resolves (by decide), by decide,
    ?_, issues_of (by decide)⟩
  · intro s hs
    simp only [List.mem_cons, List.not_mem_nil, or_false] at hs
    rcases hs with rfl | rfl <;> exact ⟨issues_of (by decide), issues_of (by decide)⟩
  · intro s hs
    simp only [List.mem_cons, List.not_mem_nil, or_false] at hs
    rcases hs with rfl | rfl <;> exact ⟨issues_of (by decide), issues_of (by decide)⟩

/-- R265, R268: little-endian bytes at the record's base and the lane's index; a dropped lane reads zero; a misaligned one traps. -/
theorem test_ld : after (execLd (mF 4) filed) (fun t => laneIs 4 0 0x44332211 t && laneIs 4 5 0xA0B0C0D0 t) = true := by
  decide +kernel
theorem test_ld_dropped : after (execLd (mF 4) beyond) (fun t => laneIs 4 0 0x44332211 t && laneIs 4 5 0 t) = true := by decide +kernel
theorem test_ld_misaligned :
    after (execLd (mF 4) { skewed with ctxs := hand.ctxs, mem := hand.mem }) (fun t =>
      t.cg.tfReg 0x470 == 0x1641 && t.cg.tfReg 0x472 == 1) = true := by decide
theorem test_st : after (execSt (mF 2) filed) (fun t =>
    t.byteAt 0x40010 == 0x88 && t.byteAt 0x40013 == 0x55 && t.byteAt 0x40014 == 0x55 && t.byteAt 0x40050 == 0x11) = true := by decide +kernel
theorem test_ldu : after (execLdu (uF 4) { filed with mem := Map.setBytes filed.mem 0x40020 [0xFE, 0xFF] }) (uniIs 4 0xFFFE) = true := by decide

/-! ### Records and windows -/

def bfF : FmtM := { fM .n8 5 3 1 0 with ix := 1 }
def mkF : FmtE := { fE 0 0 4 0 0 with imm := 5 }

/-- The record's bytes at 0x40020, right and wrong. -/
def recorded (x : BitVec 256) : State := { filed with mem := Map.setBytes filed.mem 0x40020 (bytesOfNat 32 x.toNat) }

/-- Window 3 of the context over the bytes at 0x40000, with core 0's copies of its lines. -/
def open0 : State :=
  let s := filed.updCtx 1 (fun c => { c with sregs := c.sregs ++ [(0x413, 0x40001), (0x423, 0x42000), (0x430, 8)] })
  { s with nc := [(0, [(0x40000, ⟨1, 0x40000, List.replicate 64 0x5A, 0x10000⟩), (0x40040, ⟨1, 0x40040, List.replicate 64 0x6B, 0⟩)])] }

def windowS : FmtS := ⟨0, 2, 3⟩

theorem witness_BufferRecords :
    (filed.actsAny = true ∧ filed.cf.sent = []) ∧
    (∀ x ∈ [rawRec 0x40000 64, rawRec (2 ^ 57) 64],
      ∃ r, (recorded x).resolveRec { (recorded x).ct.record 3 with oob := false, strict := true } 3 0 ⟨32, 32, .read, true⟩ .plain true ((recorded x).oneIx bfF) =
        .ok r ∧ (coherentB (recorded x) r &&
          ((recorded x).oneIx bfF).all (fun i => BitVec.ofNat 256 (valueAt (recorded x) { (recorded x).ct.record 3 with oob := false, strict := true } 0 r 32 i) == x)) = true) ∧
    (let s := filed.setG (fun g => { g with s := [(1, 0x1000)] })
     s.actsAny = true ∧ s.cf.sent = [] ∧ s.oneIx bfF = [⟨0, 0x1000⟩] ∧ issuesB s (.ldbf bfF) { reads := useX bfF } = true ∧
      (s.ct.record 3).mode = .raw ∧ ((s.ct.record 3).base + 0x1000) % 32 = 0 ∧ (s.ct.record 3).extent < 0x1000 + 32) ∧
    (recordBad (rawRec 0x40000 64) = false ∧ recordBad (rawRec (2 ^ 57) 64) = true) ∧
    filed.Issues (.ldbf bfF) { reads := useX bfF } ∧ filed.Issues (.mkbf mkF) { reads := uregs 4 4 } ∧
    filed.Issues (.bfq { mkF with a := 0, d := 8 }) { writes := [.s 8] } ∧
    (∃ reqs, open0.windowLines bF = .ok reqs ∧ (decide (reqs.map (·.place) = [.nc 0x40000, .nc 0x40040]) &&
      reqs.all (fun q => match q.place with
        | .nc m => !open0.compressed m && (Map.find open0.cLines (m / 64)).isNone && m % 64 == 0 &&
            (match open0.ncCopy 0 m with | some c => c.bytes.length == 64 | none => true)
        | _ => true)) = true) ∧
    open0.Issues (.wbl bF) { reads := useX bF } ∧ open0.Issues (.invl bF) { reads := useX bF } ∧
    (open0.nc.map (·.1) = [0] ∧ ∀ p ∈ Map.get [] open0.nc 0, p.2.mask = 0 ∨ open0.reach p.1 (p.2.mask == BitVec.allOnes 64) = .ok) ∧
    (open0.actsAny = true ∧ (open0.cc.sreg 0x413).getLsbD 0 = true ∧ (filed.cc.sreg 0x413).getLsbD 0 = false ∧
      open0.cc.windowBad 3 0x40001 0x42000 = false ∧ open0.cc.windowBad 3 0x40001 0x40000 = true) ∧
    open0.Issues (.rngw windowS) { reads := uregs 2 2 } ∧ filed.Issues (.rngw windowS) { reads := uregs 2 2 } := by
  refine ⟨by decide, ?_, by decide, by decide, issues_of (by decide), issues_of (by decide), issues_of (by decide), resolves (by decide),
    issues_of (by decide), issues_of (by decide), by decide, by decide, issues_of (by decide), issues_of (by decide)⟩
  intro x hx
  simp only [List.mem_cons, List.not_mem_nil, or_false] at hx
  rcases hx with rfl | rfl <;> exact resolves (by decide +kernel)

theorem test_mkbf : after (execMkbf mkF filed) (fun t => (t.ct.record 5).base == 0x40000 && (t.ct.record 5).extent == 16) = true := by decide
theorem test_mkbf_malformed :
    after (execMkbf { mkF with a := 1 } { filed with ctxs := hand.ctxs, mem := hand.mem }) (fun t =>
      t.cg.tfReg 0x470 == 0x1642 && (t.ct.record 5).base == 0) = true := by decide
theorem test_bfq : after (execBfq { mkF with a := 0, d := 8, sub := 1, imm := 3 } filed) (uniIs 8 0x0000100000000000) = true := by decide
theorem test_wbl :
    after (execWbl bF open0) (fun t => t.byteAt 0x40010 == 0x5A && t.byteAt 0x40011 == 0x22 &&
      (t.ncCopy 0 0x40000).isSome && (t.ncCopy 0 0x40040).isSome) = true := by decide
theorem test_invl :
    after (execInvl bF open0) (fun t => t.byteAt 0x40010 == 0x5A && (t.ncCopy 0 0x40000).isNone) = true := by decide

/-! ### Atomics, versions and conditional stores -/

/-- Record 3 interleaves, up to its high water mark; a doubleword of it lies in two lines. -/
def woven8 : State :=
  filed.updTeam 0 (fun t => { t with bf := [(3, BitVec.ofNat 256 (0x40000 + 0x1000 * 2 ^ 96 + 0x1000 * 2 ^ 160 + 2 ^ 203))] })
def mF8 : FmtM := { fM .n64 2 3 1 0 with cnt := 1 }

theorem not_whole_of {l : List Nat} (k : Nat) (hk : k < l.length) (h : l.getD k 0 ≠ l.getD 0 0 + k) : ¬ Whole l := by
  rintro ⟨a, e, -⟩
  have x := congrArg (·.getD k 0) e
  have y := congrArg (·.getD 0 0) e
  have h0 : 0 < l.length := by omega
  simp only [List.getD_eq_getElem?_getD, List.getElem?_map, List.getElem?_range hk, List.getElem?_range h0, Option.map_some,
    Option.getD_some] at x y
  simp only [List.getD_eq_getElem?_getD] at h
  omega

theorem witness_AtomicsAndReductions :
    filed.cf.sent = [] ∧ filed.vcount = [] ∧ filed.ct.core < 256 ∧
    (∃ r, filed.resolve (mF 2) (atmAsk (mF 2)) .atomic true (filed.laneIxs (mF 2)) = .ok r ∧
      (settledB filed r && offTablesB filed r && (touching filed (mF 2) r).map (spots filed (mF 2) .atomic 4) ==
        [[0x40010, 0x40011, 0x40012, 0x40013], [0x40050, 0x40051, 0x40052, 0x40053]]) = true) ∧
    (Whole [0x40010, 0x40011, 0x40012, 0x40013] ∧ Whole [0x40050, 0x40051, 0x40052, 0x40053]) ∧
    (∃ r, woven8.resolve mF8 (atmAsk mF8) .atomic true (woven8.laneIxs mF8) = .ok r ∧
      (settledB woven8 r && (touching woven8 mF8 r).map (spots woven8 mF8 .atomic 8) ==
        [[0x40200, 0x40201, 0x40202, 0x40203, 0x40280, 0x40281, 0x40282, 0x40283],
          [0x40A14, 0x40A15, 0x40A16, 0x40A17, 0x40A94, 0x40A95, 0x40A96, 0x40A97]] &&
        (touching woven8 mF8 r).all (fun i => (spotLines (spotsOf r.lines i.lane 8)).length == 2)) = true) ∧
    (¬ Whole [0x40200, 0x40201, 0x40202, 0x40203, 0x40280, 0x40281, 0x40282, 0x40283] ∧
      ¬ Whole [0x40A14, 0x40A15, 0x40A16, 0x40A17, 0x40A94, 0x40A95, 0x40A96, 0x40A97]) ∧
    woven8.Issues (.red .add mF8) { reads := useX mF8 ++ vregs 2 (atmWords mF8) } ∧
    (∀ p ∈ [(Instr.atm .add (mF 2), atmUses .add (mF 2)), (.atm .cas casF, atmUses .cas casF),
        (.red .add (mF 2), { reads := useX (mF 2) ++ vregs 2 (atmWords (mF 2)) })], filed.Issues p.1 p.2) :=
  ⟨by decide, by decide, by decide, resolves (by decide +kernel), ⟨⟨0x40010, by decide⟩, ⟨0x40050, by decide⟩⟩, resolves (by decide +kernel),
    ⟨not_whole_of 4 (by decide) (by decide), not_whole_of 4 (by decide) (by decide)⟩, issues_of (by decide), issues_all (by decide)⟩

/-- R308: each lane's old value, and what a second lane finds after the first. -/
theorem test_atm :
    after (execAtm .add (mF 2) filed) (fun t => t.byteAt 0x40010 == 0x99 && t.byteAt 0x40050 == 0xE1 && laneIs 2 0 0x44332211 t) = true := by
  decide +kernel
theorem test_atm_same_place :
    after (execAtm .add (mF 2) ((filed.setG (fun g => { g with v := [(64, 0x10), (69, 0x10), (128, 1), (133, 2)] })))) (fun t =>
      laneIs 2 0 0x44332211 t && laneIs 2 5 0x44332212 t && t.byteAt 0x40010 == 0x14) = true := by decide +kernel
theorem test_red :
    after (execRed .add (mF 2) filed) (fun t => t.byteAt 0x40010 == 0x11 && (t.mergeC 0x40000).byteAt 0x40010 == 0x99) = true := by
  decide +kernel

def eF (sub : BitVec 4) (d a b : BitVec 8) : FmtE := { fE sub d a b 0 with imm := 3 }

/-- A validation set of one line, and a buffered byte. -/
def buffered (v : DWord) : State :=
  filed.setG (fun g => { g with
    vset := [⟨0x40000, 0x40000, v⟩], sbuf := [⟨0x40080, 0x40080, some 0x77 :: List.replicate 63 none⟩] })

/-- Eight lines in the set and in the buffer, and more to come. -/
def crowded : State :=
  filed.setG (fun g => { g with
    vset := (List.range 8).map (fun k => ⟨0x50000 + 64 * k, 0x50000 + 64 * k, 0⟩)
    sbuf := (List.range 8).map (fun k => ⟨0x50000 + 64 * k, 0x50000 + 64 * k, List.replicate 64 none⟩) })

def vaddLanes : List (LaneIx × DWord) := [(⟨0, 0x10⟩, 0x5566778800000000), (⟨5, 0x50⟩, 0x11)]

theorem witness_VersionsAndConditionalStores_reads :
    (∀ p ∈ [(Instr.ldv (tripleF 4), tripleF 4, 4), (.ldv { uF 4 with hint := 1 }, { uF 4 with hint := 1 }, 4), (.verq verqF, verqF, 0),
        (.verq verqU, verqU, 0)],
      (∃ r, filed.resolve p.2.1 ⟨max p.2.2 1, max p.2.2 1, .read, p.2.1.hint.getLsbD 0⟩ .version true
          (if p.2.1.hint.getLsbD 0 then filed.oneIx p.2.1 else filed.laneIxs p.2.1) = .ok r ∧ settledB filed r = true) ∧
        filed.Issues p.1 (versionUses p.2.1 p.2.2)) ∧
    (∃ r, filed.resolve (tripleF 2) ⟨4, 4, .atomic, false⟩ .version true (filed.laneIxs (tripleF 2)) = .ok r ∧
      (settledB filed r && ((touching filed (tripleF 2) r).map (fun i => (spots filed (tripleF 2) .atomic 4 i).map (· / 64))) ==
        [[0x1000, 0x1000, 0x1000, 0x1000], [0x1001, 0x1001, 0x1001, 0x1001]]) = true) ∧
    filed.Issues (.casv (tripleF 2)) { reads := useX (tripleF 2) ++ vregs 2 3, writes := vregs 2 3 } := by
  refine ⟨?_, resolves (by decide), issues_of (by decide)⟩
  intro p hp
  simp only [List.mem_cons, List.not_mem_nil, or_false] at hp
  rcases hp with rfl | rfl | rfl | rfl <;> exact ⟨resolves (by decide), issues_of (by decide)⟩

theorem witness_VersionsAndConditionalStores_sets :
    (∀ s ∈ [filed, crowded],
      (s.actsAny = true ∧ (s.ct.record 3).mode ≠ .interleave ∧ s.lanes.map (fun l => (s.cg.vreg 1 l).toNat) = [0x10, 0x50]) ∧
      s.Issues (.vadd (eF 1 0 1 2)) { reads := .v 1 :: vregs 2 2 } ∧
      s.Issues (.vaddU (eF 0 0 1 2)) { reads := [.s 1, .s 2] } ∧
      (∃ r, s.resolveRec (s.ct.record 3) 3 0 ⟨1, 1, .read, false⟩ .version true (vaddLanes.map (·.1)) = .ok r ∧ settledB s r = true) ∧
      (∃ r, s.resolve (mF 2) (laneAsk (mF 2) .write) .buffered false (s.laneIxs (mF 2)) = .ok r ∧
        (coherentB s r && r.lines.map (·.va) == [0x40000, 0x40040]) = true) ∧
      s.Issues (.vstc (mF 2)) (stUses (mF 2))) ∧
    (filed.cg.sbuf.length, crowded.cg.sbuf.length, crowded.cg.vset.length) = (0, 8, 8) ∧
    (∀ l ∈ crowded.cg.sbuf, l.bytes.length = 64 ∧ l.vline % 64 = 0) := by
  refine ⟨?_, by decide⟩
  intro s hs
  simp only [List.mem_cons, List.not_mem_nil, or_false] at hs
  rcases hs with rfl | rfl <;>
    exact ⟨by decide, issues_of (by decide), issues_of (by decide), resolves (by decide), resolves (by decide), issues_of (by decide)⟩

theorem witness_VersionsAndConditionalStores_commit :
    (∀ v ∈ [(0 : DWord), 9], (buffered v).Issues (.vcommit (fE 0 3 0 0 0)) { writes := [.p 3] }) ∧ (3 : BitVec 8).toNat < 7 ∧
    (∀ s ∈ [buffered 0, buffered 9],
      okB (s.translate s.ct.ctx (!s.cg.sys) .read 0x40000) (· == .loc 0x40000) = true ∧
      okB (s.translate s.ct.ctx (!s.cg.sys) .write 0x40080) (· == .loc 0x40080) = true ∧
      (s.reach 0x40000 true = .ok ∧ s.reach 0x40000 false = .ok ∧ s.compressed 0x40000 = false ∧ s.reach 0x40080 true = .ok ∧
        s.reach 0x40080 false = .ok ∧ s.compressed 0x40080 = false ∧ s.cLines = []) ∧
      (s.cg.sbuf.map (·.mline)).Nodup ∧ (∀ l ∈ s.cg.sbuf, l.bytes.length = 64)) ∧
    ((buffered 0).cg.vfail = false ∧ ∀ e ∈ (buffered 0).cg.vset, e.version = ((buffered 0).version e.mline).setWidth 64) ∧
    (¬ ∀ e ∈ (buffered 9).cg.vset, e.version = ((buffered 9).version e.mline).setWidth 64) ∧ (buffered 0).Issues .vclr {} := by
  refine ⟨?_, by decide, ?_, by decide, by decide, issues_of (by decide)⟩
  · intro v hv
    simp only [List.mem_cons, List.not_mem_nil, or_false] at hv
    rcases hv with rfl | rfl <;> exact issues_of (by decide)
  · decide

theorem test_casv :
    after (execCasv (tripleF 2) filed) (fun t => laneIs 2 0 0x44332211 t && t.byteAt 0x40010 == 0x88 && t.byteAt 0x40050 == 0x11 &&
      Map.get 0 t.vcount 0x1000 == 1) = true := by decide +kernel
theorem test_vcommit :
    after (execVcommit (fE 0 3 0 0 0) (buffered 0)) (fun t => predIs 3 0x21 t && t.byteAt 0x40080 == 0x77 && t.cg.vset.isEmpty) = true := by
  decide
theorem test_vcommit_fails :
    after (execVcommit (fE 0 3 0 0 0) (buffered 9)) (fun t => predIs 3 0 t && t.byteAt 0x40080 == 0 && t.cg.sbuf.isEmpty) = true := by decide
theorem test_vstc_full :
    after (execVstc (mF 2) { crowded with ctxs := hand.ctxs, mem := hand.mem }) (fun t => t.cg.tfReg 0x470 == 0x1662) = true := by decide

/-! ### Fences, replies and the dirty harvest -/

/-- In a handler of a page fault at an address. -/
def paged (cause va : DWord) : State :=
  (filed.setG (fun g => { g with tf := [(0x470, 0x1400 ||| cause), (0x471, 0x10002), (0x473, va), (0x475, 3), (0x478, 1)], trapEntry := some 0 }))

def harvF : FmtE := fE 0 6 4 8 0
def harvested : State := { filed.setG (fun g => { g with s := [(4, 0x40000), (5, 64), (8, 0x60000)] }) with dirty := [(0x41, true)] }
def parting : State := { filed with hostOut := 1 }

/-- A dirty copy of a line that has failed; a core whose cache is gated. -/
def spoiled : State := { open0 with badLines := [0x40000] }
def asleep : State := { filed with gated := [0] }

def leafB : Walk → Bool
  | .leaf _ _ => true
  | _ => false

theorem leaf_of {w : Walk} (h : leafB w = true) : ∃ e z, w = .leaf e z := by
  cases w with
  | leaf e z => exact ⟨e, z, rfl⟩
  | _ => cases h

/-- A walk that fails by an absent entry. -/
def absentB : Walk → Bool
  | .fail c _ _ => c == 0x048
  | _ => false

theorem absent_of {w : Walk} (h : absentB w = true) : ∃ l e, w = .fail 0x048 l e := by
  cases w with
  | fail c l e => simp only [absentB, beq_iff_eq] at h; exact ⟨l, e, by rw [h]⟩
  | _ => cases h

theorem witness_FencesPagesAndHarvest :
    (∀ s ∈ [filed, paged 0x048 0x40000, paged 0x048 0x40000000, paged 0x04A 0, paged 0x04A 8, paged 0x041 0], issuesB s .frply {} = true) ∧
    (filed.cg.ent = false ∧ (paged 0x048 0).cg.ent = true ∧ ((paged 0x048 0).cg.tfReg 0x470).getLsbD 11 = false) ∧
    (∃ l e, (paged 0x048 0x40000000).walk 1 0x40000000 = .fail 0x048 l e) ∧ (∃ e z, (paged 0x048 0x40000).walk 1 0x40000 = .leaf e z) ∧
    ((paged 0x04A 8).ct.record 3).hwm < 8 ∧
    (issuesB harvested (.dharv harvF) { reads := uregs 4 2 ++ [.s 8], writes := [.s 6] } = true ∧ harvested.actsAny = true ∧
      (0x40000 + 4096 * 64 ≤ harvested.frameEnd) ∧ okB (harvested.translate 1 false .write 0x60000) (· == .loc 0x60000) = true ∧
      harvested.reach 0x60000 false = .ok ∧ harvested.compressed 0x60000 = false ∧ harvested.cLines = []) ∧
    (∀ i ∈ [Instr.fenceDom, .fenceNc, .fenceSys], issuesB open0 i {} = true ∧ issuesB parting i {} = true) ∧
    (filed.remoteDone 0 0 = true ∧ filed.hostOut = 0 ∧ parting.hostOut ≠ 0 ∧ ((Map.get [] open0.nc 0).map (·.1)).Nodup) ∧
    (filed.reach 0x40000 false = .ok ∧ filed.compressed 0x40000 = false ∧ filed.cLines = [] ∧ open0.ncCopy 0 0x50000 = none) ∧
    ((∀ p ∈ Map.get [] open0.nc 0, (p.2.mask = 0 ∨ open0.reach p.1 (p.2.mask == BitVec.allOnes 64) = .ok) ∧ open0.compressed p.1 = false ∧
        Map.find open0.cLines (p.1 / 64) = none ∧ p.1 % 64 = 0 ∧ p.2.bytes.length = 64) ∧ (open0.ncCopy 0 0x40000).isSome) ∧
    (spoiled.ncCopy 0 0x40000 = some ⟨1, 0x40000, List.replicate 64 0x5A, 0x10000⟩ ∧
      (Map.get [] spoiled.nc 0).head? = some (0x40000, ⟨1, 0x40000, List.replicate 64 0x5A, 0x10000⟩) ∧
      spoiled.reach 0x40000 false = .failed ∧ issuesB spoiled .fenceNc {} = true) ∧
    (0 ∈ asleep.gated ∧ 0 ∉ filed.gated) :=
  ⟨by decide, by decide, absent_of (by decide), leaf_of (by decide), by decide, by decide, by decide, by decide, by decide, by decide,
    by decide, by decide⟩

theorem test_frply :
    after (execFrply (paged 0x048 0x40000)) (fun t => t.cf.pc == 0x10002 && t.cf.em == 1 && t.cg.sys && !t.cg.ent) = true := by decide
theorem test_frply_again : ((paged 0x048 0x40000000).ct.status, after (execFrply (paged 0x048 0x40000000)) (fun t => t.ct.ending == some (2, 0x1D3))) =
    (.resident, true) := by decide
theorem test_dharv :
    after (execDharv harvF harvested) (fun t => uniIs 6 1 t && t.byteAt 0x60000 == 2 && !(Map.get false t.dirty 0x41)) = true := by
  decide +kernel
theorem test_fenceSys_parks : after (execFenceSys parting) (fun t => t.cf.park == some (.again (.fence true true))) = true := by decide
theorem test_fenceNc : after (execFenceNc open0) (fun t => t.byteAt 0x40010 == 0x5A && (t.ncCopy 0 0x40000).isNone) = true := by decide

/-! ## Copies and the producer (R221 to R260) -/

/-- A descriptor (R226): a type's code, rank 1, and a box, over eight or more elements from 0x40000. -/
def flatDesc (ty dim box : Nat) : BitVec 512 := BitVec.ofNat 512 (0x40000 + ty * 2 ^ 64 + dim * 2 ^ 128 + (box - 1) * 2 ^ 448)

/-- Shape slot 3 holds a descriptor; uniform registers 4 to 6 are coordinates and 8 a scratchpad address without a clasp. -/
def shaped (x : BitVec 512) : State :=
  (filed.setG (fun g => { g with s := [(1, 0x20), (4, 0), (5, 0), (6, 0), (8, 0x8000000000000200), (9, 0x40), (10, 0x100), (11, 16)] })).updTeam 0
    (fun t => { t with ts := [(3, x)], bf := [(3, rawRec 0x40000 0x1000)] })

def words4 : BitVec 512 := flatDesc 2 8 4
def copyF : FmtE := { fE 0 0 4 8 0 with ts := 3 }
def loadF : FmtE := { fE 0 0 4 0 0 with ts := 5, imm := 3 }

/-- The memory at 0x40000 is itself a descriptor. -/
def described : State := { shaped words4 with mem := Map.setBytes filed.mem 0x40000 (bytesOfNat 64 words4.toNat) }

/-- No entry is free. -/
def fullQueue : State :=
  { (shaped words4).updTeam 0 (fun t => { t with copyq := 1 }) with copies := [(5, { nullCopy with team := 0, group := 0, kind := .load })], nextCopy := 6 }

def entryFreeB (s : State) : Bool :=
  decide (0 < s.entriesFree s.cur.ref.team) && s.cLines.isEmpty && s.ct.entryWait.isEmpty && !s.ct.granted.contains s.cur.ref

theorem witness_CopiesIssueOnce_slots :
    (∃ r, described.resolveRec { described.ct.record 3 with oob := false, strict := true, flat := true } 3 0 ⟨1, 64, .read, true⟩ .plain true
        [⟨0, 0⟩] = .ok r ∧
      (coherentB described r && BitVec.ofNat 512
        (valueAt described { described.ct.record 3 with oob := false, strict := true, flat := true } 0 r 64 ⟨0, 0⟩) == words4) = true) ∧
    descBad words4 = false ∧ described.Issues (.tsload loadF) { reads := [.s 4], writes := [.ts 5] } ∧
    described.Issues (.tsevict { fE 0 0 0 0 0 with ts := 3 }) { writes := [.ts 3] } ∧ described.actsAny = true ∧ 5 < described.ct.slots :=
  ⟨resolves (by decide +kernel), by decide, issues_of (by decide), issues_of (by decide), by decide, by decide⟩

theorem witness_CopiesIssueOnce_tiles :
    (let s := shaped words4
     s.actsAny = true ∧ entryFreeB s = true ∧ (s.ct.copyq ≠ 0 ∧ 3 < s.ct.slots ∧ Map.find s.ct.ts 3 = some words4) ∧
      field (s.cg.ureg 6) 63 32 = 0 ∧ spRangeStop [s.ct.spSize] (s.cg.ureg 8) (Desc.of words4).boxBytes = none ∧
      redTypeBad .add (Desc.of words4).ty = false ∧ (Desc.of words4).ty.bits ≠ 4 ∧
      issuesB s (.cpyld copyF) (copyUses copyF) = true ∧ issuesB s (.cpyst copyF) (copyUses copyF) = true ∧
      issuesB s (.cpyred .add copyF) (copyUses copyF) = true ∧ issuesB s (.cpymc { copyF with imm := 1 }) (copyUses copyF) = true ∧
      (s.teams.filter (fun p => p.2.sameCluster s.ct)).map (·.2.rank) = [0] ∧
      spRangeStop ((s.copyTargets { nullCopy with kind := .multicast 1, team := 0 }).map (fun t => (s.teamOf t).spSize)) (s.cg.ureg 8)
        (Desc.of words4).boxBytes = none) ∧
    ((fullQueue.ct.granted = [] ∧ fullQueue.entriesFree 0 = 0) ∧ issuesB fullQueue (.cpyld copyF) (copyUses copyF) = true) := by decide

def stripeF : FmtE := { fE 0 0 4 9 0 with ts := 3, imm := 3 }
def linearF : FmtE := { fE 0 11 9 10 0 with imm := 0x63 }

theorem witness_CopiesIssueOnce_ranges :
    (let s := shaped (flatDesc 0 128 64)
     let d := Desc.of (flatDesc 0 128 64)
     let c : Copy := { nullCopy with kind := .stripe 1, desc := flatDesc 0 128 64, coords := [0, 0, 0, 0, 0], offX := 0x40 }
     issuesB s (.cpystripe stripeF) (copyUses stripeF) = true ∧ d.rank ≤ 2 ∧ d.ty.bits ∈ [4, 8, 16] ∧ d.box.getD 0 1 * d.ty.bits % 512 = 0 ∧
      (s.cg.ureg 9).toNat % 64 = 0 ∧ (s.cg.ureg 9).toNat + 64 ≤ (s.ct.record 3).extent ∧
      ∀ i < d.box.getD 1 1, (s.cg.ureg 9).toNat + 64 * (stripeUnit 1 c.segments i (c.segments - 1) + 1) ≤ (s.ct.record 3).extent) ∧
    (let s := shaped words4
     issuesB s (.cpyg linearF) { reads := [.s 9, .s 10, .s 11] } = true ∧ s.ct.copyq ≠ 0 ∧ (s.ct.record 3).mode = .raw ∧
      (s.cg.ureg 9).toNat % 4 = 0 ∧ (s.cg.ureg 10).toNat % 4 = 0 ∧ (s.cg.ureg 11).toNat % 4 = 0 ∧ (s.cg.ureg 11).toNat ≠ 0 ∧
      (s.ct.record 3).base + (s.cg.ureg 9).toNat + 16 ≤ (s.ct.record 3).base + (s.cg.ureg 10).toNat ∧
      (s.cg.ureg 10).toNat + 16 ≤ (s.ct.record 3).extent) := by decide

/-- A load and a memory copy in flight, to do and with every line done; the load with its source line read already. -/
def loading : State := next (execCpyld copyF { shaped words4 with nextCopy := 7 })
def loaded1 : State := next (execCopyLineTransfer 7 4 loading)
def half : State := { loading with copies := [(7, { loading.copyOf 7 with src := [(0x40000, Map.bytes loading.mem 0x40000 64)] })] }
def linear : State := next (execCpyg linearF { shaped words4 with nextCopy := 7 })
def linearHalf : State := { linear with copies := [(7, { linear.copyOf 7 with src := [(0x40100, Map.bytes linear.mem 0x40100 64)] })] }

/-- A store, a reduction, a stripe and a copy to the cluster, each with its source line read. -/
def readOf (s : State) (l : Nat) (bs : List Byte) : State := { s with copies := [(7, { s.copyOf 7 with src := [(l, bs)] })] }
def fourWords : State :=
  { (shaped words4).updTeam 0 (fun t => t.spWrite 0x200 16 0x00000004000000030000000200000001) with nextCopy := 7 }
def storing : State := let s := next (execCpyst copyF fourWords); readOf s 4 (Map.bytes s.ct.sp 0x200 128)
def reducing : State := let s := next (execCpyred .add copyF fourWords); readOf s 4 (Map.bytes s.ct.sp 0x200 128)
def striping : State :=
  let s := next (execCpystripe stripeF { shaped (flatDesc 0 128 64) with nextCopy := 7, stripe := [(0x40, true)] })
  readOf s 0x40000 (Map.bytes s.mem 0x40000 64)
def casting : State := let s := next (execCpymc { copyF with imm := 1 } fourWords); readOf s 0x40000 (Map.bytes s.mem 0x40000 64)

/-- A store with every line written; the same before it has read a line of its box, which is absent. -/
def stored : State := next (execCopyLineTransfer 7 0x40000 storing)
def storesLater : State :=
  ({ stored with copies := [(7, { stored.copyOf 7 with src := [] })] } : State).updTeam 0 (fun t => { t with absent := [(4, true)] })

/-- A window's copy with nothing left to do; a load from an address that no table maps. -/
def windowing : State :=
  { windowed 2 with copies := [(7, { nullCopy with kind := .window 3, team := 0, desc := desc1, sp := 0x200 })], nextCopy := 8 }
def lost : State := { loading with copies := [(7, { loading.copyOf 7 with desc := words4 ||| BitVec.ofNat 512 0x40000000 })] }

/-- A fragment, or a window, waits for an entry that is free. -/
def waiting : State := (shaped words4).updTeam 0 (fun t => { t with entryWait := [(zero, none)] })
def wanted : State := (windowed 2).updTeam 0 (fun t => { t with entryWait := [(zero, some 3)] })

def servedB (s : State) (id : Nat) (k : Kind) (va m : Nat) : Bool :=
  let c := s.copyOf id
  decide (va < 2 ^ 57) && okB (s.translate (s.teamOf c.team).ctx c.user k va) (· == .loc m) && decide (m % 64 = 0) &&
    (s.reach m false [id] == .ok) && (s.reach m true [id] == .ok) && !s.compressed m && s.cLines.isEmpty

theorem witness_CopiesMoveAndComplete_lines :
    (4 ∈ (loading.copyOf 7).todo ∧ (loading.copyOf 7).sent = [] ∧ (loading.copyOf 7).src = [] ∧
      (loading.copyOf 7).sourceLines 4 = [0x40000] ∧ servedB loading 7 .read 0x40000 0x40000 = true ∧ (loading.copyOf 7).kind = .load) ∧
    (let c := half.copyOf 7
     4 ∈ c.todo ∧ 4 ∈ c.units ∧ c.sent = [] ∧ (∀ l ∈ c.sourceLines 4, Map.has c.src l = true) ∧ c.kind = .load ∧
      (half.teamOf c.team).status = .resident ∧ descBad c.desc = false ∧ c.sp % 128 = 0) ∧
    (let c := linearHalf.copyOf 7
     0x40040 ∈ c.todo ∧ c.sent = [] ∧ (∀ l ∈ c.sourceLines 0x40040, Map.has c.src l = true) ∧ c.kind = .linear ∧
      servedB linearHalf 7 .write 0x40040 0x40040 = true) := by decide +kernel

theorem witness_CopiesMoveAndComplete_kinds :
    (let c := casting.copyOf 7
     4 ∈ c.todo ∧ 4 ∈ c.units ∧ c.sent = [] ∧ (∀ l ∈ c.sourceLines 4, Map.has c.src l = true) ∧ c.kind.lands = true ∧
      descBad c.desc = false ∧ c.sp % 128 = 0 ∧ casting.copyTargets c = [0] ∧ (casting.teamOf 0).status = .resident) ∧
    (let c := storing.copyOf 7
     0x40000 ∈ c.todo ∧ c.sent = [] ∧ (∀ l ∈ c.sourceLines 0x40000, Map.has c.src l = true) ∧ c.kind = .store ∧
      servedB storing 7 .write 0x40000 0x40000 = true ∧ c.shape.ty.bits = 32 ∧
      (∀ n < c.shape.boxCount, (c.elemAt n).all (fun a => a % 32 == 0) = true)) ∧
    (let c := reducing.copyOf 7
     0x40000 ∈ c.todo ∧ c.sent = [] ∧ (∀ l ∈ c.sourceLines 0x40000, Map.has c.src l = true) ∧ c.kind = .reduce .add ∧
      servedB reducing 7 .atomic 0x40000 0x40000 = true ∧ c.core < 256 ∧ c.shape.ty = .n32 ∧
      (∀ n < c.shape.boxCount, ∀ k < c.shape.boxCount, c.elemAt n = c.elemAt k → k = n) ∧
      ∀ n < c.shape.boxCount, (c.elemAt n).all (fun a => a % 32 == 0) = true) ∧
    (let c := striping.copyOf 7
     0x40040 ∈ c.todo ∧ c.sent = [] ∧ (∀ l ∈ c.sourceLines 0x40040, Map.has c.src l = true) ∧
      (match c.kind with | .stripe _ => true | _ => false) = true ∧ servedB striping 7 .write 0x40040 0x40040 = true ∧
      Map.get false striping.stripe (0x40040 / 4096) = true) ∧
    (∀ s ∈ [stored, storesLater], Map.has s.copies 7 = true ∧ (s.copyOf 7).todo = [] ∧ s.copyAcked 7 = true ∧ s.copyRefused 7 = none ∧
      (s.copyOf 7).kind.fromSp = true ∧ (s.copyOf 7).boxLines = 1 ∧ (s.copyOf 7).sp / 128 = 4) ∧
    (Map.has (stored.copyOf 7).src 4 = true ∧ Map.has (storesLater.copyOf 7).src 4 = false ∧
      (storesLater.teamOf (storesLater.copyOf 7).team).lineAbsent 4 = true) := by decide +kernel

theorem test_cpyst : Map.bytes stored.mem 0x40000 20 =
    [1, 0, 0, 0, 2, 0, 0, 0, 3, 0, 0, 0, 4, 0, 0, 0, 0x11, 0x22, 0x33, 0x44] := by decide +kernel
theorem test_cpyred :
    let t := next (execCopyLineTransfer 7 0x40000 reducing)
    t.byteAt 0x40004 = 0 ∧ (t.mergeC 0x40000).byteAt 0x40004 = 2 ∧ (t.mergeC 0x40000).byteAt 0x40010 = 0x11 := by decide +kernel

theorem witness_CopiesMoveAndComplete_ends :
    (let c := loaded1.copyOf 7
     Map.has loaded1.copies 7 = true ∧ c.todo = [] ∧ loaded1.copyAcked 7 = true ∧ loaded1.copyRefused 7 = none ∧ c.kind = .load) ∧
    (let c := windowing.copyOf 7
     Map.has windowing.copies 7 = true ∧ c.todo = [] ∧ windowing.copyAcked 7 = true ∧ windowing.copyRefused 7 = none ∧
      c.kind = .window 3 ∧ windowing.copies.find? (fun x => x.2.team == c.team && x.2.kind == .window 3) = some (7, c) ∧
      Map.has (windowing.teamOf c.team).win 3 = true) ∧
    (lost.copyMeets 7 0x048 0x40040000 = true ∧ (lost.copyOf 7).kind = .load ∧ (lost.groupAt 0 0).alive = true ∧
      (lost.groupAt 0 0).held = []) ∧
    (0 < waiting.entriesFree 0 ∧ 0 < wanted.entriesFree 0 ∧ ((wanted.teamOf 0).window 3).state = 2) := by decide +kernel

/-- A batch with a copy in it, and sixteen sealed batches that are not finished. -/
def sealed (n : Nat) : State :=
  (regs 0 0 0).setG (fun g => { g with batch := n }) |> fun s =>
    { s with copies := (List.range (n + 1)).map (fun k => (k, { nullCopy with team := 0, group := 0, kind := .load, batch := k })) }

def sealF : FmtE := fE 0 4 0 0 0

theorem witness_CopiesMoveAndComplete_batches :
    (∀ s ∈ [sealed 0, sealed 2, sealed 16], s.actsAny = true ∧ issuesB s (.cseal sealF) { writes := [.s 4] } = true ∧
      issuesB s (.cwaitb (fE 0 0 0 0 2)) {} = true ∧ issuesB s (.cstat sealF) { writes := [.s 4] } = true) ∧
    ((sealed 0).sealedOpen, (sealed 2).sealedOpen, (sealed 16).sealedOpen) = (0, 2, 16) := by decide

/-- R233, R238: the four elements from 0x40010 on land at 0x200; a memory copy writes its own bytes alone. -/
theorem test_cpyld : loading.ct.lineAbsent 4 = true ∧ loaded1.ct.lineAbsent 4 = false ∧
    loaded1.ct.spRead 0x200 4 = 0 ∧ (next (execCopyComplete 7 loaded1)).copies = [] := by decide +kernel
theorem test_cpyld_coordinate :
    let s := next (execCpyld copyF { (shaped words4).setG (fun g => { g with s := [(4, 4), (8, 0x8000000000000200)] }) with nextCopy := 7 })
    (next (execCopyLineTransfer 7 4 s)).ct.spRead 0x200 8 = 0x8877665544332211 := by decide +kernel
theorem test_copyFault :
    after (execCopyFault 7 0x048 0x40040000 lost) (fun t => t.copies.isEmpty && t.cg.held.length == 1 && !t.ct.lineAbsent 4) = true := by
  decide +kernel
theorem test_cseal : after (execCseal sealF (sealed 2)) (fun t => uniIs 4 2 t && t.cg.batch == 3) &&
    after (execCseal sealF (sealed 16)) (fun t => t.cf.park == some (.again (.batch none))) = true := by decide

/-! ### The producer -/

/-- A program of one word runs on core 0's producer, with two streams over the scratchpad at 0x80 and 0x100. -/
def producing (w : Word) : State :=
  let p : Producer := { nullProducer with
    team := 0, store := [(0, w)], n := 1, state := 2, x := [(1, 3), (2, 5), (3, 0x40000000)], st0 := ⟨none, 0x80, 0⟩
    st1 := ⟨none, 0x100, 8⟩, tb0 := ⟨[10, 11, 12, 13, 14, 15, 16, 17], 8, true, none⟩, tb1 := ⟨[], 8, false, none⟩, clasp := some 0x40 }
  { queued 0 2 with producers := [(0, p)] }

/-- A PUSH of x1 with its landing bit to queue 3. -/
def pushing (n : Nat) : State := { producing 0x70100103 with teams := (queued 0 n).teams }

/-- Streams: two words of the scratchpad; a line that a copy has not landed; past the scratchpad's end. -/
def absent : State := (producing 0).updTeam 0 (fun t => { t with absent := [(1, 1)] })
def past : State := { producing 0 with producers := [(0, { (producing 0).prod 0 with st0 := ⟨none, 0x8000, 0⟩ })] }

/-- A word of a scratchpad stream that can be read. -/
theorem streamWord_of {s : State} {core : Nat} {x : Stream} {i v : Nat} (hr : x.record = none)
    (h : v < 2 ^ 32 ∧ x.off + 4 * i + 4 ≤ (s.teamOf (s.prod core).team).spSize ∧
      (s.teamOf (s.prod core).team).lineAbsent ((x.off + 4 * i) / 128) = false ∧
      (x.off + 4 * i) / 128 ∉ (s.teamOf (s.prod core).team).badSp ∧
      ∀ j < 4, v / 256 ^ j % 256 = (Map.get 0 (s.teamOf (s.prod core).team).sp (x.off + 4 * i + j)).toNat) :
    StreamWord s core x i v := by
  unfold StreamWord
  simp only [hr]
  exact h

/-- The first stream lies in memory, in a line whose leaf is cached already; or past its record's end; the table bank loads. -/
def streamed (off : Nat) : State :=
  let s : State := { filed with
    producers := [(0, { (producing 0).prod 0 with st0 := ⟨some (rawRec 0x40000 0x1000), off, 0⟩, tb1 := ⟨[], 8, false, some ⟨false, 0, 0, false⟩⟩ })] }
  s.cache 1 0x40000

/-- Queue 3 not set up, and closed. -/
def unqueued : State := (pushing 2).updTeam 0 (fun t => { t with q := [] })
def shut : State := (pushing 2).updTeam 0 (fun t => { t with q := [(3, { t.queue 3 with closed := true })] })

theorem witness_MicroOperations :
    (∀ s ∈ [producing 0, absent, past, pushing 2, pushing 4, unqueued, shut, streamed 0, streamed 0x1000],
      Map.has s.producers s.cur.core = true ∧ (s.prod s.cur.core).busy = true) ∧
    ((∀ i < 2, StreamWord (producing 0) 0 ((producing 0).prod 0).st0 i ([0xA, 0xB].getD i 0)) ∧
      StreamWord (producing 0) 0 ((producing 0).prod 0).st1 0 0) ∧
    (WordAbsent absent 0 (absent.prod 0).st0 0 ∧ WordBeyond past 0 (past.prod 0).st0 0 0x100 0x8000 ∧
      WordBeyond (streamed 0x1000) 0 ((streamed 0x1000).prod 0).st0 0 0x040 0x41000) ∧
    (((producing 0).prod 0).st0.pos % 32 = 0 ∧ ((producing 0).prod 0).st1.pos % 32 ≠ 0) ∧
    ((((producing 0).prod 0).bank false).landed = true ∧ (((producing 0).prod 0).bank false).entries[3 % 8]? = some 13 ∧
      (((producing 0).prod 0).bank true).landed = false ∧ (((producing 0).prod 0).bank true).load = none ∧
      (((streamed 0).prod 0).bank true).load ≠ none) ∧
    ((absent.teamOf 0).spSize < 8 * (0xFFFF : BitVec 16).toNat + 16 ∧ (absent.teamOf 0).claspAbsent 0x40 = [] ∧ (absent.teamOf 0).badSp = [] ∧
      (absent.teamOf 0).lineAbsent (0x80 / 128) = true ∧ 0x90 ≤ (absent.teamOf 0).spSize ∧ (((producing 0).teamOf 0).clasp 0x40).phase = false) ∧
    (∀ s ∈ [pushing 2, pushing 4, unqueued, shut], decodeStream (Map.get 0 (s.prod 0).store (s.prod 0).pc) = some (.push 1 true 3) ∧
      0 ∉ s.pushServed ∧ (s.prod 0).queued = false) ∧
    ((unqueued.ct.queue 3).cfg = false ∧ (shut.ct.queue 3).cfg = true ∧ (shut.ct.queue 3).closed = true) ∧
    (∀ s ∈ [pushing 2, pushing 4], (s.ct.queue 3).cfg = true ∧ (s.ct.queue 3).closed = false ∧ (s.ct.queue 3).poppers = [] ∧
      (s.ct.queue 3).pushers = [] ∧ (s.ct.queue 3).first = none) ∧
    (((pushing 2).ct.queue 3).count < ((pushing 2).ct.queue 3).depth ∧ ((pushing 4).ct.queue 3).depth ≤ ((pushing 4).ct.queue 3).count ∧
      ∀ b < 4, (pushing 2).ct.lineAbsent ((((pushing 2).ct.queue 3).slotAddr ((pushing 2).ct.queue 3).tail + b) / 128) = false) := by
  refine ⟨by decide +kernel, ⟨fun i h => ?_, streamWord_of rfl (by decide)⟩, ⟨?_, Or.inl (by decide), Or.inr ⟨_, rfl, by decide +kernel⟩⟩,
    by decide, by decide +kernel, by decide, by decide, by decide, by decide, by decide⟩
  · have : i = 0 ∨ i = 1 := by omega
    rcases this with rfl | rfl <;> exact streamWord_of rfl (by decide)
  · unfold WordAbsent
    decide

/-- A word of a stream in memory. -/
theorem witness_MicroOperations_memory : StreamWord (streamed 0x10) 0 ((streamed 0x10).prod 0).st0 0 0x44332211 := by
  have hr : ((streamed 0x10).prod 0).st0.record = some (rawRec 0x40000 0x1000) := by decide +kernel
  unfold StreamWord
  simp only [hr]
  refine ⟨by decide, by decide +kernel, by decide +kernel, fun l => by rw [show (streamed 0x10).cLines = [] by decide +kernel]; rfl,
    fun j hj => ⟨0x40000, ?_⟩⟩
  have : j = 0 ∨ j = 1 ∨ j = 2 ∨ j = 3 := by omega
  rcases this with rfl | rfl | rfl | rfl <;> decide +kernel

/-- A conversion under a policy that lets it go on, and one of an infinity under one that faults. -/
theorem witness_MicroOperations_convert :
    (Ty.bits .i8 ≤ 32 ∧ Ty.bits .i32 ≤ 32 ∧ ∀ c, ¬ Faults .i8 .rne 0 (Ty.value .i32 3) c) ∧
      Faults .i8 .rne 0xFF (Ty.value .f32 0x7F800000) .inf := by
  refine ⟨⟨by decide, by decide, fun c => no_faults (by decide)⟩, 0, ?_, by decide⟩
  rw [show Ty.value .f32 0x7F800000 = .inf false by decide]
  rfl

theorem witness_MicroOperations_endp :
    ∀ q < 16, (0x0008 : BitVec 16).getLsbD q = true →
      (((producing 0).teamOf 0).queue q).pushers = [] ∧ (((producing 0).teamOf 0).queue q).poppers = [] ∧
        (((producing 0).teamOf 0).queue q).first = none := by decide

/-- A popper of queue 3 waits for an absent line of its ring. -/
def ringLost : State :=
  (producing 0).updTeam 0 (fun t =>
    { t with absent := [(1, true)], q := [(3, { t.queue 3 with poppers := [⟨some zero, 0, [], 1, [0], 4, 1, false, 0x10000⟩] })] })

theorem witness_MicroOperations_endp_stuck : (ringLost.queueStuck 0 3).isSome = true ∧ (ringLost.prod 0).team = 0 := by decide

def xIs (r : Nat) (x : Word) (t : State) : Bool := (t.prod 0).reg r == x

/-- R256: x4 and x5 from the first stream; eight bits from bit 8; an entry by x1; 3 + 5 shifted by 4; 3 - 1 of a loop that goes on. -/
theorem test_rd : after (execRd 4 false 1 (producing 0)) (fun t => xIs 4 0xA t && xIs 5 0xB t && (t.prod 0).st0.pos == 64) = true := by decide
theorem test_lut : after (execLut 4 1 false (producing 0)) (xIs 4 13) && after (execLut 4 1 true (producing 0)) (fun t =>
    (t.prod 0).state == 3 && (t.prod 0).why == 2) = true := by decide
theorem test_streamAddShift : after (execStreamAddShift 4 1 2 4 (producing 0)) (xIs 4 83) = true := by decide
theorem test_streamAddImm : after (execStreamAddImm 0 1 (-1) (producing 0)) (xIs 0 0) && after (execStreamAddImm 4 1 (-1) (producing 0)) (xIs 4 2) =
    true := by decide
theorem test_streamLoop : after (execStreamLoop 1 0 (producing 0)) (fun t => xIs 1 2 t && (t.prod 0).pc == 0) = true := by decide
theorem test_push :
    after (execPush 1 true 3 (pushing 2)) (fun t => (t.ct.queue 3).tail == 3 && t.ct.spRead 0x88 4 == 3 && t.ct.landings.length == 1) = true := by
  decide
theorem test_endp : after (execEndp 8 (producing 0)) (fun t => (t.ct.queue 3).closed && (t.prod 0).state == 6) = true := by decide

/-- The slot instructions over the producer: the program at 0x40000 is NOP or ENDP words. -/
def program (state team : Nat) (loads : Bool) : State :=
  let b : TableBank := ⟨[], 8, false, if loads then some ⟨false, 0, 0, false⟩ else none⟩
  let p : Producer := { nullProducer with team := team, n := 1, state := state, tb0 := b, st0 := ⟨none, 0x80, 0⟩ }
  let s := filed.setG (fun g => { g with s := [(1, 0x20), (2, 0x8000000000000080), (3, 0x8000000000000100)] })
  { s with producers := if state = 0 then [] else [(0, p)], mem := Map.setBytes s.mem 0x40020 (bytesOfNat 8 0x0000000021000002) }

def pdF : FmtE := { fE 0 8 1 0 0 with imm := 0x103 }
def startF : FmtE := { fE 0 0 2 3 0 with imm := 0x80000040 }
def contF : FmtE := { fE 1 0 0 0 0 with imm := 0 }

/-- Record 3 as an offset in bytes reads it. -/
def byteRec (s : State) : BRec := { s.ct.record 3 with oob := false, strict := true, flat := true }

theorem witness_ProducerIsControlled_load :
    (∀ s ∈ [program 0 0 false, program 1 1 false, program 6 0 false], s.actsAny = true ∧
      issuesB s (.pdload pdF) { reads := [.s 1], writes := [.s 8] } = true ∧
      issuesB s (.pdloadTry { pdF with sub := 1 }) { reads := [.s 1], writes := [.s 8] } = true) ∧
    (Map.has (program 0 0 false).producers 0 = false ∧ ((program 1 1 false).prod 0).team ≠ 0 ∧ ((program 6 0 false).prod 0).busy = false) ∧
    ∃ r, (program 0 0 false).resolveRec (byteRec (program 0 0 false)) 3 0 ⟨1, 4, .read, true⟩ .plain true
        [⟨0, 0x20⟩, ⟨1, 0x24⟩] = .ok r ∧
      (coherentB (program 0 0 false) r && [(⟨0, 0x20⟩ : LaneIx), ⟨1, 0x24⟩].map (fun i =>
        BitVec.ofNat 32 (valueAt (program 0 0 false) (byteRec (program 0 0 false)) 0 r 4 i)) == [0x21000002, 0] &&
        !(microBad 2 0x21000002) && !(microBad 2 0)) = true :=
  ⟨by decide, by decide, resolves (by decide)⟩

theorem witness_ProducerIsControlled_run :
    (∀ s ∈ [program 0 0 false, program 1 0 false, program 2 0 false, program 4 0 false],
      issuesB s (.pdstart startF) { reads := [.s 2, .s 3] } = true ∧
      issuesB s (.pdstartCont contF) { reads := [.s 0, .s 0] } = true ∧ issuesB s .pdstop {} = true ∧ issuesB s .pdstopRel {} = true ∧
      issuesB s (.pdstat (fE 0 8 0 0 0)) { writes := [.s 8] } = true) ∧
    ((program 2 0 false).prod 0).busy = true ∧ ((program 1 0 false).prod 0).busy = false ∧ ((program 4 0 false).prod 0).state = 4 ∧
    (let s := program 1 0 false
     streamBad s.ct (s.cg.ureg 2) = false ∧ streamBad s.ct (s.cg.ureg 3) = false ∧ s.cg.ureg 0 = 0 ∧ startF.imm.getLsbD 31 = true ∧
      (startF.imm.extractLsb' 0 19).toNat = 0x40 ∧ 0x50 ≤ s.ct.spSize ∧ (s.prod 0).queued = false ∧ 0 ∉ s.pushServed ∧
      (s.prod 0).tb0.load = none ∧ (s.prod 0).tb1.load = none) := by decide

/-- A table load whose stream is there, and one whose stream ends outside the scratchpad. -/
def tableGone : State := { program 2 0 true with producers := [(0, { (program 2 0 true).prod 0 with st0 := ⟨none, 0x8000, 0⟩ })] }

theorem witness_ProducerIsControlled_table :
    (∀ s ∈ [program 2 0 true, tableGone], Map.has s.producers 0 = true ∧ ((s.prod 0).bank false).load = some ⟨false, 0, 0, false⟩) ∧
    (∀ i < 8, StreamWord (program 2 0 true) 0 ((program 2 0 true).prod 0).st0 i 0) ∧
    WordBeyond tableGone 0 (tableGone.prod 0).st0 0 0x100 0x8000 ∧
    (let p := tableGone.prod 0
     (p.bank false).size ≠ 0 ∧ (p.bank true).load = none ∧ p.queued = false ∧ p.pushed = [] ∧ (tableGone.groupAt p.team p.group).alive = true ∧
      (tableGone.groupAt p.team p.group).held = []) :=
  ⟨by decide, fun i h => by interval_cases i <;> exact streamWord_of rfl (by decide), Or.inl (by decide), by decide⟩

theorem test_pdload :
    after (execPdload pdF (program 0 0 false)) (fun t => uniIs 8 0 t && (t.prod 0).n == 2 && Map.get 0 (t.prod 0).store 0 == 0x21000002 &&
      (t.prod 0).state == 1) = true := by decide +kernel
theorem test_pdstart : after (execPdstart startF (program 1 0 false)) (fun t => (t.prod 0).state == 2 && (t.prod 0).clasp == some 0x40) = true := by
  decide
theorem test_pdstop : after (execPdstop (program 2 0 false)) (fun t => (t.prod 0).state == 4) &&
    after (execPdstopRel (program 2 0 false)) (fun t => t.producers.isEmpty) = true := by decide
theorem test_pdstat : after (execPdstat (fE 0 8 0 0 0) (program 4 1 false)) (uniIs 8 5) &&
    after (execPdstat (fE 0 8 0 0 0) (program 4 0 false)) (uniIs 8 4) = true := by decide

/-! ## The in-bank executor (R329 to R355) -/

/-- Row 1 of bank 0 of the four bank groups of die 0's pseudo-channel 0 (R330). -/
def theRow (g : Nat) : Nat := 0x4000 + 4 * g

/-- Those rows in stripe frames, in-bank; record 3 over them; a session of pseudo-channel 0 with one word and a queue. -/
def banked (word : Word) (queue : List BankOp) (error : Option (BitVec 9)) (opened : Bool) : State :=
  let s := (filed.setG (fun g =>
    { g with s := [(1, 1), (4, 1024), (8, 1), (12, 0x20)], v := [(64, 0x3F800000), (69, 0x40000000)] })).updTeam 0
    (fun t => { t with bf := [(3, rawRec 0x1000000 0x1000), (4, rawRec 0x40000 0x1000)] })
  let bgus : Map Bgu := (List.range 4).map (fun g =>
    (g, ⟨[(0, BitVec.ofNat 512 0x3F80)], [(0, 0x40000000)], [], [], [], if opened then [(0, theRow g)] else []⟩))
  let x : Session := ⟨0, 0, 0, 1, [(0, word)], [], 0, [(1, 2)], 0, 0, bgus, queue, 0, error⟩
  { s with
    sessions := [x]
    stripe := (List.range 4).map (fun g => (0x1000 + g, true))
    rowOwner := (List.range 4).map (fun g => (theRow g, true))
    mem := Map.setBytes s.mem 0x1000000 [0x40, 0x40, 0x80, 0x3F] }

/-- No session yet; another group's over the same pseudo-channel. -/
def unbanked : State := { banked 0 [] none false with sessions := [] }
def contested : State :=
  { banked 0 [] none false with sessions := [⟨0, 1, 0, 1, [], [], 0, [], 0, 0, [], [], 0, none⟩] }

/-- A fence over the first of the rows, which is load-store before it. -/
def fenceF : FmtM := { fM .n8 4 3 0 0 with ix := 2 }
def fenced (out : Bool) : State :=
  let s := unbanked.setF (fun f => { f with park := some .bankFence })
  { s with bankFences := [⟨zero, out, 0x21, [0x1000], [0x4000]⟩] }
def inFenced : State := { fenced false with rowOwner := [] }
def plainFenced : State := { inFenced with stripe := [] }

theorem witness_RowsAndSessions_fences :
    (unbanked.actsAny = true ∧ fenceF.ix ≠ 1 ∧ issuesB unbanked (.ibfenceIn fenceF) { reads := [.s 4] } = true ∧
      issuesB unbanked (.ibfenceOut fenceF) { reads := [.s 4] } = true) ∧
    ((unbanked.ct.record 3).mode = .raw ∧ (unbanked.cg.ureg 4).toNat = 1024 ∧ (unbanked.ct.record 3).base % 1024 = 0 ∧
      1024 ≤ (unbanked.ct.record 3).extent ∧ (unbanked.ct.record 3).base + 1024 ≤ 2 ^ 57 ∧
      (unbanked.ct.record 3).extent < 4096 + 1024) ∧
    (okB (unbanked.translate 1 false .write 0x1000000) (· == .loc 0x1000000) = true ∧ unbanked.compressed 0x1000000 = false ∧
      Map.get false unbanked.stripe 0x1000 = true) ∧
    (issuesB unbanked (.ibfenceIn { fenceF with d := 1 }) { reads := [.s 1] } = true ∧ (unbanked.cg.ureg 1).toNat % 1024 ≠ 0 ∧
      issuesB unbanked (.ibfenceIn { fenceF with off := 0x1000 }) { reads := [.s 4] } = true ∧
      (unbanked.ct.record 3).extent < 0x1000 + 1024) ∧
    (let s : State := { unbanked with stripe := [] }
     issuesB s (.ibfenceIn fenceF) { reads := [.s 4] } = true ∧ Map.get false s.stripe (0x1000000 / 4096) = false ∧
      ¬ 0x1000000 + 4096 ≤ 0x1000000 + 1024) ∧
    (∀ s ∈ [inFenced, plainFenced], s.bankFences.find? (fun y => y.ref == zero && y.out == false) = some ⟨zero, false, 0x21, [0x1000], [0x4000]⟩ ∧
      s.compressed (4096 * 0x1000) = false ∧ ∀ l ∈ s.locks, l.1 / 1024 ∉ [0x4000]) ∧
    (Map.get false inFenced.stripe 0x1000 = true ∧ Map.get false plainFenced.stripe 0x1000 = false ∧ 4 * 0x1000 + 1 ∉ [0x4000]) ∧
    (fenced true).bankFences.find? (fun y => y.ref == zero && y.out == true) = some ⟨zero, true, 0x21, [0x1000], [0x4000]⟩ := by decide

def sessF (d : BitVec 8) : FmtE := fE 0 d 8 0 0

/-- A parked opener whose pseudo-channels are free; a group with no lane left, and a team that is frozen, with a session. -/
def parkedOpener : State := { unbanked with openers := [⟨zero, 0, 1⟩] }
def deserted : State := (banked 0 [] none false).setG (fun g => { g with exited := g.owned })
def iced : State := (banked 0 [.steps 3 0x10000] none false).updTeam 0 (fun t => { t with status := .frozen })

theorem witness_RowsAndSessions_sessions :
    (∀ s ∈ [unbanked, contested, banked 0 [] none false], s.actsAny = true ∧ issuesB s (.ibsess (sessF 0)) { reads := uregs 8 4 } = true ∧
      issuesB s (.ibsessTry (sessF 3)) { reads := uregs 8 4, writes := [.p 3] } = true ∧ issuesB s .ibend {} = true) ∧
    (unbanked.cg.ureg 11 ++ unbanked.cg.ureg 10 ++ unbanked.cg.ureg 9 ++ unbanked.cg.ureg 8 : BitVec 256) = 1 ∧
    (unbanked.session 0 0 = none ∧ contested.session 0 0 = none ∧ ((banked 0 [] none false).session 0 0).isSome ∧
      unbanked.sessions = [] ∧ unbanked.openers = [] ∧ contested.sessions.any (fun x => x.die == 0 && x.mask &&& 1 != 0) = true) ∧
    (∀ q ∈ [([] : List BankOp), [.steps 3 0x10000]], ((banked 0 q none false).session 0 0).map (·.queue) = some q ∧
      issuesB (banked 0 q none false) .ibend {} = true) ∧
    (parkedOpener.openers = [] ++ ⟨zero, 0, 1⟩ :: [] ∧ parkedOpener.sessions = [] ∧ parkedOpener.session 0 0 = none) ∧
    ((deserted.session 0 0).isSome ∧ Map.has deserted.teams 0 = true ∧ (deserted.groupAt 0 0).alive = false) ∧
    ((iced.session 0 0).isSome ∧ (iced.teamOf 0).status = .frozen) ∧
    ((contested.teamOf 0).status ≠ .frozen ∧ (contested.groupAt 0 0).alive = true) := by decide

/-- R334 to R336, R338 to R340. -/
theorem test_ibfence :
    after (execIbfenceIn fenceF unbanked) (fun t => t.bankFences.map (·.rows) == [[0x4000]] && t.cf.park == some .bankFence) = true := by
  decide +kernel
theorem test_ibfence_split :
    after (execIbfenceIn fenceF { unbanked with stripe := [], ctxs := hand.ctxs, mem := hand.mem }) (fun t =>
      t.cg.tfReg 0x470 == 0x1784 && t.cg.tfReg 0x473 == 0 && t.cg.tfReg 0x472 == 0x21) = true := by decide +kernel
theorem test_ibfenceInFlip :
    after (execIbfenceInFlip zero inFenced) (fun t => Map.get false t.rowOwner 0x4000 && t.cf.park == none && t.cf.pc == 0x10001) = true := by
  decide +kernel
theorem test_ibfenceOutFlip :
    after (execIbfenceOutFlip zero (fenced true)) (fun t => !Map.get false t.rowOwner 0x4000 && Map.get false t.dirty 0x1000) = true := by
  decide +kernel
theorem test_ibsess : after (execIbsess (sessF 0) unbanked) (fun t => (t.session 0 0).map (·.mask) == some 1) &&
    after (execIbsess (sessF 0) contested) (fun t => t.cf.park == some .opener && t.openers.length == 1) &&
    after (execIbsessTry (sessF 3) contested) (fun t => predIs 3 0 t && t.openers.isEmpty) = true := by decide
theorem test_ibend : after (execIbend (banked 0 [] none false)) (fun t => t.sessions.isEmpty) &&
    after (execIbend (banked 0 [.steps 3 0x10000] none false)) (fun t => t.cf.park == some .bankTurn) = true := by decide

/-! ### Session instructions -/

def progF : FmtE := { fE 0 0 12 0 0 with imm := 0x104 }
def vecF : FmtE := fE 0 0 1 0 0
def scaleF : FmtE := fE 0 0 1 0 0
def scaleUF : FmtE := fE 1 0 1 0 0
def stepF : FmtE := fE 0 0 0 0 7
def stepRF : FmtE := fE 1 0 1 0 0
def readF : FmtE := fE 0 16 1 0 0
def statF : FmtE := fE 0 16 0 0 0

/-- The lane indexes stay below a session's BGUs. -/
def lowLane (s : State) : State := s.setF (fun f => { f with om := 1, em := 1 })

theorem witness_SessionInstructions :
    (∀ s ∈ [unbanked, banked 0 [] none false, banked 0 [.steps 3 0x10000] none false, banked 0 [] (some 0x185) false],
      s.actsAny = true ∧ issuesB s (.ibprog progF) { reads := [.s 12] } = true ∧ issuesB s (.ibvec vecF) { reads := [.v 1] } = true ∧
      issuesB s (.ibscale scaleF) { reads := [.v 1, .s 0] } = true ∧ issuesB s (.ibscaleU scaleUF) { reads := [.s 1] } = true ∧
      issuesB s (.ibstep stepF) {} = true ∧ issuesB s (.ibstepReg stepRF) { reads := [.s 1] } = true ∧
      issuesB s (.ibread readF) { reads := [.s 1], writes := vregs 16 (64 / s.ct.width) } = true ∧
      issuesB s (.ibstat statF) { writes := [.s 16] } = true) ∧
    (∀ q ∈ [([] : List BankOp), [.steps 3 0x10000]], ∃ x, (banked 0 q none false).session 0 0 = some x ∧ x.error = none ∧
      (∀ op ∈ x.queue.head?, ∃ n c, op = .steps (n + 1) c) ∧ x.queue = q ∧ x.pending + 7 < 2 ^ 40 ∧ 1 < x.bguCount) ∧
    ((banked 0 [] none false).ct.width = 32 ∧ (lowLane (banked 0 [] none false)).lanes = [0]) := by
  refine ⟨by decide, ?_, by decide⟩
  intro q hq
  simp only [List.mem_cons, List.not_mem_nil, or_false] at hq
  rcases hq with rfl | rfl
  · exact ⟨_, rfl, rfl, by simp, rfl, by decide, by decide⟩
  · exact ⟨_, rfl, rfl, by simp, rfl, by decide, by decide⟩

/-- The words that `ibprog` reads: MAC and NOP. -/
def programmed : State :=
  let s := banked 0 [] none false
  { s with mem := Map.setBytes s.mem 0x40020 (bytesOfNat 4 0x1C000000) }

theorem witness_SessionInstructions_prog :
    (programmed.cg.ureg 12).toNat % 4 = 0 ∧ programmed.cf.sent = [] ∧
    let bf := { programmed.ct.record 4 with oob := false, strict := true, flat := true }
    ∃ r, programmed.resolveRec bf 4 0 ⟨1, 4, .read, true⟩ .plain true [⟨0, 0x20⟩, ⟨1, 0x24⟩] = .ok r ∧
      (coherentB programmed r && [(⟨0, 0x20⟩ : LaneIx), ⟨1, 0x24⟩].map (fun i =>
        BitVec.ofNat 32 (valueAt programmed bf 0 r 4 i)) == [0x1C000000, 0] &&
        !bankWordBad 2 0x1C000000 && !bankWordBad 2 0) = true :=
  ⟨by decide, by decide, resolves (by decide +kernel)⟩

def sessIs (k : Session → Bool) (t : State) : Bool :=
  match t.session 0 0 with
  | some x => k x
  | none => false

theorem test_ibprog : after (execIbprog progF programmed) (sessIs (fun x => x.store == [(0, 0x1C000000)])) = true := by decide +kernel
theorem test_ibvec : after (execIbvec vecF (banked 0 [] none false)) (sessIs (fun x =>
    Map.get 0 (x.bgu 3).bv 0 == BitVec.ofNat 512 (0x3F800000 + 0x40000000 * 2 ^ 160))) = true := by decide +kernel
theorem test_ibscaleU : after (execIbscaleU scaleUF (banked 0 [] none false)) (sessIs (fun x => Map.get 0 (x.bgu 2).sc 0 == 1)) = true := by decide
theorem test_ibread : after (execIbread readF (banked 0 [] none false)) (fun t => laneIs 16 0 0x40000000 t && laneIs 17 5 0 t) = true := by
  decide
theorem test_ibstep : after (execIbstep stepF (banked 0 [] none false)) (sessIs (fun x => x.queue == [.steps 7 0x10000])) = true := by decide
theorem test_ibstat : after (execIbstat statF (banked 0x60000000 [] none false)) (uniIs 16 3) &&
    after (execIbstat statF (banked 0 [.steps 2 0x10000] none false)) (uniIs 16 0x2000002) = true := by decide

/-! ### Commands and errors -/

/-- A session about to step a command. -/
def stepping (cmd : BguCmd) (opened : Bool) : State := banked (encodeBgu cmd) [.steps 3 0x10000] none opened

theorem witness_CommandsStep :
    (∀ cmd ∈ [BguCmd.nop, .halt, .col 5, .setc 1 7, .incr 1 7, .loop 1 9, .nextb, .openRow false 0 false 0 1, .zacc 1,
        .mac true false 0 0 0, .macx true false 0 0 0 false, .ldbv true 2, .stacc true false false 0, .stacc true true true 0],
      ((stepping cmd true).session 0 0).any (fun x => x.queue == [.steps (2 + 1) 0x10000] &&
        decodeBgu (Map.get 0 x.store x.pc) == some cmd && x.badWords.isEmpty && x.bguCount == 4 &&
        (List.range 4).all (fun g => (x.bgu g).bad.isEmpty)) = true) := by decide

/-- The columns that its BGUs refer to: distinct lines, which can be read. -/
theorem witness_CommandsStep_columns :
    let s := stepping .nop true
    (∀ g < 4, rowAddr 0 0 g 0 1 / 1024 = theRow g ∧ Map.get false s.rowOwner (theRow g) = true ∧
      s.columnLine (theRow g) 0 = theRow g * 1024 ∧ theRow g * 1024 ∉ s.badLines ∧ theRow g * 1024 % 64 = 0) ∧
    ∀ x, s.session 0 0 = some x → ∀ g < 4, Map.find (x.bgu g).opened x.bank = some (theRow g) := by
  refine ⟨by decide, ?_⟩
  intro x h
  injection h with h
  subst h
  decide

def stepTo (k : Session → Bool) (s : State) : Bool := after (execIbStep 0 0 s) (sessIs k)

/-- R343: 2 + 3 × 1 (the column's first bf16 is 3); the loop counter 2 becomes 1; the column after 0. -/
theorem test_mac : stepTo (fun x => Map.get 0 (x.bgu 0).acc 0 == 0x40A00000 && x.col == 1 && x.pc == 1) (stepping (.mac true false 0 0 0) true) = true := by
  decide +kernel
theorem test_loop_counter : stepTo (fun x => Map.get 0 x.c 1 == 1 && x.pc == 9) (stepping (.loop 1 9) true) = true := by decide
theorem test_openRow :
    stepTo (fun x => Map.find (x.bgu 3).opened 0 == some 0x400C && x.col == 0) (stepping (.openRow false 0 false 0 1) false) = true := by decide
theorem test_stacc :
    after (execIbStep 0 0 (stepping (.stacc false false false 0) true)) (fun t => t.byteAt 0x1000003 == 0x40 && t.byteAt 0x1000000 == 0) = true := by
  decide +kernel

/-- Without an open row; with a bad copy of the word; with the watchdog set. -/
def closed : State := stepping (.ldbv false 0) false
def miscopied : State :=
  let s := stepping .nop true
  { s with sessions := s.sessions.map (fun x => { x with badWords := [(2, 0)] }) }
def watched : State := { (stepping .nop true).setPreg 0x820 10 with now := 1000 }

/-- The rows of all units but the first are open; a column that has failed. -/
def partOpen : State :=
  let s := stepping (.ldbv false 0) true
  { s with sessions := s.sessions.map (fun x =>
      { x with bgus := x.bgus.map (fun p => if p.1 = 0 then (0, { p.2 with opened := [] }) else p) }) }
def failing : State := { stepping (.ldbv false 0) true with badLines := [theRow 0 * 1024] }

theorem witness_SessionErrors :
    (∀ s ∈ [closed, miscopied, watched, partOpen, failing], ((s.session 0 0).map (·.queue) = some [.steps 3 0x10000]) ∧
      (s.groupAt 0 0).alive = true ∧ (s.groupAt 0 0).held = [] ∧ Map.has s.teams 0 = true) ∧
    ((miscopied.session 0 0).map (·.badWords) = some [(2, 0)] ∧ ((watched.session 0 0).map (·.mask)) = some 1) ∧
    (∀ s ∈ [partOpen, failing], (s.session 0 0).any (fun x => decodeBgu (Map.get 0 x.store x.pc) == some (.ldbv false 0) &&
      x.badWords.isEmpty && x.bguCount == 4 && [1, 2, 3].all (fun g => Map.find (x.bgu g).opened x.bank == some (theRow g)) &&
      Map.find (x.bgu 0).opened x.bank == if s.badLines = [] then none else some (theRow 0)) = true) ∧
    (∀ g < 4, Map.get false failing.rowOwner (theRow g) = true ∧ failing.columnLine (theRow g) 0 = theRow g * 1024 ∧
      (theRow g * 1024 ∈ failing.badLines ↔ g = 0)) ∧
    (field (watched.preg 0x820) 31 0 = 10 ∧ 33 * 10 ≤ 10 * (watched.now - 0)) ∧ 10 * (closed.now - 0) < 33 * field (closed.preg 0x820) 31 0 := by
  decide

theorem test_closed_bank : stepTo (fun x => x.error == some 0x185 && x.queue.isEmpty && x.pc == 0 && (x.bgu 1).invalid.length == 64) closed = true := by
  decide
theorem test_bad_word : stepTo (fun x => x.error == some 0x182) miscopied = true := by decide
theorem test_watchdog : after (execIbWatchdogExpiry 0 0 0 watched) (fun t =>
    sessIs (fun x => x.error == some 0x181) t && t.preg 0x821 == 0x0001000000000000) = true := by decide

/-! ## The fabric (R357 to R381) -/

/-- Packages 0 to 2 of a domain of 4 are the view of change count 1, package 0's; the group has acknowledged it; fabric context 5 of
context 1 has its communicator table at 0x50000, whose entry 2 names all three. -/
def viewTag : Tag := tagOf 7 1

def entryBytes : List Byte := bytesOfNat 64 (7 + 1 * 2 ^ 288 + 0x10000 * 2 ^ 384)

def member : State :=
  let s := { tiled with view := some (7, viewTag) }.setPreg 0x830 0x40000
  let s := (s.setPreg 0x832 8).setG (fun g => { g with ackTag := viewTag, s := [(1, 2), (2, 0x200), (3, 1), (5, 0x0000004000000200)] })
  let s := s.updCtx 1 (fun c => { c with sregs := c.sregs ++ [(0x440, 0x50005)] })
  { s with mem := Map.setBytes s.mem 0x50000 (List.replicate 128 0 ++ entryBytes) }

/-- Package 1's part as member 0 holds it: the tile register m0 with a clasp at 0x40, landing at 0x200. -/
def collF : FmtE := { fE 0 0 1 5 0 with bt := 4 }
def barF : FmtE := fE 0 0 1 5 0
def castF : FmtE := { fE 0 0 1 5 0 with bt := 4, imm := 0x10 }
def out : State := { member with excluded := true }
def tableless : State := member.setPreg 0x832 0
def farEntry : State := member.setG (fun g => { g with s := [(1, 99), (5, 0x0000004000000200)] })
def noQueue : State := member.updTeam 0 (fun t => { t with copyq := 0 })

def collInstr : CollKind → FmtE → Instr
  | .allred, f => .collAllred f
  | .redscat, f => .collRedscat f
  | .allgath, f => .collAllgath f
  | .bcast, f => .collBcast f
  | .barrier, f => .collBarrier f

/-- The range misaligned, and past the scratchpad's end; no copy-queue entry left. -/
def askew : State := member.setG (fun g => { g with s := [(1, 2), (5, 0x0000004000000210)] })
def tooFar : State := member.setG (fun g => { g with s := [(1, 2), (5, 0x0000004000080000)] })
def fullColl : State :=
  { member.updTeam 0 (fun t => { t with copyq := 1 }) with copies := [(5, { nullCopy with team := 0, group := 0, kind := .load })], nextCopy := 6 }

theorem witness_CollectivesIssue_stops :
    (∀ s ∈ [out, tableless, farEntry, noQueue], s.actsAny = true ∧
      ∀ p ∈ [(CollKind.allred, collF), (.redscat, collF), (.allgath, collF), (.bcast, castF), (.barrier, barF)],
        issuesB s (collInstr p.1 p.2) { reads := [.s 1, .s 5] } = true) ∧
    (out.excluded = true ∧ tableless.viewStop = none ∧ farEntry.viewStop = none ∧ noQueue.viewStop = none) ∧
    (noQueue.ct.copyq = 0 ∧ farEntry.ct.copyq ≠ 0 ∧ (member.ct.tile 4).en = true ∧ (member.ct.tile 15).en = false ∧
      field (tableless.preg 0x832) 4 0 = 0 ∧ field (farEntry.preg 0x832) 4 0 ≠ 0 ∧ 64 ≤ (farEntry.cg.ureg 1).toNat) := by decide +kernel

theorem witness_CollectivesIssue :
    (∀ s ∈ [member, askew, tooFar, fullColl],
      (∀ p ∈ [(CollKind.allred, collF), (.redscat, collF), (.allgath, collF), (.bcast, castF), (.barrier, barF),
          (.bcast, { castF with imm := 0x30 })], issuesB s (collInstr p.1 p.2) { reads := [.s 1, .s 5] } = true) ∧
        s.actsAny = true ∧ s.viewStop = none ∧ s.cf.sent = [] ∧ s.cLines = [] ∧ s.early = [] ∧
        4096 * field (s.cc.sreg 0x440) 56 12 + 64 * (s.cg.ureg 1).toNat = 0x50080 ∧
        okB (s.translate s.ct.ctx (!s.cg.sys) .read 0x50080) (· == .loc 0x50080) = true ∧ s.reach 0x50080 false = .ok ∧
        Map.bytes s.mem 0x50080 64 = entryBytes ∧ s.ct.copyq ≠ 0 ∧ field (s.preg 0x832) 4 0 ≠ 0 ∧ (s.cg.ureg 1).toNat < 64) ∧
    (entryFreeB member = true ∧ UnitsFree member ⟨(member.ct.tile 4).units, []⟩ ∧ UnitsFree member ⟨[], []⟩) ∧
    ((askew.cg.ureg 5).extractLsb' 0 32).toNat % 128 ≠ 0 ∧
    (((tooFar.cg.ureg 5).extractLsb' 0 32).toNat % 128 = 0 ∧ tooFar.ct.spSize < ((tooFar.cg.ureg 5).extractLsb' 0 32).toNat) ∧
    (fullColl.entriesFree 0 = 0 ∧ fullColl.ct.granted = []) ∧ (7 : BitVec 288).getLsbD 3 = false :=
  ⟨by decide +kernel, ⟨by decide, free_of (by decide), free_of (by decide)⟩, by decide, by decide, by decide, by decide⟩

/-- The entry passes its checks; the range ends inside the scratchpad. -/
theorem witness_CollectivesIssue_good :
    let live := BitVec.ofNat 288 (natOfBytes (entryBytes.take 36)) &&& member.members
    live = 7 ∧ natOfBytes ((entryBytes.drop 36).take 4) % 2 = 1 ∧ live.getLsbD member.selfPkg = true ∧ (member.ct.tile 4).ty = .f32 ∧
      live.getLsbD 1 = true ∧ 2 * 3 * 16 ≤ natOfBytes ((entryBytes.drop 48).take 8) ∧ 0x200 % 128 = 0 ∧ 0x40 % 8 = 0 ∧
      0x200 + 192 + 64 ≤ member.ct.spSize := by decide +kernel

theorem test_collAllred :
    after (execCollAllred collF member) (fun t => t.colls.length == 1 && t.ct.lineAbsent 4 && !t.ct.lineAbsent 6 && t.cf.pc == 0x10001) = true := by
  decide +kernel
theorem test_coll_excluded :
    after (execCollBarrier barF { out with ctxs := hand.ctxs, mem := hand.mem }) (fun t => t.cg.tfReg 0x470 == 0x17C2) = true := by
  decide +kernel

/-- A collective in flight over two f32 numbers in one row, members 0 to 2. -/
def coll (kind : CollKind) : Coll where
  kind := kind
  rop := 0
  policy := 1
  root := 1
  team := 0
  group := 0
  addr := 0x10000
  tag := viewTag
  members := 7
  live := 7
  ty := .f32
  rows := 1
  bytes := bytesOfNat 4 0x3F800000
  sp := 0x200
  clasp := 0x40
  got := [(0, bytesOfNat 4 0x3F800000), (1, bytesOfNat 4 0x40000000), (2, bytesOfNat 4 0x40400000)]
  arrived := 7
  first := some 0
  restarted := false
  failed := false
  stores := []
  result := none

def inColl (c : Coll) : State := { member with colls := [(9, c)], nextColl := 10 }

/-- The wait for the late ones is over. -/
def lateColl : State := { inColl { coll .allred with got := [(0, bytesOfNat 4 0x3F800000)] } with now := 330000 }

theorem witness_CollectivesComplete :
    (∀ k ∈ [CollKind.allred, .redscat, .allgath, .bcast, .barrier],
      Map.find (inColl (coll k)).colls 9 = some (coll k) ∧ ((inColl (coll k)).teamOf 0).status = .resident ∧
      (coll k).live &&& ~~~(coll k).arrived = 0 ∧
      (∀ p < 288, (coll k).live.getLsbD p = true → Map.has (coll k).got p = true) ∧
      (∀ p ∈ [0, 1, 2], (coll k).live.getLsbD p = true) ∧ (coll k).got.all (fun x => x.2.length == 4) = true ∧
      (coll k).bytes.length % ((coll k).ty.bits / 8) = 0 ∧ (coll k).bytes.length % (coll k).rows = 0 ∧ (coll k).failed = false ∧
      (coll k).first = some 0) ∧
    member.selfPkg = 0 ∧
    ((Map.find lateColl.colls 9).map (·.policy) = some 1 ∧ field (lateColl.preg 0x833) 31 0 = 100 ∧ 0 + 3300 * 100 ≤ lateColl.now) ∧
    (Map.find (inColl { coll .allred with got := [(0, [])] }).colls 9 = some { coll .allred with got := [(0, [])] } ∧
      Map.has [(0, ([] : List Byte))] 1 = false) ∧
    (field (member.preg 0x833) 31 0 = 100 ∧ member.now < 0 + 3300 * 100) := by decide +kernel

theorem witness_CollectivesComplete_messages :
    (Current member viewTag ∧ (5 : Tag) ≠ member.tag ∧ member.accepted = none) ∧
    (Current (inColl (coll .allred)) viewTag ∧ Map.find (inColl (coll .allred)).colls 11 = none ∧
      Map.find (inColl (coll .allred)).colls 4 = none ∧ (inColl (coll .allred)).nextColl = 10) ∧
    (({ coll .allred with result := some ⟨7, bytesOfNat 4 0, 0, viewTag⟩ }).result.isSome = true ∧
      (bytesOfNat 4 0).length = resultSize .allred (coll .allred).members 0 (coll .allred).rows (coll .allred).bytes.length ∧
      ({ coll .allred with failed := true }).failed = true) ∧
    (Map.find (inColl (coll .allred)).colls 9 = some (coll .allred) ∧ (coll .allred).live.getLsbD 1 = true) ∧
    (let c := { coll .allred with got := [] }
     c.result = none ∧ c.gathers 0 = true ∧ Map.has c.got 1 = false ∧ (bytesOfNat 4 7).length = c.bytes.length) ∧
    (let c := { coll .allred with live := 6, members := 6 }
     c.gathers 2 = false ∧ c.reducer = 1 ∧ (bytesOfNat 4 7).length = c.size 2) := by
  unfold Current
  decide +kernel

/-- R377: 1 + 2 + 3, its mask and count in the trailer. -/
theorem test_collective_sum :
    after (execCollectiveComplete 9 (inColl (coll .allred))) (fun t =>
      t.ct.spRead 0x200 4 == 0x40C00000 && t.ct.spRead 0x240 36 == 7 && t.ct.spRead 0x264 2 == 3 && t.colls.isEmpty) = true := by decide +kernel
/-- R198: the data of a collective end the failure of a line that they write whole; R376: a failed one has status 2. -/
theorem test_collective_heals :
    after (execCollectiveComplete 9 { inColl { coll .allgath with got := (List.range 3).map (fun p => (p, List.replicate 64 1)), bytes := zeros 64 } with
        teams := (member.updTeam 0 (fun t => { t with badSp := [4, 6] })).teams }) (fun t => t.ct.badSp == [6]) = true := by decide +kernel
theorem test_collective_failed :
    after (execCollectiveComplete 9 (inColl { coll .allred with failed := true })) (fun t => t.ct.spRead 0x266 1 == 2) = true := by
  decide +kernel
theorem test_straggler :
    after (execCollectiveStragglerTimeout 9 lateColl) (fun t =>
      (Map.find t.colls 9).map (·.result) == some (some ⟨1, bytesOfNat 4 0x3F800000, 0, viewTag⟩)) = true := by decide +kernel

/-! ### Messages -/

def request (posted : Bool) : Req := ⟨zero, 0x10000, posted, none, 1, 0x40000, 0x40000, viewTag, ⟨0, 3⟩, 0, 0, .write [(0, 1)], [], none, 0, false⟩
def asking (posted : Bool) : State :=
  { (member.setF (fun f => { f with sent := if posted then [] else [3] })) with reqs := [(3, request posted)], nextReq := 4 }

/-- A proposal is accepted; a request has been answered already; the row is in-bank; the line is a copy's own, and a request waits there. -/
def promised : State := { member with accepted := some ⟨0, 3, 2⟩ }
def answered : State := { member with replies := [(requester 1 ⟨0, 3⟩, [(3, homeOf 0x40000, .done)])] }
def bankMember : State := { banked 0 [] none false with view := some (7, viewTag) }
def lockedLine : State := { member with locks := [(0x40000, 5)] }
def queuedReq : State := { lockedLine with pendingReqs := [⟨1, ⟨0, 7⟩, 0x40000, .read⟩] }

/-- A request that has waited for 8 microseconds, where one port is up. -/
def late (port : Nat) : State := { asking false with now := 26400, ports := [(port, ⟨true, true, false, 0⟩)] }

/-- Port 4 is up, with the extensions, when a heartbeat is due. -/
def ported : State := { member with ports := [(4, ⟨true, true, false, 0⟩)], now := 165000000 }

theorem witness_MessagesArrive :
    (Current member viewTag ∧ ¬ Current member 5 ∧ member.accepted = none ∧ member.pendingReqs = [] ∧
      promised.accepted.map (·.tag) = some (tagOf 3 2) ∧ ¬ Current promised (tagOf 3 2) ∧ tagOf 3 2 ≠ 5) ∧
    (Current bankMember viewTag ∧ Current lockedLine viewTag ∧ Current queuedReq viewTag) ∧
    ((∀ w, lockedLine.reach 0x40000 w = .wait ∧ queuedReq.reach 0x40000 w = .wait) ∧ lockedLine.pendingReqs = [] ∧
      queuedReq.pendingReqs = [⟨1, ⟨0, 7⟩, 0x40000, .read⟩] ∧ queuedReq.replies = [] ∧ bankMember.replies = [] ∧
      0x1000000 < bankMember.frameEnd) ∧
    (Map.find ported.ports 4 = some ⟨true, true, false, 0⟩ ∧ (ported.beat + 3300 * field (ported.preg 0x831) 15 0 ≤ ported.now) ∧
      (member.now < member.beat + 3300 * field (member.preg 0x831) 15 0)) ∧
    (ported.extFrom 1 = some 4 ∧ ¬ Current ported 5 ∧ ported.accepted = none) ∧
    ((request false).time + 8 * 3300 ≤ 26400 ∧ (request false).reply = none ∧ (asking false).now < (request false).time + 8 * 3300) ∧
    (member.bringUp < 2 ∧ 2 ≤ ({ member with bringUp := 6 } : State).bringUp) ∧
    (member.ctxs.find? (fun c => field (c.2.sreg 0x440) 11 0 == 5)).map (·.1) = some 1 ∧
    ((0x40000 % 64 = 0) ∧ member.replies = [] ∧ member.compressed 0x40000 = false ∧
      0x40000 < member.frameEnd ∧ Map.find member.cLines (0x40000 / 64) = none ∧ (∀ w, member.reach 0x40000 w = .ok)) ∧
    (∀ w, bankMember.reach 0x1000000 w = .inBank) ∧
    (Map.find (asking false).reqs 3 = some (request false) ∧ (asking false).awaited 3 (request false) = true) ∧
    ((asking true).awaited 3 (request true) = false ∧ Map.has (asking true).teams 0 = true ∧ ((asking true).groupAt 0 0).alive = true ∧
      ((asking true).groupAt 0 0).held = []) := by
  unfold Current
  decide

/-- A request sent again through its own port, through the one that works, and where none does. -/
theorem witness_MessagesArrive_ports :
    (∀ k ∈ [0, 4, 30], Map.find (late k).reqs 3 = some (request false) ∧ (request false).time + 8 * 3300 ≤ (late k).now ∧
      ((late k).reqs.map (·.1)).Nodup) ∧
    ((request false).port = 0 ∧ (Map.get ⟨false, false, false, 0⟩ (late 0).ports 0).up = true ∧
      (Map.get ⟨false, false, false, 0⟩ (late 4).ports 0).up = false ∧ (Map.get ⟨false, false, false, 0⟩ (late 4).ports 4).up = true) ∧
    (∃ j < 24, ((request false).peer + addrLane (request false).line + j) % 24 = 4) ∧
    (∀ k < 24, k ≠ 4 → (Map.get ⟨false, false, false, 0⟩ (late 4).ports k).up = false) ∧
    ∀ k < 24, (Map.get ⟨false, false, false, 0⟩ (late 30).ports k).up = false := by decide

/-- The reply that is kept. -/
theorem witness_MessagesArrive_kept :
    (Map.get [] answered.replies (requester 1 ⟨0, 3⟩)).find? (fun r => r.1 == 3 && r.2.1 == homeOf 0x40000) =
      some (3, homeOf 0x40000, .done) := by
  rw [show Map.get [] answered.replies (requester 1 ⟨0, 3⟩) = [(3, homeOf 0x40000, .done)] from rfl]
  simp

theorem test_note : after (execNotificationArrival 1 5 viewTag 0x77 member) (fun t => (t.ctxOf 1).notes == [(1, 0x77)]) = true := by decide
theorem test_stale : after (execNotificationArrival 1 5 9 0x77 member) (fun t => (t.ctxOf 1).notes.isEmpty && t.preg 0x834 == 0x0000000100000000) =
    true := by decide
theorem test_request :
    after (execRemoteRequestArrival 1 ⟨0, 3⟩ viewTag 0x40000 (.write [(2, 0xEE)]) member) (fun t =>
      t.byteAt 0x40002 == 0xEE && (Map.get [] t.replies (requester 1 ⟨0, 3⟩)).map (fun r => (r.1, r.2.2)) == [(3, .done)]) = true := by decide
theorem test_retransmit :
    after (execRequestRetransmit 3 (late 4)) (fun t => t.preg 0x835 == 1 && (Map.find t.reqs 3).map (·.port) == some 4) = true := by decide
theorem test_link : after (execLinkTraining 4 true false { member with bringUp := 6 }) (fun t => Map.find t.ports 4 == some ⟨true, true, false, 0⟩) = true := by decide

/-! ### Views -/

/-- Member 2 is suspected; a proposal of 0 and 1 is out with both accepts; another's is accepted. -/
def worried : State := { member with suspects := 4, suspected := some 0 }
def proposing : State := { worried with accepted := some ⟨0, 3, 2⟩, proposing := some (⟨0, 3, 2⟩, 3) }
def heardOf : State := { member with accepted := some ⟨1, 5, 2⟩ }

/-- Every port has been down for the limit; a lower proposer was heard; a joiner's session is attested. -/
def unlinked : State := { member with now := 165000000 }
def lowered : State := { member with lowest := some (1, 2) }
def vouched : State := { member with attested := [⟨5, 0, 0, [], 0, [], [], some ⟨⟨7, 3⟩, [], 0, 0⟩⟩] }

/-- The view as package 1 holds it, whose proposer is package 0. -/
def second : State := member.setPreg 0x830 0x40001

theorem witness_ViewsChange :
    (member.member 2 = true ∧ member.selfPkg = 0 ∧ (∀ h, Map.find ({ member with heard := [] } : State).heard 2 = some h → False)) ∧
    (unlinked.ports = [] ∧ 0 + 3300 * field (unlinked.preg 0x831) 31 16 ≤ unlinked.now ∧ unlinked.suspects.getLsbD 2 = false) ∧
    (lowered.lowest = some (1, 2) ∧ lowered.suspects.getLsbD 1 = false ∧ lowered.viewCount + 1 = 2 ∧ lowered.joining = false) ∧
    ((∃ a ∈ vouched.attested, a.exchange.map (·.peer) = some ⟨7, 3⟩) ∧ ¬ ∃ a ∈ member.attested, a.exchange.map (·.peer) = some ⟨7, 3⟩) ∧
    ((∀ k < 24, (Map.get ⟨false, false, false, 0⟩ unlinked.ports k).up = false) ∧ (Map.get ⟨false, false, false, 0⟩ ported.ports 4).up = true ∧
      (ported.hear 1).suspects = 0) ∧
    ((worried.hear 1).proposer = worried.selfPkg ∧ proposing.proposing.isSome = true ∧ (second.hear 2).proposer ≠ second.selfPkg ∧
      second.proposing = none ∧ proposing.proposing.map (·.1.members) ≠ some 7) ∧
    (ported.ports.any (fun p => p.1 < 24 && p.2.up && p.2.extensions) = true ∧ worried.lowest = none) ∧
    (worried.view = some (7, viewTag) ∧ worried.proposer = 0 ∧ worried.excluded = false ∧ worried.accepted = none ∧ worried.suspects ≠ 0 ∧
      worried.suspects.getLsbD 0 = false ∧ ((7 : BitVec 288) &&& ~~~worried.suspects) ||| worried.admitted = 3 ∧ worried.viewCount + 1 = 2) ∧
    (member.joining = false ∧ member.suspects &&& 5 = 0 ∧ worried.suspects &&& 5 ≠ 0) ∧
    (proposing.heldMsgs = [] ∧ (3 : BitVec 288) &&& ~~~(3 : BitVec 288) = 0 ∧ liveCount 7 = 3 ∧ liveCount 7 < 2 * liveCount 3 ∧
      (¬ liveCount 7 < 2 * liveCount 1 ∧ 2 * liveCount 1 ≠ liveCount 7)) ∧
    (worried.suspected = some 0 ∧ worried.now < 0 + 4 * (3300 * field (worried.preg 0x831) 31 16)) ∧
    (3 < member.domainSize ∧ member.shutOut = false ∧ member.member 3 = false ∧ 3 ∉ member.joiners) ∧
    (let s := member.setF (fun f => { f with park := some (.joining 4) })
     s.live zero = true ∧ (s.fragAt zero).park = some (.joining 4)) := by
  refine ⟨⟨by decide, by decide, fun h e => by cases e⟩, ?_⟩
  decide +kernel

theorem test_commit : after (execCommit 0 3 2 proposing) (fun t => t.view == some (3, tagOf 3 2) && t.suspects == 0 && t.accepted == none) =
    true := by decide +kernel
theorem test_suspicion : after (execSuspicion 1 4 worried) (fun t => t.reported == 4) = true := by decide +kernel
theorem test_heartbeat_clears : after (execHeartbeatReceive 2 { ported with suspects := 6, suspected := some 0 }) (fun t =>
    t.suspects == 2 && t.suspected == some 0) = true := by decide +kernel
theorem test_commit_of_peer : after (execCommit 1 5 2 heardOf) (fun t => t.view == some (5, tagOf 5 2)) &&
    after (execCommit 1 3 2 heardOf) (fun t => t.view == some (7, viewTag)) = true := by decide +kernel
/-- R363: the digest exclusive-ors the nine words, each rotated by its number. -/
theorem test_digest : digest 7 = 7 ∧ digest (1 <<< 32) = 2 ∧ digest (0x80000001 <<< 64) = 6 := by decide

def vwqF (q : BitVec 4) : FmtE := fE q 4 0 0 0
def noteF : FmtE := fE 0 1 3 2 0

/-- The view with a note for the team's context, and one whose only member within reach is package 0. -/
def noted : State := member.updCtx 1 (fun c => { c with notes := [(1, 0x99)] })
def selfNote : State := member.setG (fun g => { g with s := [(2, 0x200), (3, 0)] })
def noteReady : State := { member with ports := [(4, ⟨true, true, false, 0⟩)] }
def farNote : State := member.setG (fun g => { g with s := [(3, 3)] })

theorem witness_ViewInstructions :
    (∀ s ∈ [member, out, noted, selfNote, farNote, asking true], s.actsAny = true ∧ issuesB s (.vwq (vwqF 5)) { writes := [.s 4] } = true ∧
      issuesB s .vack {} = true ∧ issuesB s (.vjoin (fE 0 4 0 0 0)) { writes := [.s 4] } = true ∧
      issuesB s (.fnote noteF) { reads := [.s 3, .s 2], writes := [.p 1] } = true ∧
      issuesB s (.fwait (fE 0 6 0 0 0)) { writes := uregs 6 2 } = true ∧
      issuesB s (.fwaitTry (fE 1 6 0 0 0)) { writes := uregs 6 2 } = true) ∧
    (member.shutOut = false ∧ out.shutOut = true ∧ member.viewStop = none ∧ out.viewStop ≠ none ∧ noted.viewStop = none) ∧
    ((member.cg.ureg 3 = 1 ∧ selfNote.cg.ureg 3 = 0 ∧ farNote.cg.ureg 3 = 3 ∧ member.domainSize = 4 ∧ member.selfPkg = 0) ∧
      member.member 1 = true ∧ member.member 0 = true ∧ member.member 3 = false) ∧
    (member.extFrom 1 = none ∧ noteReady.extFrom 1 = some 4 ∧ noteReady.actsAny = true ∧ noteReady.viewStop = none ∧
      noteReady.remoteDone 0 0 = true ∧ noteReady.cg.ureg 3 = 1 ∧
      issuesB noteReady (.fnote noteF) { reads := [.s 3, .s 2], writes := [.p 1] } = true) ∧
    (member.remoteDone 0 0 = true ∧ (asking true).remoteDone 0 0 = false) ∧
    (Map.has member.ctxs member.ct.ctx = true ∧ noted.cc.notes = [(1, 0x99)] ∧ member.cc.notes = [] ∧ selfNote.cc.notes.length < 64) := by
  decide +kernel

theorem test_vwq : after (execVwq (vwqF 1) member) (uniIs 4 7) && after (execVwq (vwqF 7) member) (uniIs 4 0x10000) = true := by decide
theorem test_vack : after (execVack { member with view := some (3, 9) }) (fun t => t.cg.ackTag == 9) = true := by decide
theorem test_vjoin : after (execVjoin (fE 0 4 0 0 0) out) (fun t => t.cf.park == some (.joining 4)) = true := by decide
theorem test_fnote_self : after (execFnote noteF selfNote) (fun t => (t.ctxOf 1).notes == [(0, 0x200)] && predIs 1 0x21 t) = true := by decide
theorem test_fnote_peer : after (execFnote noteF noteReady) (fun t => t.reqs.map (fun r => (r.2.peer, r.2.port, r.2.kind)) ==
    [(1, 4, .note 5 0x200)]) = true := by decide
theorem test_fnote_waits : after (execFnote noteF member) (fun t => t.reqs.isEmpty && t.cf.pc == 0x10000) = true := by decide
theorem test_fwait : after (execFwait (fE 0 6 0 0 0) noted) (fun t => uniIs 6 0x99 t && uniIs 7 1 t && (t.ctxOf 1).notes.isEmpty) &&
    after (execFwaitTry (fE 1 6 0 0 0) member) (uniIs 7 0x8000000000000000) = true := by decide

/-! ## Capacity, owner, host, package, Locket (R316 to R327, R400 to R413) -/

/-- A GiB of plain region; frame 0x40000 above it in a state with some chunks, and pool, ready queue and held writes as given. -/
def pooled (f : Frame) (free : Nat) (held : List HeldWrite) : State :=
  { (base.setPreg 0x810 (2 ^ 29)) with frames := [(0x40000, f)], free := free, held := held, readyQ := [] }

def frameIn (state : FrameState) (chunks : Nat) (accessed : Bool) : Frame := ⟨state, 1, chunks, accessed, false, false⟩
def heldWrite (back : Bool) : HeldWrite := ⟨0x40000040, List.replicate 64 0, false, 1, 0, 3, back⟩

theorem witness_Capacity_pool :
    (∀ n ∈ [0, 7], (pooled (frameIn .empty 1 false) n [heldWrite false]).held = heldWrite false :: [] ∧
      Map.find (pooled (frameIn .empty 1 false) n [heldWrite false]).frames ((heldWrite false).line / 4096) = some (frameIn .empty 1 false)) ∧
    ((heldWrite false).need - (frameIn .empty 1 false).chunks = 2) ∧
    (∀ st ∈ [FrameState.resident, .evicted], let s := pooled (frameIn st 1 false) 7 [heldWrite true]
      s.held = heldWrite true :: [] ∧ (heldWrite true).back = true ∧ Map.find s.frames ((heldWrite true).line / 4096) = some (frameIn st 1 false)) ∧
    (∀ a ∈ [true, false], let s := pooled (frameIn .resident 3 a) 0 []
      s.readyQ.length < (s.preg 0x811).toNat / 2 ^ 32 ∧ s.frames = [] ++ (0x40000, frameIn .resident 3 a) :: [] ∧
      Movable s 0x40000 (frameIn .resident 3 a) ∧ s.sweep ≤ 0x40000) ∧
    (let s := ({ pooled (frameIn .resident 3 false) 0 [] with sweep := 0x40001 } : State)
     Movable s 0x40000 (frameIn .resident 3 false) ∧ ∀ p ∈ s.frames, p.1 < s.sweep) ∧
    (let s := (pooled (frameIn .resident 3 false) 0 []).setPreg 0x811 65536
     (s.preg 0x811).toNat / 2 ^ 32 ≤ s.readyQ.length) := by
  refine ⟨by decide, by decide, by decide, fun a h => ?_, ⟨⟨by decide, by decide, by decide, by decide⟩, by decide⟩, by decide⟩
  simp only [List.mem_cons, List.not_mem_nil, or_false] at h
  rcases h with rfl | rfl <;> exact ⟨by decide, by decide, ⟨by decide, by decide, by decide, by decide⟩, by decide⟩

/-- A frame with a surplus, with a reserve or without; one without a surplus, with no slot, with none left, or with one left; a held
write that lacks chunks. -/
def surplus (n : Nat) : State := { pooled (frameIn .resident 3 false) 0 [] with reserve := n }
def tight (slots used : Nat) : State :=
  { (pooled (frameIn .resident 1 false) 0 []).setPreg 0x816 (BitVec.ofNat 64 slots) with readyQ := [0x40000], evUsed := used }
def lacking (n : Nat) : State := { pooled (frameIn .empty 1 false) 0 [heldWrite false] with reserve := n }

theorem witness_Capacity_reclaim :
    (∀ s ∈ [surplus 5, surplus 0, tight 0 0, tight 4 4, tight 4 0], s.held = [] ∧ s.free < (s.preg 0x811).toNat % 2 ^ 32) ∧
    (let s : State := { surplus 0 with free := 70000 }
     s.held = [] ∧ (s.preg 0x811).toNat % 2 ^ 32 < s.free) ∧
    ((surplus 5).reserve = 5 ∧ (surplus 0).reserve = 0 ∧ (surplus 0).frames = [] ++ (0x40000, frameIn .resident 3 false) :: [] ∧
      (surplus 0).frameNeed 0x40000 < 3) ∧
    (∀ s ∈ [tight 0 0, tight 4 4, tight 4 0], s.reserve = 0 ∧ ∀ p ∈ s.frames, p.2.chunks ≤ s.frameKeeps p.1) ∧
    ((tight 4 0).victim = some 0x40000 ∧ (tight 4 0).searches = false ∧ (tight 4 0).evUsed < ((tight 4 0).preg 0x816).toNat % 2 ^ 32 ∧
      ((tight 4 4).preg 0x816).toNat % 2 ^ 32 = 4 ∧ ((tight 0 0).preg 0x816).toNat % 2 ^ 32 = 0) ∧
    (((tight 4 0).preg 0x810).getLsbD 23 = false ∧ (tight 4 0).readyQ = [] ++ 0x40000 :: [] ∧
      Movable (tight 4 0) 0x40000 (frameIn .resident 1 false)) ∧
    (∀ n ∈ [0, 5], (lacking n).held = heldWrite false :: [] ∧ (lacking n).free < 2 ∧ (lacking n).reserve = n ∧
      Map.find (lacking n).frames ((heldWrite false).line / 4096) = some (frameIn .empty 1 false) ∧
      ((lacking n).preg 0x816).toNat % 2 ^ 32 = 0 ∧ ∀ p ∈ (lacking n).frames, p.2.state ≠ .resident) :=
  ⟨by decide +kernel, by decide, by decide +kernel, by decide +kernel, by decide +kernel, ⟨by decide, by decide,
    ⟨by decide, by decide, by decide, by decide⟩⟩, by decide⟩

theorem witness_Capacity_returns :
    (∀ n ∈ [0, 9], let s := pooled (frameIn .evicted 0 false) n []
      Map.find s.frames 0x40000 = some (frameIn .evicted 0 false) ∧ s.frameNeed 0x40000 = 1 ∧ (n = 0 ∨ 1 ≤ s.free) ∧
      ∀ h ∈ s.held, h.line / 4096 ≠ 0x40000) ∧
    (pooled (frameIn .resident 1 false) 0 []).frames = [(0x40000, frameIn .resident 1 false)] ∧
    (let s := { pooled (frameIn .empty 0 false) 0 [heldWrite false] with now := 330000001 }
     (s.preg 0x814).toNat % 2 ^ 32 = 100000 ∧ (heldWrite false).time + 3300 * 100000 < s.now ∧
      s.held = [] ++ heldWrite false :: [] ∧ ∀ g ∈ s.held, g.before.length = 64 ∧ g.line % 64 = 0) ∧
    (let w := { heldWrite false with failed := true }
     w.back = false ∧ w.line = 0x40000040 ∧ w.before.length = 64) := by decide +kernel

/-- Frames 0x40000 and 0x40001 named by `capfrm`, assigned and not, and a plain frame. -/
def naming (frame : Nat) (fs : List Nat) : State :=
  { ((base.setPreg 0x810 (2 ^ 29)).setPreg 0x819 (BitVec.ofNat 64 (frame * 4096 + 9 * 2 ^ 48))) with
    frames := fs.map (fun n => (n, frameIn .empty 1 false)), owner := 1, writer := .board }

theorem witness_Capacity_commands :
    (let s := naming 0x40000 []
     s.handing = none ∧ field (s.preg 0x819) 47 12 = 0x40000 ∧ s.plainEnd = 2 ^ 30 ∧ s.plainEnd ≤ 4096 * 0x40000 ∧ 4096 * 0x40001 < s.frameEnd ∧ s.badFrames = []) ∧
    (let s := naming 0x40000 [0x40000, 0x40001]
     Map.has s.frames 0x40000 = true ∧ Map.has s.frames 0x40001 = true ∧ ∀ p ∈ s.frames, p.2.state ≠ .evicted) ∧
    (let s := naming 0x100 []
     4096 * 0x101 < s.plainEnd ∧ s.rowOwner = []) ∧
    (∀ s ∈ [naming 0x40000 [], naming 0x100 []], s.owner = numberOf s.writer ∧ ({ s with writer := .host } : State).owner ≠ numberOf .host) ∧
    (let s := { naming 0x40000 [] with frames := [(0x40000, frameIn .evicted 0 false)], free := 9 }
     Map.find s.frames 0x40000 = some (frameIn .evicted 0 false) ∧ s.held = [] ∧ s.frameNeed 0x40000 ≤ s.free) := by decide +kernel

theorem test_heldWritePlace :
    after (execHeldWritePlace (pooled (frameIn .empty 1 false) 7 [heldWrite false])) (fun t =>
      t.free == 5 && t.held.isEmpty && Map.find t.frames 0x40000 == some (frameIn .resident 3 false)) = true := by decide
theorem test_clockSweep :
    after (execClockSweep (pooled (frameIn .resident 3 true) 0 [])) (fun t => t.readyQ.isEmpty && t.sweep == 0x40001) &&
      after (execClockSweep (pooled (frameIn .resident 3 false) 0 [])) (fun t => t.readyQ == [0x40000]) = true := by decide
theorem test_reclaimTimeout :
    after (execReclaimTimeout { pooled (frameIn .empty 0 false) 0 [heldWrite false] with now := 330000001 }) (fun t =>
      t.held.isEmpty && (t.ctxOf 1).faulted) = true := by decide +kernel
/-- R324, R325: a discarded write leaves its line as it was, its failure included; R327: a pin of an evicted frame brings it back. -/
theorem test_reclaimTimeout_failed :
    after (execReclaimTimeout { pooled (frameIn .empty 0 false) 0 [{ heldWrite false with failed := true }] with now := 330000001 }) (fun t =>
      t.badLines == [0x40000040]) = true := by decide +kernel
theorem test_capcmdPin_evicted :
    after (execCapcmdPin 1 { naming 0x40000 [] with frames := [(0x40000, frameIn .evicted 0 false)], free := 9 }) (fun t =>
      (Map.find t.frames 0x40000).map (fun f => (f.state, f.pin)) == some (.resident, true)) = true := by decide +kernel
theorem test_capcmdAssign : after (execCapcmdAssign 1 (naming 0x40000 [])) (fun t =>
    Map.find t.frames 0x40000 == some ⟨.empty, 9, 0, false, false, false⟩) = true := by decide +kernel
theorem test_capcmdPin : after (execCapcmdPin 3 (naming 0x40000 [0x40000, 0x40001])) (fun t =>
    (Map.find t.frames 0x40000).map (·.pin) == some false) = true := by decide +kernel

/-! ### The owner and the host -/

/-- An election with two claims, opened at cycle 0; its window is 330000 cycles. -/
def electing (now : Nat) : State := { base with owner := 3, election := some 0, claims := [(0, 5, 9), (2, 7, 1)], now := now }
def owned (m : Nat) : State := { base with owner := m }
def raised (step : Nat) : State := { owned 0 with bringUp := step }

/-- A package that has no owner yet, at a step of bring-up; a hand to master 2 that has been taken, and the same where an earlier pin waits for
its frame; a power limit of 3,000 W and 2,000 W measured. -/
def ownerless (step : Nat) : State := { raised step with owner := 3, trained := [.obhal] }
def handed : State := { owned 0 with handing := some 2 }
def handWaiting : State := { handed with frames := [(0x40000, ⟨.evicted, 1, 0, false, true, false⟩)] }
def powered : State := (owned 0).setPreg 0x853 (BitVec.ofNat 64 (3000 * 2 ^ 32 + 2000))
def pathless (now : Nat) : State := { base with owner := 1, pathDown := [(1, 0)], now := now }

theorem witness_OwnerHostAndPackage_owner :
    ((ownerless 3).election = none ∧ (ownerless 3).owner = 3 ∧ 3 ≤ (ownerless 3).bringUp ∧ State.reset.bringUp < 3 ∧ (owned 0).owner ≠ 3) ∧
    ((electing 0).election = some 0 ∧ (electing 0).now < 0 + 330000 ∧ 0 + 330000 ≤ (electing 330000).now ∧ (2, 7, 1) ∈ (electing 330000).claims ∧
      (∀ x ∈ (electing 330000).claims, x = (2, 7, 1) ∨ x.2.1 < 7) ∧ ∀ x ∈ (electing 330000).claims, x.1 ≠ 3) ∧
    (handed.handing = some 2 ∧ handed.frames = [] ∧ Map.has handed.pathDown 2 = false ∧
      Map.has ({ handed with pathDown := [(2, 0)] } : State).pathDown 2 = true ∧
      ∃ p ∈ handWaiting.frames, p.2.state = .evicted ∧ p.2.pin = true) ∧
    (Map.has (owned 0).pathDown 2 = false ∧ Map.has (pathless 0).pathDown 1 = true ∧
      Map.find (pathless 0).pathDown (pathless 0).owner = some 0 ∧ 0 + 3300 * 1000000 ≤ (pathless 3300000000).now) ∧
    (0x800 ≤ (0x833 : BitVec 12).toNat ∧ writableSreg 0x833 = true ∧ okB ((owned 0).writeOwner 0x831 0x00640009) (fun _ => true) = true ∧
      okB ((owned 0).writeOwner 0x831 0x00010009) (fun _ => true) = false) ∧
    ((∀ n ∈ [1, 2], (ownerless n).owner ≠ numberOf .board ∧ (ownerless n).bringUp = n ∧ .obhal ∈ (ownerless n).trained) ∧
      (ownerless 0).bringUp ≠ 1 ∧ (ownerless 1).frames = [] ∧ (ownerless 1).rowOwner = [] ∧
      field (0x8000000000 : DWord) 39 29 = 1024 ∧ field (0x8000000000 : DWord) 28 24 ≤ 16 ∧ 1024 < field (0xFFFFFFFFFF : DWord) 39 29) ∧
    ((∀ n ∈ [3, 4], (ownerless n).bringUp = n ∧ (ownerless n).view = none) ∧ member.view ≠ none ∧
      field (0x00040001 : DWord) 8 0 < field (0x00040001 : DWord) 24 16 ∧ field (0x00040001 : DWord) 24 16 ≤ 288 ∧
      field (0x00040004 : DWord) 24 16 ≤ field (0x00040004 : DWord) 8 0) ∧
    (let x := powered.preg 0x853
     field x 15 0 = 2000 ∧ field x 47 32 = 3000 ∧ field (0x3E800000000 : DWord) 47 32 = 1000 ∧ field (0x6400000000 : DWord) 47 32 < 500) := by
  decide

theorem witness_OwnerHostAndPackage_host :
    ((0x40000 / 64 = (0x40000 + 2 - 1) / 64) ∧ 0x40000 < base.frameEnd ∧ (∀ w, base.reach (0x40000 / 64 * 64) w = .ok) ∧
      base.compressed 0x40000 = false ∧ Map.find base.cLines (0x40000 / 64) = none) ∧
    ((owned 0).owner = numberOf (owned 0).writer ∧ (owned 1).owner ≠ numberOf (owned 1).writer ∧ (raised 4).bringUp < 5 ∧ 5 ≤ (raised 6).bringUp) ∧
    (∀ t ∈ base.teams, t.2.ctx ≠ 7) ∧ (Map.find base.ctxs 1).isSome = true ∧ Map.has base.ctxs 9 = false ∧
    (field (1 : DWord) 2 0 ≤ 5 ∧ 5 < field (6 : DWord) 2 0) := by decide

/-- A version that no minimum excludes. -/
theorem witness_OwnerHostAndPackage_firmware : base.fwMin ≤ (0xFFFFFFFF : BitVec 32).toNat := by
  have h : Config.fwMin.toNat < 2 ^ 32 := Config.fwMin.isLt
  have z : field (base.preg 0x852) 31 0 = 0 := by decide
  unfold State.fwMin
  rw [z]
  simp only [Nat.zero_le, Nat.max_eq_max, Nat.max_eq_right]
  exact Nat.le_of_lt_succ h

theorem test_election : after (execElectionClose (electing 330000)) (fun t => t.owner == 2 && t.preg 0x850 == 0x0000000700000001) = true := by decide
theorem test_hand_denied : after (execOwnclaimHand .board 2 (owned 0)) (fun t => t.owner == 0 && t.preg 0x854 == 1) = true := by decide
theorem test_registerWrite :
    after (execRegisterWrite .host 0x833 250 (owned 0)) (fun t => t.preg 0x833 == 250) &&
      after (execRegisterWrite .host 0x831 0x00010009 (owned 0)) (fun t => t.preg 0x831 == 0x320005) = true := by decide
theorem test_memWrite : after (execHostAccess (.memWrite 0x40000 [1, 2]) (owned 0)) (fun t => t.byteAt 0x40001 == 2) = true := by decide
theorem test_newContext : after (execHostAccess (.newContext 7 false) (raised 6)) (fun t => Map.has t.ctxs 7 && Map.has t.ctxs 1) &&
    after (execHostAccess (.newContext 7 false) (raised 4)) (fun t => !Map.has t.ctxs 7) = true := by decide
theorem test_newContext_denied : after (execHostAccess (.newContext 7 false) (owned 1)) (fun t => !Map.has t.ctxs 7 && t.preg 0x854 == 1) = true := by
  decide
theorem test_capcfg_of_board : after (execRegisterWrite .board 0x810 0x8000000000 (ownerless 1)) (fun t => t.bringUp == 2 && field (t.preg 0x810) 39 29 == 1024) &&
    after (execRegisterWrite .board 0x810 0xFFFFFFFFFF (ownerless 1)) (fun t => t.bringUp == 1 && t.preg 0x851 == 1) = true := by decide
theorem test_hand : after (execOwnclaimHand .host 2 (owned 0)) (fun t => t.owner == 2) &&
    after (execOwnclaimHand .host 2 { handWaiting with handing := none }) (fun t => t.owner == 0 && t.handing == some 2) = true := by decide
theorem test_limit_lowered : after (execRegisterWrite .host 0x853 0x3E800000000 powered) (fun t => t.preg 0x853 == 0x000103E8000007D0) = true := by decide
theorem test_powerThrottle : after (execPowerThrottle 3500 base) (fun t => t.preg 0x853 == 0x00010D4800000DAC) = true := by decide
theorem test_tlbinv :
    after (execTlbinv 1 0x40000 { owned 0 with tlb := [⟨1, 0x40000, 4096, 0⟩, ⟨2, 0x40000, 4096, 0⟩] }) (fun t => t.tlb.length == 1) = true := by decide

/-! ### Locket -/

/-- One range of two granules at 0x60000; an attested session with the peer; a status. -/
def transfer (st : Nat) (receives : Bool) : State :=
  let s := ((filed.setPreg 0x841 0x50000).setPreg 0x843 0x7).setPreg 0x840 (BitVec.ofNat 64 (2 ^ 48 + 0x80))
  { s with
    owner := 0
    ctxs := [(1, { s.ctxOf 1 with sregs := Map.set 0 (s.ctxOf 1).sregs 0x448 0x40002 })]
    mem := Map.setBytes (Map.setBytes s.mem 0x50000 (bytesOfNat 8 0x60000)) 0x50008 (bytesOfNat 8 2)
    attested := [⟨5, 0, 0, [], 0, [], [], some ⟨⟨7, 1⟩, [], 0, 0⟩⟩]
    locket := { State.reset.locket with
      st := st, receives := receives, round := if st = 0 then 0 else 1, sent := if st = 0 then 0 else 9000, counter := 2
      out := if st = 0 then [] else [⟨0, 1, 0, 0, 0x60000, 0⟩, ⟨1, 1, 0, 1, 0x61000, 1⟩] } }

/-- The table's one range, and a table whose entry is none; an in-bank row in the range; a line that makes who needs it wait, and one that
cannot be written; no team left; a later round's data there. -/
def theRange : Range := ⟨0x60000, 2⟩
def brokenTable : State := { transfer 0 true with mem := Map.setBytes (transfer 0 true).mem 0x50000 (bytesOfNat 8 0x60001) }
def bankRange : State := { transfer 0 false with rowOwner := [(0x180, true)] }
def waitingAt (line : Nat) : State := { transfer 0 true with locks := [(line, 5)] }
def bankLine : State := { transfer 0 true with rowOwner := [(0x180, true)] }
def teamless (st : Nat) (stopping : Bool) : State :=
  { transfer st false with teams := [], locket := { (transfer st false).locket with stopping := stopping } }
def overtaken : State := { transfer 0 true with locket := { (transfer 0 true).locket with got := [(0, 2)] } }

theorem entryIs_of {s : State} {j : Nat} {r : Range}
    (h : s.reach ((16 * field (s.preg 0x841) 47 4 + 16 * j) / 64 * 64) false = .ok ∧
      natOfBytes (Map.bytes s.mem (16 * field (s.preg 0x841) 47 4 + 16 * j) 8) = r.base ∧
      natOfBytes (Map.bytes s.mem (16 * field (s.preg 0x841) 47 4 + 16 * j + 8) 8) = r.count ∧
      (r.base % 4096 = 0 ∧ r.base < 2 ^ 48 ∧ r.count < 2 ^ 32) ∧ r.base + 4096 * r.count ≤ s.frameEnd) : EntryIs s j r :=
  ⟨h.1, h.2.1, h.2.2.1, h.2.2.2.1, h.2.2.2.2⟩

theorem tableIs_of {s : State} {r : Range} (n : field (s.preg 0x841) 59 48 = 0) (h : EntryIs s 0 r) : TableIs s [r] := by
  refine ⟨by rw [n]; rfl, fun j x e => ?_⟩
  cases j with
  | zero => simpa [← Option.some.inj e] using h
  | succ j => simp at e

theorem broken : ∀ r, ¬ EntryIs brokenTable 0 r := by
  intro r h
  have e : natOfBytes (Map.bytes brokenTable.mem (16 * field (brokenTable.preg 0x841) 47 4 + 16 * 0) 8) = 0x60001 := by decide +kernel
  have := h.base
  have := h.granular.1
  omega

theorem witness_LocketTransfers_sends :
    (∀ s ∈ [transfer 0 false, transfer 1 false, transfer 3 false, transfer 0 true, bankRange, teamless 0 false, brokenTable],
      s.owner = numberOf s.writer ∧ s.owner ≠ numberOf .board ∧ s.cLines = [] ∧ field (s.preg 0x840) 63 48 = 1 ∧
        ∃ a ∈ s.attested, a.session = some ((s.preg 0x843).extractLsb' 0 16)) ∧
    (¬ ∃ a ∈ base.attested, a.session = some ((base.preg 0x843).extractLsb' 0 16)) ∧
    (TableIs (transfer 0 false) [theRange] ∧ TableIs (transfer 1 false) [theRange] ∧ TableIs bankRange [theRange] ∧
      TableIs (teamless 0 false) [theRange] ∧ TableIs (teamless 3 true) [theRange]) ∧
    TableBreaks brokenTable ∧
    (AnyInBank bankRange [theRange] ∧ ¬ AnyInBank (transfer 0 false) [theRange] ∧ ¬ AnyInBank (teamless 3 true) [theRange]) ∧
    ((transfer 0 false).teams.map (fun x => (x.1, x.2.ctx, x.2.groups.isEmpty, x.2.ending.isNone)) = [(0, 1, false, true)] ∧
      ((transfer 0 false).teamOf 0).status = .resident ∧ (transfer 0 false).canSave 0 = true) ∧
    (((transfer 1 false).preg 0x842).toNat % 2 ^ 32 < (transfer 1 false).locket.sent ∧
      ((transfer 1 false).locket.round < field ((transfer 1 false).preg 0x840) 7 4) ∧ (transfer 1 false).locket.st = 1) ∧
    ((teamless 3 true).locket.st = 3 ∧ (teamless 3 true).locket.stopping = true ∧ (teamless 3 false).locket.stopping = false) := by
  refine ⟨by decide, by decide, ⟨tableIs_of (by decide) (entryIs_of (by decide +kernel)), tableIs_of (by decide) (entryIs_of (by decide +kernel)),
    tableIs_of (by decide) (entryIs_of (by decide +kernel)), tableIs_of (by decide) (entryIs_of (by decide +kernel)),
    tableIs_of (by decide) (entryIs_of (by decide +kernel))⟩, ⟨by decide +kernel, 0, by decide, broken⟩,
    ⟨Or.inl ⟨_, List.mem_singleton.mpr rfl, rfl, _, List.mem_singleton.mpr rfl, by decide⟩, ?_, ?_⟩, by decide +kernel, by decide, by decide⟩
  all_goals
    rintro (⟨p, hp, -⟩ | ⟨x, hx, -⟩)
    · cases hp
    · cases hx

/-- Every granule of the range can be read; a session of a team of the context on a core, and of one in an image. -/
def sessioned : State := { transfer 0 false with sessions := [⟨0, 0, 0, 1, [], [], 0, [], 0, 0, [], [], 0, none⟩] }

theorem witness_LocketTransfers_granules :
    (Deliverable (transfer 0 false) [theRange] true ∧ Deliverable (transfer 1 false) [theRange] false ∧
      Deliverable (teamless 0 false) [theRange] false ∧ Deliverable (teamless 3 true) [theRange] false) ∧
    (AnyInBank sessioned [theRange] ∧ sessioned.cLines = []) ∧
    ((transfer 1 false).locket.round ≠ 0 ∧ ({ transfer 1 false with locket := { (transfer 1 false).locket with round := 0 } } : State).locket.st = 1) := by
  refine ⟨?_, ⟨Or.inr ⟨_, List.mem_singleton.mpr rfl, Or.inl (by decide +kernel)⟩, by decide⟩, by decide⟩
  unfold Deliverable
  decide +kernel

theorem witness_LocketTransfers_receives :
    (∀ s ∈ [transfer 0 true, brokenTable, waitingAt 0x50000, waitingAt 0x60000, bankLine, overtaken], s.locket.receives = true ∧
      s.cLines = [] ∧ field (s.preg 0x841) 59 48 = 0 ∧ 16 * field (s.preg 0x841) 47 4 = 0x50000) ∧
    (EntryIs (transfer 0 true) 0 theRange ∧ EntryIs (waitingAt 0x60000) 0 theRange ∧ EntryIs bankLine 0 theRange ∧
      EntryIs overtaken 0 theRange ∧ (∀ r, ¬ EntryIs brokenTable 0 r) ∧ brokenTable.reach 0x50000 false ≠ .wait) ∧
    ((waitingAt 0x50000).reach 0x50000 false = .wait ∧ (∃ k < 64, (waitingAt 0x60000).reach (0x60000 + 64 * k) true = .wait) ∧
      (∃ k < 64, bankLine.reach (0x60000 + 64 * k) true ≠ .ok) ∧ ∀ k < 64, bankLine.reach (0x60000 + 64 * k) true ≠ .wait) ∧
    (1 < Map.get 0 overtaken.locket.got 0 ∧ Map.get 0 (transfer 0 true).locket.got 0 ≤ 1) ∧
    ((transfer 0 true).compressed (0x60000 + 4095) = false ∧ ∀ k < 64, (transfer 0 true).reach (0x60000 + 64 * k) true = .ok) ∧
    ((transfer 3 false).locket.st = 3 ∧ (transfer 3 false).locket.stopping = false ∧ (transfer 3 false).locket.out.length = 2) :=
  ⟨by decide, ⟨entryIs_of (by decide +kernel), entryIs_of (by decide +kernel), entryIs_of (by decide +kernel), entryIs_of (by decide +kernel),
    broken, by decide +kernel⟩, ⟨by decide +kernel, ⟨0, by decide +kernel⟩, ⟨0, by decide +kernel⟩, by decide +kernel⟩, by decide, by decide +kernel, by decide⟩

theorem test_precopy :
    after (execLocketPrecopy (transfer 0 false)) (fun t => t.locket.st == 1 && t.locket.sent == 2 && t.preg 0x845 == 8192) = true := by decide +kernel
theorem test_abort : after (execLocketAbort (transfer 3 false)) (fun t => t.locket.st == 8) = true := by decide
theorem test_locketMessage :
    after (execLocketMessage 0 (.granule 1 0 2 0 []) (transfer 0 true)) (fun t => t.locket.st == 5) &&
      after (execLocketMessage 0 .badTag (transfer 0 true)) (fun t => t.locket.st == 7) = true := by decide +kernel

/-! ### Parked fragments -/

def parkedOn (w : Park) : State := filed.setF (fun f => { f with park := some w })

/-- A wait on a frozen team's clasp; the instruction is an explicit safe point while a stop is asked for; and states in which waits have
ended, or have not. -/
def claspFrozen : State :=
  let s := (pair2 .frozen).setF (fun f => { f with park := some (.clasp 1 0x40 false), line := some (0x10000, lineWith 0), pc := 0x10000 })
  { s with ctxs := hand.ctxs, mem := hand.mem }
def pausing : State :=
  ((parkedOn (.got 4 0)).setF (fun f => { f with sp := true })).updTeam 0 (fun t => { t with request := some 0 })
def entryGranted : State := (parkedOn (.again .entry)).updTeam 0 (fun t => { t with granted := [zero] })
def batched (n : Nat) (k : Option Nat) : State := (sealed n).setF (fun f => { f with park := some (.again (.batch k)) })
def fencing (s : State) (nc sys : Bool) : State := s.setF (fun f => { f with park := some (.again (.fence nc sys)) })

theorem witness_FragmentsUnpark :
    (∀ w ∈ [Park.lines 0 [1], .clasp 0 0x40 false, .got 4 0, .again .entry, .again (.window 3), .again (.fence false false), .again .producer,
        .again .note, .again .memory, .opener, .bankFence, .bankTurn, .joining 4],
      ((parkedOn w).fragAt zero).park = some w ∧ (parkedOn w).live zero = true ∧ ((parkedOn w).groupAt 0 0).stop = none ∧
        ((parkedOn w).teamOf 0).status = .resident) ∧
    (∀ s ∈ [claspFrozen, pausing, entryGranted, batched 0 none, batched 16 none, batched 2 (some 1), fencing filed false false,
        fencing parting true true, fencing open0 true false, fencing spoiled true false],
      s.live zero = true ∧ (s.groupAt 0 0).stop = none ∧ (s.teamOf 0).status = .resident) ∧
    ((parkedOn (.lines 0 [1])).ct.absentOf [1] = [] ∧ (absent.teamOf 0).absentOf [1] ≠ []) ∧
    ((claspFrozen.fragAt zero).park = some (.clasp 1 0x40 false) ∧ (claspFrozen.teamOf 1).status = .frozen ∧
      (claspFrozen.fragAt zero).line = some (0x10000, lineWith 0)) ∧
    ((pausing.fragAt zero).sp = true ∧ (pausing.teamOf 0).request ≠ none ∧ (filed.fragAt zero).sp = false) ∧
    (zero ∈ entryGranted.ct.granted ∧ zero ∉ filed.ct.granted) ∧
    (((windowed 3).ct.window 3).state ≠ 2 ∧ ((windowed 2).ct.window 3).state = 2) ∧
    (filed.fenceDone 0 0 false false = true ∧ parting.fenceDone 0 0 true true = false ∧ open0.fenceDone 0 0 true false = true ∧
      open0.flushStop 0 = none ∧ spoiled.flushStop 0 ≠ none) ∧
    (((batched 0 none).openBatches 0 0 (batched 0 none).cg.batch).length < 16 ∧ 16 ≤ ((batched 16 none).openBatches 0 0 (batched 16 none).cg.batch).length ∧
      1 < ((batched 2 (some 1)).openBatches 0 0 (batched 2 (some 1)).cg.batch).length) ∧
    (Map.has filed.producers filed.ct.core = false ∧ Map.has (producing 0).producers 0 = true ∧ (filed.ctxOf 1).notes = [] ∧ (noted.ctxOf 1).notes ≠ []) ∧
    (∃ u, CanEnter claspFrozen zero { code := 0x10A, addr := (claspFrozen.fragAt zero).pc
                                      info0 := ((slotBits (lineWith 0) (slotOfPc (claspFrozen.fragAt zero).pc)).extractLsb' 0 16).setWidth 64
                                      resume := (claspFrozen.fragAt zero).pc } u) :=
  ⟨by decide, by decide, by decide, by decide, by decide, by decide, by decide, by decide, by decide, by decide, canEnter_of (by decide)⟩

theorem test_fragmentUnpark :
    after (execFragmentUnpark zero (parkedOn (.again .memory))) (fun t => t.cf.park == none && t.cf.pc == 0x10000) &&
      after (execFragmentUnpark zero (parkedOn (.clasp 0 0x40 false))) (fun t => t.cf.park == some (.clasp 0 0x40 false)) &&
      after (execFragmentUnpark zero (parkedOn (.got 4 0x55))) (uniIs 4 0x55) = true := by decide

/-! ## Round trips, reset, steps -/

theorem witness_SlotEncodingRoundTrips :
    WellFormed ⟨plain, 0, .add (fA .i32 3 1 2 0)⟩ = true ∧ (Instr.add (fA .i32 3 1 2 0)).isEvent = false ∧
      encodeStream (.add (fA .i32 3 1 2 0)) = none := by decide

theorem witness_WordEncodingsRoundTrip :
    encodeStream (.push 4 false 0) = some 0x70400000 ∧ decodeBgu 0x1C000001 = some (.mac true false 0 0 1) ∧
      (BguCmd.mac true false 0 0 1 = .mac true false 0 0 1 → false = false → (0 : BitVec 2) = 0) := by decide

/-- A canonical state whose step answers a next state. -/
theorem witness_StepsKeepMemoryCanonical :
    State.reset.Canonical ∧ ∃ t, step { State.reset with agenda := [(.slot zero, 5)] } = .next t := by
  refine ⟨?_, _, rfl⟩
  unfold State.Canonical
  decide

end Sys2Proof.Tests
end

section
/-!
SUPPORT. Lanes of integers: what an instruction that puts a result in each participating lane completes with (R122, R124), the
values of products and quotients (R127, R128), of logic and shifts (R129 to R131) and of bit fields (R132, R133), and the
statements about them.
-/

namespace Sys2Proof.Machine

open Claims

/-! ## Instructions of the form put(l, value) -/

/-- An instruction whose effect is a result in each participating lane completes with it. -/
theorem laneResult_eachLane {s : State} {i : Instr} {u : Uses} {t : Ty} {d : BitVec 8} {regs : List Reg}
    {v : Group → Nat → Nat} {x : Nat → Nat} (he : exec i s = .next (s.slot i u (·.eachLane t d v regs)))
    (hr : ∀ r ∈ destRegs t d.toNat, r ∈ regs) (hx : ∀ l, v s.cg l = x l) : LaneResult s i u t d x := by
  intro hi
  obtain ⟨hregs, hholds⟩ := s.eachLane_all t d v regs hr
  refine ⟨_, he.trans (congrArg _ (State.slot_issues hi _)), hregs, fun l hl => ?_⟩
  rw [← hx]
  exact hholds l hl

theorem laneResult_mapInt {s : State} {f : FmtA} {i : Instr} {u : Uses} {v : Nat → Nat → Nat → Nat} {x : Nat → Nat}
    (he : exec i s = .next (s.slot i u (·.mapInt f v))) (hx : ∀ l, v (a s f l) (b s f l) (c s f l) = x l) :
    LaneResult s i u f.ty f.d x :=
  laneResult_eachLane he (fun _ h => h) hx

theorem laneResult_mapInt32 {s : State} {f : FmtA} {i : Instr} {u : Uses} {v : Nat → Nat → Nat → Nat} {x : Nat → Nat}
    (he : exec i s = .next (s.slot i u (·.mapInt32 f v))) (hx : ∀ l, v (a s f l) (n s f l) (c s f l) = x l) :
    LaneResult s i u f.ty f.d x :=
  laneResult_eachLane he (fun _ h => h) hx

theorem laneResult_mapCount {s : State} {f : FmtA} {i : Instr} {u : Uses} {v : Nat → Nat} {x : Nat → Nat}
    (he : exec i s = .next (s.slot i u (·.mapCount f v))) (hx : ∀ l, v (a s f l) = x l) :
    LaneResult s i u .n32 f.d x :=
  laneResult_eachLane he (fun _ h => h) hx

/-! ## Types and operands -/

theorem bits_pos (t : Ty) : 0 < Ty.bits t := by cases t <;> decide

theorem Claims.a_lt (s : State) (f : FmtA) (l : Nat) : a s f l < 2 ^ Ty.bits f.ty := Nat.mod_lt _ (Nat.two_pow_pos _)

theorem Claims.b_lt (s : State) (f : FmtA) (l : Nat) : b s f l < 2 ^ Ty.bits f.ty := Nat.mod_lt _ (Nat.two_pow_pos _)

/-- A pattern of a type stands for 0 exactly where it is 0. -/
theorem intOf_eq_zero_iff {t : Ty} {x : Nat} (hx : x < 2 ^ Ty.bits t) : Ty.intOf t x = 0 ↔ x = 0 := by
  have hcast : ((2 ^ Ty.bits t : Nat) : Int) = 2 ^ Ty.bits t := by norm_cast
  have hpos := Nat.two_pow_pos (Ty.bits t - 1)
  simp only [Ty.intOf, Nat.mod_eq_of_lt hx, Bool.and_eq_true, decide_eq_true_eq]
  split <;> omega

/-! ## Products and quotients (R127, R128) -/

theorem iMulh_eq (t : Ty) (x y c : Nat) :
    iMulh t x y c = Ty.wrap t (Ty.intOf t x * Ty.intOf t y / 2 ^ Ty.bits t) := by
  simp [iMulh]

theorem iDiv_eq {t : Ty} {x y : Nat} (sat : Bool) (c : Nat) (hy : y < 2 ^ Ty.bits t) :
    iDiv t sat x y c =
      if y = 0 then 2 ^ Ty.bits t - 1
      else if Ty.signed t = true ∧ Ty.intOf t x = Ty.minInt t ∧ Ty.intOf t y = -1 then
        Ty.wrap t (if sat then Ty.maxInt t else Ty.minInt t)
      else Ty.wrap t ((Ty.intOf t x).tdiv (Ty.intOf t y)) := by
  simp only [iDiv, iDivRem, intOf_eq_zero_iff hy, apply_ite Prod.fst]

theorem iRem_eq {t : Ty} {x y : Nat} (c : Nat) (hy : y < 2 ^ Ty.bits t) :
    iRem t x y c =
      if y = 0 then x
      else if Ty.signed t = true ∧ Ty.intOf t x = Ty.minInt t ∧ Ty.intOf t y = -1 then 0
      else Ty.wrap t ((Ty.intOf t x).tmod (Ty.intOf t y)) := by
  simp only [iRem, iDivRem, intOf_eq_zero_iff hy, apply_ite Prod.snd, Int.tmod_def, Int.mul_comm]

theorem madw_laneResult (s : State) (f : FmtA) :
    LaneResult s (.madw f) { reads := .v f.a.toNat :: useB f false ++ vregs f.c.toNat 2, writes := vregs f.d.toNat 2 }
      (wideTy f.ty) f.d (fun l =>
        Ty.fit (wideTy f.ty) f.sat (A s f l * B s f l + Ty.intOf (wideTy f.ty) (s.cg.vpair f.c.toNat l).toNat)) := by
  have hw : Ty.bits (wideTy f.ty) = 64 := by unfold wideTy; split <;> rfl
  refine laneResult_eachLane rfl (fun r hr => by rwa [destRegs, if_pos hw] at hr) (fun l => ?_)
  have hc : s.cg.regI (wideTy f.ty) f.c.toNat l = (s.cg.vpair f.c.toNat l).toNat := by
    rw [Group.regI, if_pos hw, hw, Nat.mod_eq_of_lt (BitVec.isLt _)]
  rw [hc]
  rfl

/-- Settles O2: each instruction puts a value of A, B and C, and the quotient and remainder are R128's case by case. -/
theorem productsAndQuotients : Obligations.ProductsAndQuotients := by
  unfold Obligations.ProductsAndQuotients
  refine ⟨fun s f => ⟨?mul, ?mulh, ?mulhu, ?mad, madw_laneResult s f⟩, fun s f => ⟨?div, ?divu, ?rem, ?remu⟩⟩
  case mul => exact laneResult_mapInt (v := iMul f.ty f.sat) rfl (fun _ => rfl)
  case mulh => exact laneResult_mapInt (v := iMulh f.ty) rfl (fun _ => iMulh_eq _ _ _ _)
  case mulhu => exact laneResult_mapInt (v := iMulh f.ty) rfl (fun _ => iMulh_eq _ _ _ _)
  case mad => exact laneResult_mapInt (v := iMad f.ty f.sat) rfl (fun _ => rfl)
  case div => exact laneResult_mapInt (v := iDiv f.ty f.sat) rfl (fun l => iDiv_eq _ _ (b_lt s f l))
  case divu => exact laneResult_mapInt (v := iDiv f.ty false) rfl (fun l => iDiv_eq _ _ (b_lt s f l))
  case rem => exact laneResult_mapInt (v := iRem f.ty) rfl (fun l => iRem_eq _ (b_lt s f l))
  case remu => exact laneResult_mapInt (v := iRem f.ty) rfl (fun l => iRem_eq _ (b_lt s f l))

/-! ## Bits of a value -/

theorem ofBits_succ (w : Nat) (p : Nat → Bool) : ofBits (w + 1) p = 2 ^ w * (p w).toNat + ofBits w p := by
  unfold ofBits
  rw [List.range_succ, List.foldl_append]
  cases h : p w <;> simp [h, Nat.add_comm]

theorem ofBits_lt (w : Nat) (p : Nat → Bool) : ofBits w p < 2 ^ w := by
  induction w with
  | zero => exact Nat.one_pos
  | succ w ih =>
    have hbit : 2 ^ w * (p w).toNat ≤ 2 ^ w := mul_le_of_le_one_right' (Bool.toNat_le _)
    rw [ofBits_succ, Nat.pow_succ]
    omega

theorem testBit_ofBits (w : Nat) (p : Nat → Bool) (i : Nat) (hi : i < w) : (ofBits w p).testBit i = p i := by
  induction w with
  | zero => omega
  | succ w ih =>
    rw [ofBits_succ, Nat.testBit_two_pow_mul_add _ (ofBits_lt w p)]
    split
    · next h => exact ih h
    · next h =>
      obtain rfl : i = w := by omega
      rw [Nat.sub_self]
      cases p i <;> rfl

theorem testBit_iNot {t : Ty} {x : Nat} (y c : Nat) (hx : x < 2 ^ Ty.bits t) {i : Nat} (hi : i < Ty.bits t) :
    (iNot t x y c).testBit i = !x.testBit i := by
  rw [iNot, Nat.sub_sub, Nat.add_comm 1 x, Nat.testBit_two_pow_sub_succ hx]
  simp [hi]

theorem testBit_iAndn {t : Ty} {y : Nat} (x c : Nat) (hy : y < 2 ^ Ty.bits t) {i : Nat} (hi : i < Ty.bits t) :
    (iAndn t x y c).testBit i = (x.testBit i && !y.testBit i) := by
  rw [← testBit_iNot c c hy hi]
  exact Nat.testBit_and _ _ _

/-! ## Shifts and rotations (R131) -/

theorem testBit_iShl (t : Ty) (x k c : Nat) {i : Nat} (hi : i < Ty.bits t) :
    (iShl t x k c).testBit i = (decide (k ≤ i) && x.testBit (i - k)) := by
  unfold iShl
  split
  · next h => simp [show ¬ k ≤ i by omega]
  · next h => simp [Nat.testBit_mod_two_pow, Nat.mul_comm x, Nat.testBit_two_pow_mul, hi]

theorem testBit_iShr {t : Ty} {x : Nat} (k c : Nat) (hx : x < 2 ^ Ty.bits t) (i : Nat) :
    (iShr t x k c).testBit i = (decide (i + k < Ty.bits t) && x.testBit (i + k)) := by
  by_cases h : i + k < Ty.bits t
  · simp [iShr, show ¬ Ty.bits t ≤ k by omega, Nat.testBit_div_two_pow, h]
  · have hbit : x.testBit (i + k) = false :=
      Nat.testBit_lt_two_pow (hx.trans_le (Nat.pow_le_pow_right (by decide) (Nat.le_of_not_lt h)))
    unfold iShr
    split <;> simp [Nat.testBit_div_two_pow, h, hbit]

/-- An arithmetic shift of a pattern is the library's of a bit vector. -/
theorem iSra_eq_sshiftRight {t : Ty} {x : Nat} (k c : Nat) (hx : x < 2 ^ Ty.bits t) :
    iSra t x k c = ((BitVec.ofNat (Ty.bits t) x).sshiftRight (min k (Ty.bits t))).toNat := by
  have hhalf : 2 ^ Ty.bits t = 2 * 2 ^ (Ty.bits t - 1) := by
    rw [← Nat.pow_succ', Nat.succ_eq_add_one, Nat.sub_add_cancel (bits_pos t)]
  have hint : (if 2 ^ (Ty.bits t - 1) ≤ x then (x : Int) - (2 ^ Ty.bits t : Nat) else x) =
      (BitVec.ofNat (Ty.bits t) x).toInt := by
    rw [BitVec.toInt_eq_toNat_cond, BitVec.toNat_ofNat, Nat.mod_eq_of_lt hx]
    split <;> split <;> omega
  rw [BitVec.sshiftRight, BitVec.toNat_ofInt, ← hint, Int.shiftRight_eq_div_pow]
  rfl

theorem testBit_iSra {t : Ty} {x : Nat} (k c : Nat) (hx : x < 2 ^ Ty.bits t) {i : Nat} (hi : i < Ty.bits t) :
    (iSra t x k c).testBit i = x.testBit (if i + k < Ty.bits t then i + k else Ty.bits t - 1) := by
  rw [iSra_eq_sshiftRight k c hx, ← BitVec.getLsbD, BitVec.getLsbD_sshiftRight]
  by_cases h : i + k < Ty.bits t
  · rw [if_pos (by omega), if_pos h, show min k (Ty.bits t) + i = i + k by omega]
    simp [hi.not_ge, h, -BitVec.getLsbD_eq_getElem, BitVec.getLsbD_ofNat]
  · rw [if_neg (by omega), if_neg h]
    simp [hi.not_ge, BitVec.msb_eq_getLsbD_last, bits_pos t, -BitVec.getLsbD_eq_getElem, BitVec.getLsbD_ofNat]

/-- The two parts of a pattern, exchanged: the bits of a rotation left by `r` places. -/
theorem testBit_exchange {w r x : Nat} (hr : r ≤ w) (hx : x < 2 ^ w) {i : Nat} (hi : i < w) :
    (x * 2 ^ r % 2 ^ w + x / 2 ^ (w - r)).testBit i = x.testBit (if i < r then i + (w - r) else i - r) := by
  have hw : 2 ^ w = 2 ^ r * 2 ^ (w - r) := by rw [← Nat.pow_add, Nat.add_sub_cancel' hr]
  have hlow : x / 2 ^ (w - r) < 2 ^ r := Nat.div_lt_of_lt_mul (by rwa [Nat.mul_comm, ← hw])
  rw [hw, Nat.mul_comm x, Nat.mul_mod_mul_left, Nat.testBit_two_pow_mul_add _ hlow]
  split
  · rw [Nat.testBit_div_two_pow]
  · simp [Nat.testBit_mod_two_pow, show i - r < w - r by omega]

theorem testBit_iRol {t : Ty} {x : Nat} (k c : Nat) (hx : x < 2 ^ Ty.bits t) {i : Nat} (hi : i < Ty.bits t) :
    (iRol t x k c).testBit i = x.testBit ((i + Ty.bits t - k % Ty.bits t) % Ty.bits t) := by
  have hr : k % Ty.bits t < Ty.bits t := Nat.mod_lt _ (bits_pos t)
  refine (testBit_exchange hr.le hx hi).trans (congrArg _ ?_)
  generalize k % Ty.bits t = r at hr ⊢
  split
  · rw [Nat.mod_eq_of_lt (by omega)]
    omega
  · rw [show i + Ty.bits t - r = i - r + Ty.bits t by omega, Nat.add_mod_right, Nat.mod_eq_of_lt (by omega)]

theorem testBit_iRor {t : Ty} {x : Nat} (k c : Nat) (hx : x < 2 ^ Ty.bits t) {i : Nat} (hi : i < Ty.bits t) :
    (iRor t x k c).testBit i = x.testBit ((i + k % Ty.bits t) % Ty.bits t) := by
  have hr : k % Ty.bits t < Ty.bits t := Nat.mod_lt _ (bits_pos t)
  have hleft : iRor t x k c =
      x * 2 ^ (Ty.bits t - k % Ty.bits t) % 2 ^ Ty.bits t + x / 2 ^ (Ty.bits t - (Ty.bits t - k % Ty.bits t)) := by
    rw [Nat.sub_sub_self hr.le, Nat.add_comm]
    rfl
  rw [hleft, testBit_exchange (Nat.sub_le _ _) hx hi]
  congr 1
  generalize k % Ty.bits t = r at hr ⊢
  split
  · rw [Nat.mod_eq_of_lt (by omega)]
    omega
  · rw [Nat.mod_eq_sub_mod (by omega), Nat.mod_eq_of_lt (by omega)]
    omega

/-- The value that an instruction of R129 to R131 puts in a lane. -/
def laneLogic (s : State) (f : FmtA) : Instr → Nat → Nat
  | .and _, l => iAnd (a s f l) (b s f l) (c s f l)
  | .or _, l => iOr (a s f l) (b s f l) (c s f l)
  | .xor _, l => iXor (a s f l) (b s f l) (c s f l)
  | .not _, l => iNot f.ty (a s f l) (b s f l) (c s f l)
  | .andn _, l => iAndn f.ty (a s f l) (b s f l) (c s f l)
  | .lop3 _, l => iLop3 f.ty f.imm.toNat (a s f l) (b s f l) (c s f l)
  | .shl _, l => iShl f.ty (a s f l) (n s f l) (c s f l)
  | .shr _, l => iShr f.ty (a s f l) (n s f l) (c s f l)
  | .sra _, l => iSra f.ty (a s f l) (n s f l) (c s f l)
  | .rol _, l => iRol f.ty (a s f l) (n s f l) (c s f l)
  | .ror _, l => iRor f.ty (a s f l) (n s f l) (c s f l)
  | _, _ => 0

/-- Settles O3: each instruction puts its value of `laneLogic`, whose bits are those of the rules. -/
theorem laneLogicAndShifts : Obligations.LaneLogicAndShifts := by
  unfold Obligations.LaneLogicAndShifts
  intro s f
  refine ⟨laneLogic s f,
    laneResult_mapInt (v := iAnd) rfl (fun _ => rfl), laneResult_mapInt (v := iOr) rfl (fun _ => rfl),
    laneResult_mapInt (v := iXor) rfl (fun _ => rfl), laneResult_mapInt (v := iNot f.ty) rfl (fun _ => rfl),
    laneResult_mapInt (v := iAndn f.ty) rfl (fun _ => rfl), laneResult_mapInt (v := iLop3 f.ty f.imm.toNat) rfl (fun _ => rfl),
    laneResult_mapInt32 (v := iShl f.ty) rfl (fun _ => rfl), laneResult_mapInt32 (v := iShr f.ty) rfl (fun _ => rfl),
    laneResult_mapInt32 (v := iSra f.ty) rfl (fun _ => rfl), laneResult_mapInt32 (v := iRol f.ty) rfl (fun _ => rfl),
    laneResult_mapInt32 (v := iRor f.ty) rfl (fun _ => rfl), fun l i hi => ?_⟩
  intro p q r k
  simp only [laneLogic]
  have ha : a s f l < 2 ^ Ty.bits f.ty := a_lt s f l
  exact ⟨Nat.testBit_and _ _ _, Nat.testBit_or _ _ _, Nat.testBit_xor _ _ _, testBit_iNot _ _ ha hi,
    testBit_iAndn _ _ (b_lt s f l) hi, testBit_ofBits _ _ i hi, testBit_iShl _ _ _ _ hi, testBit_iShr _ _ ha i,
    testBit_iSra _ _ ha hi, testBit_iRol _ _ ha hi, testBit_iRor _ _ ha hi⟩

/-! ## Bit fields and counts (R132) -/

theorem bitField_length (w y : Nat) :
    (bitField w y).2 = if y % 256 < w then min (y / 256 % 256) (w - y % 256) else 0 := by
  have hcut : min (y % 256 + y / 256 % 256) w - y % 256 = min (y / 256 % 256) (w - y % 256) := by omega
  simp only [bitField, apply_ite Prod.snd, ← hcut]

theorem bitField_length_le (w y : Nat) : (bitField w y).2 ≤ w := by
  rw [bitField_length]
  split <;> omega

/-- A field that is not empty begins at its place. -/
theorem bitField_place {w y : Nat} (h : (bitField w y).2 ≠ 0) : (bitField w y).1 = y % 256 := by
  have hpos : y % 256 < w := by
    by_contra hout
    simp [bitField_length, hout] at h
  simp [bitField, hpos]

/-- A field of `len` bits read as negative: every bit from `len` to the width is set. -/
theorem wrap_sub_two_pow {t : Ty} {x len : Nat} (hx : x < 2 ^ len) (hlen : len ≤ Ty.bits t) :
    Ty.wrap t ((x : Int) - (2 ^ len : Nat)) = x + 2 ^ Ty.bits t - 2 ^ len := by
  have hpow : 2 ^ len ≤ 2 ^ Ty.bits t := Nat.pow_le_pow_right (by decide) hlen
  have hcast : (x : Int) - (2 ^ len : Nat) + (2 ^ Ty.bits t : Nat) = (x + 2 ^ Ty.bits t - 2 ^ len : Nat) := by omega
  rw [Ty.wrap, ← Int.add_emod_right, hcast, ← Int.natCast_mod, Int.toNat_natCast, Nat.mod_eq_of_lt (by omega)]

theorem iBfx_eq {t : Ty} {y len : Nat} (x c : Nat) (h : (bitField (Ty.bits t) y).2 = len) :
    iBfx t x y c =
      if len = 0 then 0
      else if Ty.signed t = true ∧ (x / 2 ^ (y % 256) % 2 ^ len).testBit (len - 1) = true then
        x / 2 ^ (y % 256) % 2 ^ len + 2 ^ Ty.bits t - 2 ^ len
      else x / 2 ^ (y % 256) % 2 ^ len := by
  subst h
  simp only [iBfx, Bool.and_eq_true]
  refine ite_congr rfl (fun _ => rfl) (fun hlen => ?_)
  rw [bitField_place hlen, wrap_sub_two_pow (Nat.mod_lt _ (Nat.two_pow_pos _)) (bitField_length_le _ _)]

/-- A number is its bits below a place, its field there, and its bits above that. -/
theorem field_split (x pos len : Nat) :
    x = x % 2 ^ pos + x / 2 ^ pos % 2 ^ len * 2 ^ pos + x / 2 ^ (pos + len) * 2 ^ (pos + len) := by
  have hlow := Nat.mod_add_div x (2 ^ pos)
  have hfield := Nat.mod_add_div (x / 2 ^ pos) (2 ^ len)
  rw [Nat.div_div_eq_div_mul, ← Nat.pow_add] at hfield
  calc x = x % 2 ^ pos + 2 ^ pos * (x / 2 ^ pos % 2 ^ len + 2 ^ len * (x / 2 ^ (pos + len))) := by rw [hfield, hlow]
    _ = _ := by ring

theorem iBfi_eq {t : Ty} {y len : Nat} (x c : Nat) (h : (bitField (Ty.bits t) y).2 = len) :
    iBfi t x y c =
      if len = 0 then x
      else x - x / 2 ^ (y % 256) % 2 ^ len * 2 ^ (y % 256) + c % 2 ^ len * 2 ^ (y % 256) := by
  subst h
  refine ite_congr rfl (fun _ => rfl) (fun hlen => ?_)
  have hsplit := field_split x (y % 256) (bitField (Ty.bits t) y).2
  rw [bitField_place hlen]
  omega

theorem popNat_eq_length (x k : Nat) : popNat x k = ((List.range k).filter x.testBit).length := by
  induction k with
  | zero => rfl
  | succ k ih =>
    rw [popNat, ih, List.range_succ, List.filter_append, List.length_append]
    cases h : x.testBit k <;> simp [h]

/-! ## Bytes by their controls (R133) -/

theorem permByte_lt (x y z i : Nat) : permByte x y z i < 256 := by
  simp only [permByte]
  split
  · exact Nat.mod_lt _ (by decide)
  · decide
  · split_ifs <;> decide
  · omega

theorem byte_iBperm (x y z : Nat) {i : Nat} (hi : i < 4) : iBperm x y z / 256 ^ i % 256 = permByte x y z i := by
  have h0 := permByte_lt x y z 0
  have h1 := permByte_lt x y z 1
  have h2 := permByte_lt x y z 2
  have h3 := permByte_lt x y z 3
  unfold iBperm
  interval_cases i <;> omega

/-- The eight source bytes of R133 are those of A below those of C. -/
theorem permSource_eq {x : Nat} (z : Nat) (hx : x < 2 ^ 32) {j : Nat} (hj : j < 8) :
    (if j < 4 then x / 256 ^ j else z / 256 ^ (j - 4)) % 256 = (x + 2 ^ 32 * z) / 256 ^ j % 256 := by
  split
  · next h => interval_cases j <;> omega
  · next h =>
    obtain ⟨k, rfl⟩ := Nat.exists_eq_add_of_le (Nat.le_of_not_lt h)
    have hc : (x + 2 ^ 32 * z) / 256 ^ 4 = z := by omega
    rw [Nat.pow_add, ← Nat.div_div_eq_div_mul, hc, Nat.add_sub_cancel_left]

/-- Settles O4: the fields of `bfx` and `bfi` by `bitField_length` and `bitField_place`, and each byte of `bperm` by its mode. -/
theorem laneBitFields : Obligations.LaneBitFields := by
  unfold Obligations.LaneBitFields
  intro s f pos len fld
  have hlen : ∀ l, (bitField (Ty.bits f.ty) (n s f l)).2 = len l := fun l => bitField_length _ _
  refine ⟨?bfx, ?bfi, ?popc, ?clz, ?ctz, ⟨fun l => iBrev f.ty (a s f l) (b s f l) (c s f l), ?brev, ?brevBits⟩,
    fun hty => ⟨fun l => iBperm (a s f l) (b s f l) (c s f l), ?bperm, ?bpermBytes⟩⟩
  case bfx => exact laneResult_mapInt32 (v := iBfx f.ty) rfl (fun l => iBfx_eq _ _ (hlen l))
  case bfi => exact laneResult_mapInt32 (v := iBfi f.ty) rfl (fun l => iBfi_eq _ _ (hlen l))
  case popc => exact laneResult_mapCount (v := iPopc f.ty) rfl (fun l => popNat_eq_length _ _)
  case clz => exact laneResult_mapCount (v := iClz f.ty) rfl (fun _ => rfl)
  case ctz => exact laneResult_mapCount (v := iCtz f.ty) rfl (fun _ => rfl)
  case brev => exact laneResult_mapInt (v := iBrev f.ty) rfl (fun _ => rfl)
  case brevBits => exact fun l i hi => testBit_ofBits _ _ i hi
  case bperm => exact laneResult_mapInt (v := iBperm) rfl (fun _ => rfl)
  case bpermBytes =>
    intro l i hi ctl src
    have ha : a s f l < 2 ^ 32 := by simpa [hty, Ty.bits] using a_lt s f l
    have hsrc : (if ctl % 8 < 4 then a s f l / 256 ^ (ctl % 8) else c s f l / 256 ^ (ctl % 8 - 4)) % 256 = src :=
      permSource_eq _ ha (Nat.mod_lt _ (by decide))
    rw [byte_iBperm _ _ _ hi]
    simp only [permByte]
    rw [show b s f l / 256 ^ i % 256 = ctl from rfl, hsrc]
    rcases ctl / 8 % 4 with _ | _ | _ | mode
    · rfl
    · rfl
    · simp only [← Nat.not_lt, ite_not]
    · rfl

end Sys2Proof.Machine
end

section
/-!
SUPPORT. Tile storage: the bytes of elements in storage order (R11, R170), and what a tile that is filled reads as.
-/

namespace Sys2Proof.Machine

/-! ## Bytes and numbers -/

@[simp] theorem length_bytesOfNat (n x : Nat) : (bytesOfNat n x).length = n := by
  induction n generalizing x with
  | zero => rfl
  | succ n ih => simp [bytesOfNat, ih]

theorem getD_bytesOfNat {n i : Nat} (x : Nat) (hi : i < n) :
    (bytesOfNat n x).getD i 0 = BitVec.ofNat 8 (x / 256 ^ i) := by
  induction n generalizing x i with
  | zero => omega
  | succ n ih =>
    cases i with
    | zero => simp [bytesOfNat]
    | succ i =>
      rw [bytesOfNat, List.getD_cons_succ, ih _ (by omega), Nat.div_div_eq_div_mul, Nat.pow_succ']

theorem natOfBytes_bytesOfNat (n x : Nat) : natOfBytes (bytesOfNat n x) = x % 256 ^ n := by
  induction n generalizing x with
  | zero => rw [Nat.pow_zero, Nat.mod_one]; rfl
  | succ n ih =>
    calc natOfBytes (bytesOfNat (n + 1) x) = x % 256 + 256 * (x / 256 % 256 ^ n) := by
          rw [bytesOfNat, natOfBytes, ih, BitVec.toNat_ofNat]
      _ = x % 256 ^ (n + 1) := by rw [← Nat.mod_mul, ← Nat.pow_succ']

theorem natOfBytes_lt (l : List Byte) : natOfBytes l < 256 ^ l.length := by
  induction l with
  | nil => exact Nat.one_pos
  | cons b l ih =>
    have hb := b.isLt
    rw [natOfBytes, List.length_cons, Nat.pow_succ']
    omega

@[simp] theorem Map.length_bytes (m : Map Byte) (a n : Nat) : (Map.bytes m a n).length = n := by
  induction n generalizing a with
  | zero => rfl
  | succ n ih => simp [Map.bytes, ih]

/-- Bytes that are those of a number read as that number. -/
theorem Map.natOfBytes_bytes {m : Map Byte} {a n x : Nat}
    (h : ∀ i < n, Map.get 0 m (a + i) = BitVec.ofNat 8 (x / 256 ^ i)) : natOfBytes (Map.bytes m a n) = x % 256 ^ n := by
  have hl : Map.bytes m a n = bytesOfNat n x := by
    induction n generalizing a x with
    | zero => rfl
    | succ n ih =>
      have h0 := h 0 (by omega)
      rw [Nat.pow_zero, Nat.div_one] at h0
      rw [Map.bytes, bytesOfNat, ← h0]
      congr 1
      refine ih fun i hi => ?_
      rw [Nat.div_div_eq_div_mul, ← Nat.pow_succ', Nat.add_assoc, Nat.add_comm 1 i]
      exact h (i + 1) (by omega)
  rw [hl, natOfBytes_bytesOfNat]

/-! ## Elements in storage order -/

/-- The width of an element: a nibble, or whole bytes. -/
theorem bits_nibble_or_bytes (t : Ty) : Ty.bits t = 4 ∨ ∃ w, Ty.bits t = 8 * (w + 1) := by
  cases t
  case e2m1 | hs4 => exact .inl rfl
  case n8 | i8 | e4m3 | e5m2 | hs8 => exact .inr ⟨0, rfl⟩
  case n16 | i16 | f16 | bf16 => exact .inr ⟨1, rfl⟩
  case n32 | i32 | f32 => exact .inr ⟨3, rfl⟩
  case n64 | i64 => exact .inr ⟨7, rfl⟩

/-- Elements of whole bytes lie one after another. -/
theorem packElems_bytes (w : Nat) (l : List Nat) : packElems (8 * (w + 1)) l = l.flatMap (bytesOfNat (w + 1)) := by
  fun_induction packElems (8 * (w + 1)) l with
  | case1 => rfl
  | case2 x => simp [show (8 * (w + 1) + 7) / 8 = w + 1 by omega]
  | case3 x y l h ih => omega
  | case4 x y l h ih => rw [List.flatMap_cons, ih, show 8 * (w + 1) / 8 = w + 1 by omega]

theorem length_packElems {t : Ty} (l : List Nat) :
    (packElems (Ty.bits t) l).length = (l.length * Ty.bits t + 7) / 8 := by
  rcases bits_nibble_or_bytes t with h | ⟨w, h⟩
  · rw [h]
    fun_induction packElems 4 l with
    | case1 => rfl
    | case2 x => exact length_bytesOfNat _ _
    | case3 x y l h ih => simp only [List.length_cons, ih]; omega
    | case4 x y l h ih => omega
  · rw [h, packElems_bytes, List.length_flatMap]
    simp only [length_bytesOfNat, List.map_const', List.sum_replicate, smul_eq_mul]
    rw [Nat.mul_left_comm]
    omega

/-- The bytes of element n, where elements are whole bytes. -/
theorem getD_packElems_bytes {w : Nat} {l : List Nat} {n i : Nat} (hn : n < l.length) (hi : i < w + 1) :
    (packElems (8 * (w + 1)) l).getD (n * (w + 1) + i) 0 = BitVec.ofNat 8 (l[n] / 256 ^ i) := by
  rw [packElems_bytes]
  induction l generalizing n with
  | nil => exact absurd hn (Nat.not_lt_zero _)
  | cons x l ih =>
    rw [List.flatMap_cons]
    cases n with
    | zero =>
      rw [Nat.zero_mul, Nat.zero_add, List.getD_append _ _ _ _ (by simpa using hi)]
      exact getD_bytesOfNat x hi
    | succ n =>
      rw [List.getD_append_right _ _ _ _ (by rw [length_bytesOfNat, Nat.succ_mul]; omega), length_bytesOfNat,
        show (n + 1) * (w + 1) + i - (w + 1) = n * (w + 1) + i by rw [Nat.succ_mul]; omega]
      exact ih (Nat.lt_of_succ_lt_succ hn)

/-- Element n, where two elements share a byte. -/
theorem elemOf_packElems_nibbles {l : List Nat} {n : Nat} (hn : n < l.length) :
    elemOf 4 (n % 2) ((packElems 4 l).getD (n / 2) 0).toNat = l[n] % 2 ^ 4 := by
  fun_induction packElems 4 l generalizing n with
  | case1 => exact absurd hn (Nat.not_lt_zero _)
  | case2 x =>
    obtain rfl : n = 0 := by simpa using hn
    simp [elemOf, bytesOfNat]
  | case3 x y l h ih =>
    match n with
    | 0 => simp [elemOf]
    | 1 => simp [elemOf]; omega
    | n + 2 =>
      rw [Nat.add_div_right _ (by decide), Nat.add_mod_right, List.getD_cons_succ]
      exact ih (by simpa using hn)
  | case4 x y l h ih => omega

/-! ## A tile that is filled (R170) -/

/-- Elements lie row by row. -/
theorem elem_index_lt {x : Tile} {i j : Nat} (hi : i < x.rows) (hj : j < x.cols) : i * x.cols + j < x.rows * x.cols :=
  calc i * x.cols + j < (i + 1) * x.cols := by rw [Nat.succ_mul]; omega
    _ ≤ x.rows * x.cols := Nat.mul_le_mul_right _ hi

/-- An element of a tile reads as a pattern of its type's width. -/
theorem Team.tileElem_lt (t : Team) (x : Tile) (i j : Nat) : t.tileElem x i j < 2 ^ x.bits := by
  rcases bits_nibble_or_bytes x.ty with h | ⟨w, h⟩
  · have h : x.bits = 4 := h
    simp only [Team.tileElem, h, if_true]
    exact Nat.mod_lt _ (by decide)
  · have h : x.bits = 8 * (w + 1) := h
    simp only [Team.tileElem, if_neg (show ¬ x.bits = 4 by omega)]
    refine (natOfBytes_lt _).trans_eq ?_
    rw [Map.length_bytes, h, Nat.mul_div_cancel_left _ (by decide), Nat.pow_mul]

/-- The elements of a tile in storage order. -/
def elemsOf (x : Tile) (v : Nat → Nat → Nat) : List Nat :=
  (List.range (x.rows * x.cols)).map (fun n => v (n / x.cols) (n % x.cols))

@[simp] theorem length_elemsOf (x : Tile) (v : Nat → Nat → Nat) : (elemsOf x v).length = x.rows * x.cols := by
  simp [elemsOf]

theorem getElem_elemsOf {x : Tile} {i j : Nat} (v : Nat → Nat → Nat) (hj : j < x.cols)
    (h : i * x.cols + j < (elemsOf x v).length) : (elemsOf x v)[i * x.cols + j] = v i j := by
  have hc : 0 < x.cols := Nat.zero_lt_of_lt hj
  simp only [elemsOf, List.getElem_map, List.getElem_range]
  rw [Nat.mul_comm, Nat.mul_add_div hc, Nat.div_eq_of_lt hj, Nat.add_zero, Nat.mul_add_mod, Nat.mod_eq_of_lt hj]

/-- The bytes of a tile that is filled. -/
theorem Team.get_tileFill (t : Team) (x : Tile) (v : Nat → Nat → Nat) (a : Nat) :
    Map.get 0 (t.tileFill x v).tiles a =
      if 4096 * x.base ≤ a ∧ a < 4096 * x.base + x.bytes then (packElems x.bits (elemsOf x v)).getD (a - 4096 * x.base) 0
      else Map.get 0 t.tiles a := by
  have hlen : (packElems x.bits (elemsOf x v)).length = x.bytes := by
    rw [Tile.bits, length_packElems, length_elemsOf]
    rfl
  rw [← hlen]
  exact Map.get_setBytes _ _ _ _

/-- An element of a tile that is filled is the value's low bits. -/
theorem Team.tileElem_tileFill (t : Team) (x : Tile) (v : Nat → Nat → Nat) {i j : Nat} (hi : i < x.rows) (hj : j < x.cols) :
    (t.tileFill x v).tileElem x i j = v i j % 2 ^ x.bits := by
  have hn := elem_index_lt hi hj
  have hlen : i * x.cols + j < (elemsOf x v).length := by rwa [length_elemsOf]
  rw [← getElem_elemsOf v hj hlen]
  rcases bits_nibble_or_bytes x.ty with h | ⟨w, h⟩
  · have h : x.bits = 4 := h
    simp only [Team.tileElem, h, if_true, Team.get_tileFill, Tile.bytes]
    rw [show (i * x.cols + j) * 4 / 8 = (i * x.cols + j) / 2 by omega, if_pos (by omega), Nat.add_sub_cancel_left]
    exact elemOf_packElems_nibbles hlen
  · have h : x.bits = 8 * (w + 1) := h
    have hb : x.bytes = x.rows * x.cols * (w + 1) := by
      rw [Tile.bytes, h, Nat.mul_left_comm]
      omega
    have hend : (i * x.cols + j) * (w + 1) + (w + 1) ≤ x.rows * x.cols * (w + 1) := by
      rw [← Nat.succ_mul]
      exact Nat.mul_le_mul_right _ hn
    simp only [Team.tileElem, h, if_neg (show ¬ 8 * (w + 1) = 4 by omega)]
    rw [Nat.mul_left_comm, Nat.mul_div_cancel_left _ (by decide), Nat.mul_div_cancel_left _ (by decide), Nat.pow_mul]
    refine Map.natOfBytes_bytes fun k hk => ?_
    rw [Team.get_tileFill, if_pos (by omega), Nat.add_assoc, Nat.add_sub_cancel_left, h]
    exact getD_packElems_bytes hlen hk

end Sys2Proof.Machine
end

section
/-!
SUPPORT. Slots of tile instructions: what retiring one changes, what a slot past the scoreboard does (R174, R191), and the slot that
fills a tile (R173, R177).
-/

namespace Sys2Proof.Machine

open Claims

/-! ## Retiring a tile instruction -/

/-- A slot that has issued and goes on as `g` says changes nothing of its group but its flags, its in-flight records and its
fragment. -/
theorem State.retired_group (s : State) (regs : List Reg) (tile : TileUse) (g : Frag → Frag) (stop : Option Stop) :
    let t := ((s.track regs tile).setF g).stopAtSafePoint stop
    t.cg.v = s.cg.v ∧ t.cg.s = s.cg.s ∧ t.cg.p = s.cg.p ∧ t.cg.rest = s.cg.rest ∧
      t.cg.frags = (s.cg.updFrag s.cur.ref.entry g).frags := by
  have keep : ∀ {β : Type} (q : Group → β) (_ : ∀ g, q (Group.drain g) = q g) (_ : ∀ (g : Group) x, q { g with stop := x } = q g)
      (_ : ∀ g x, q (Group.issue g x) = q g) (_ : ∀ (g : Group) x, q { g with frags := x } = q g),
      q (((s.track regs tile).setF g).stopAtSafePoint stop).cg = q s.cg := by
    intro β q hdrain hstop hissue hfrags
    rw [State.stop_keeps q hdrain hstop, State.cg_setF]
    exact (hfrags _ _).trans (State.track_keeps q hissue _ _ _)
  refine ⟨keep Group.v (fun _ => rfl) (fun _ _ => rfl) Group.v_issue (fun _ _ => rfl),
    keep Group.s (fun _ => rfl) (fun _ _ => rfl) Group.s_issue (fun _ _ => rfl),
    keep Group.p (fun _ => rfl) (fun _ _ => rfl) Group.p_issue (fun _ _ => rfl),
    keep Group.rest (fun _ => rfl) (fun _ _ => rfl) Group.rest_issue (fun _ _ => rfl), ?_⟩
  rw [State.stop_keeps Group.frags (fun _ => rfl) (fun _ _ => rfl), State.cg_setF, (s.track_only regs tile).cur]
  simp only [Group.updFrag, State.track_keeps Group.frags Group.frags_issue]

/-- The group of a slot that has issued goes on in sequence. -/
theorem State.retired_goesOn (s : State) (regs : List Reg) (tile : TileUse) {g : Frag → Frag} (stop : Option Stop)
    (hg : g s.cf = s.cf.goTo (nextPc s.cf.pc)) : GoesOnOnly s (((s.track regs tile).setF g).stopAtSafePoint stop) := by
  obtain ⟨hv, hs, hp, hrest, hfrags⟩ := s.retired_group regs tile g stop
  have honly := ((s.track_only regs tile).trans (State.setF_only _ g)).trans (State.stopAtSafePoint_only _ stop)
  have hfrag : ∀ e, Group.fragOf (((s.track regs tile).setF g).stopAtSafePoint stop).cg e =
      (s.cg.updFrag s.cur.ref.entry g).fragOf e := fun e => by simp only [Group.fragOf, hfrags]
  refine ⟨hv, hs, hp, hrest, fun e he => ?_, ?_, honly.otherGroups⟩
  · rw [hfrag, Group.fragOf_updFrag, if_neg (Ne.symm he)]
  · rw [State.cf, honly.cur, hfrag, Group.fragOf_updFrag, if_pos rfl]
    exact hg

theorem State.retireTile_only (s : State) (regs : List Reg) (tile : TileUse) : GroupOnly s (s.retireTile regs tile) :=
  ((s.track_only regs tile).trans (State.setF_only _ _)).trans (State.stopAtSafePoint_only _ _)

theorem State.retireTile_goesOn (s : State) (regs : List Reg) (tile : TileUse) : GoesOnOnly s (s.retireTile regs tile) :=
  s.retired_goesOn regs tile _ rfl

theorem State.retire_goesOn (s : State) (regs : List Reg) : GoesOnOnly s (s.retire regs) :=
  s.retired_goesOn regs _ _ rfl

/-! ## A change of the team, then the end of the slot -/

theorem State.ct_setT (s : State) (f : Team → Team) : (s.setT f).ct = f s.ct := by
  simp [State.ct, State.setT]

/-- A change of the executing team that leaves its groups alone, and then of the group alone. -/
theorem setT_then {s t : State} {f : Team → Team} (hf : (f s.ct).groups = s.ct.groups) (honly : GroupOnly (s.setT f) t)
    (hgoes : GoesOnOnly (s.setT f) t) : TeamAlone s t ∧ GoesOnOnly s t ∧ t.ct.rest = (f s.ct).rest := by
  have hgroup : ∀ k, (s.setT f).ct.groupOf k = s.ct.groupOf k := fun k => by
    rw [State.ct_setT, Team.groupOf, hf]
    rfl
  have hcg : (s.setT f).cg = s.cg := hgroup _
  have hcf : (s.setT f).cf = s.cf := by rw [State.cf, hcg]; rfl
  refine ⟨⟨honly.outside, fun k hk => ?_⟩, ⟨?_, ?_, ?_, ?_, ?_, ?_, ?_⟩, ?_⟩
  · rw [honly.otherTeams k hk, State.setT, State.teamOf_updTeam, if_neg (Ne.symm hk)]
  · rw [hgoes.v, hcg]
  · rw [hgoes.u, hcg]
  · rw [hgoes.p, hcg]
  · rw [hgoes.rest, hcg]
  · intro e he
    rw [hgoes.otherFrags e he, hcg]
  · rw [hgoes.fragment, hcf]
  · intro k hk
    rw [hgoes.otherGroups k hk, hgroup]
  · rw [honly.team, State.ct_setT]

/-! ## Past the scoreboard -/

/-- Where the units are free, a slot takes effect past the scoreboard. -/
theorem State.withUnits_free {s : State} {use : TileUse} (h : UnitsFree s use) (k : State → State) : s.withUnits use k = k s := by
  have hgood : use.reads.find? s.ct.badUnits.contains = none := by
    simpa [List.find?_eq_none] using h.good
  simp only [State.withUnits, h.parked, h.held, Bool.false_eq_true, if_false, hgood]

theorem State.configured_all {s : State} {l : List Tile} (h : ∀ x ∈ l, x.en = true) (k : State) : s.configured l k = k := by
  rw [State.configured, if_pos (List.all_eq_true.2 h)]

theorem State.configured_not {s : State} {l : List Tile} (h : l.any (fun x => !x.en) = true) (k : State) :
    s.configured l k = s.raise 0x012 := by
  rw [State.configured, if_neg]
  intro hall
  obtain ⟨x, hx, hen⟩ := List.any_eq_true.1 h
  simp [List.all_eq_true.1 hall x hx] at hen

/-- A tile that is filled from the team as it was, and then the end of the slot: one tile is written, element by element. -/
theorem writesTile_retired (s : State) (d : Tile) (use : TileUse) (v : Team → Nat → Nat → Nat) :
    let t := (s.setT (fun t => t.tileFill d (v t))).retireTile [] use
    WritesTile s t d ∧ ∀ i < d.rows, ∀ j < d.cols, t.ct.tileElem d i j = v s.ct i j % 2 ^ d.bits := by
  obtain ⟨halone, hgoes, hteam⟩ := setT_then (s := s) (f := fun t => t.tileFill d (v t)) rfl
    (State.retireTile_only _ [] use) (State.retireTile_goesOn _ [] use)
  have htiles : ((s.setT (fun t => t.tileFill d (v t))).retireTile [] use).ct.tiles = (s.ct.tileFill d (v s.ct)).tiles :=
    (congrArg Team.tiles hteam :)
  refine ⟨⟨halone, ?_, hgoes, fun a ha => ?_⟩, fun i hi j hj => ?_⟩
  · exact congrArg (fun t : Team => { t with tiles := [], badUnits := [] }) hteam
  · rw [htiles, Team.get_tileFill, if_neg (by omega)]
  · rw [← Team.tileElem_tileFill s.ct d (v s.ct) hi hj]
    unfold Team.tileElem
    simp only [htiles]

/-- An instruction whose slot, past its checks, fills a tile. -/
theorem fillsSo_of_slot {s : State} {i : Instr} {u : Uses} {d : Tile} {reads : List Nat} {p : Nat → Nat → Nat → Prop}
    (v : Team → Nat → Nat → Nat) (e : State → State) (he : exec i s = .next (s.slot i u (·.whenActs e)))
    (hfill : UnitsFree s ⟨reads, d.units⟩ →
      e s = (s.setT (fun t => t.tileFill d (v t))).retireTile [] ⟨reads, d.units⟩)
    (hp : ∀ i < d.rows, ∀ j < d.cols, p i j (v s.ct i j % 2 ^ d.bits)) : FillsSo s i u d reads p := by
  intro hacts hfree hissues
  obtain ⟨hwrites, helem⟩ := writesTile_retired s d ⟨reads, d.units⟩ v
  refine ⟨_, ?_, hwrites, fun i hi j hj => ?_⟩
  · rw [he, State.slot_issues hissues, State.whenActs_acts hacts, hfill hfree]
  · rw [helem i hi j hj]
    exact hp i hi j hj

/-- The slot of `State.fillTile` where the units are free. -/
theorem State.fillTile_free {s : State} {d : Tile} {reads : List Nat} (h : UnitsFree s ⟨reads, d.units⟩)
    (v : Team → Nat → Nat → Nat) :
    s.fillTile d reads v = (s.setT (fun t => t.tileFill d (v t))).retireTile [] ⟨reads, d.units⟩ := by
  unfold State.fillTile
  exact State.withUnits_free h _

end Sys2Proof.Machine
end

section
/-!
SUPPORT. Exact numbers (R24, R25, R35): products and sums have the exact values the rules name, and values that are the same
number make the same sums.
-/

namespace Sys2Proof

open Machine Machine.Claims

/-! ## Finite values at an exponent -/

theorem at_fin (z : Int) (n : Bool) (m : Nat) (e : Int) :
    At z (.fin n m e) = (if n then -1 else 1) * (m * 2 ^ (e - z).toNat : Nat) := by
  cases n <;> simp [At, FVal.scaled, shiftTo]

/-- A finite value at an exponent below one at or below its own. -/
theorem at_of_le {z q e : Int} (n : Bool) (m : Nat) (hz : z ≤ q) (hq : q ≤ e) :
    At z (.fin n m e) = At q (.fin n m e) * 2 ^ (q - z).toNat := by
  have hexp : (e - z).toNat = (e - q).toNat + (q - z).toNat := by omega
  rw [at_fin, at_fin, hexp, Nat.pow_add]
  push_cast
  ring

theorem at_eq_zero_iff (z : Int) (n : Bool) (m : Nat) (e : Int) : At z (.fin n m e) = 0 ↔ m = 0 := by
  rw [at_fin]
  cases n <;> simp

/-! ## Products (R24) -/

theorem mul_exactProduct (x y : FVal) : ExactProduct x y (x.mul y) := by
  rcases x with _ | a | ⟨a, m, e⟩ <;> rcases y with _ | b | ⟨b, n, f⟩
  case fin.fin =>
    refine ⟨m * n, e + f, rfl, min e f, fun z z' hz hz' => ?_⟩
    have hexp : (e + f - (z + z')).toNat = (e - z).toNat + (f - z').toNat := by omega
    rw [show (FVal.fin a m e).mul (.fin b n f) = .fin (a != b) (m * n) (e + f) from rfl, at_fin, at_fin, at_fin, hexp,
      Nat.pow_add]
    push_cast
    cases a <;> cases b <;> simp <;> ring
  case inf.fin => by_cases h : n = 0 <;> simp [ExactProduct, FVal.mul, FVal.isZero, FVal.isNan, FVal.isNeg, h]
  case fin.inf => by_cases h : m = 0 <;> simp [ExactProduct, FVal.mul, FVal.isZero, FVal.isNan, FVal.isNeg, h]
  all_goals rfl

/-! ## Sums (R25, R35) -/

/-- A sum without NaNs and infinities has finite terms only. -/
theorem finite_of_not {xs : List FVal} (hn : ¬ xs.any FVal.isNan = true) (hp : FVal.inf false ∉ xs) (hm : FVal.inf true ∉ xs) :
    ∀ x ∈ xs, ∃ n m e, x = .fin n m e := by
  rintro (n | n | ⟨n, m, e⟩) hx
  · exact absurd (List.any_eq_true.2 ⟨_, hx, rfl⟩) hn
  · cases n
    · exact absurd hx hp
    · exact absurd hx hm
  · exact ⟨n, m, e, rfl⟩

theorem minExp_le {xs : List FVal} {n : Bool} {m : Nat} {e : Int} (h : FVal.fin n m e ∈ xs) : minExp xs ≤ e := by
  fun_induction minExp xs with
  | case1 => simp at h
  | case2 n' m' e' => simp at h; omega
  | case3 n' m' e' l hl r hle ih =>
    rcases List.mem_cons.1 h with heq | hmem
    · cases heq; exact le_refl _
    · exact hle.trans (ih hmem)
  | case4 n' m' e' l hl r hle ih =>
    rcases List.mem_cons.1 h with heq | hmem
    · cases heq; omega
    · exact ih hmem
  | case5 x l h1 h2 ih =>
    rcases List.mem_cons.1 h with heq | hmem
    · exact absurd heq.symm (h2 _ _ _)
    · exact ih hmem

theorem foldl_scaled (q : Int) (xs : List FVal) (a : Int) :
    xs.foldl (fun a v => a + v.scaled q) a = a + (xs.map (At q)).sum := by
  induction xs generalizing a with
  | nil => simp
  | cons x xs ih => rw [List.foldl_cons, ih, List.map_cons, List.sum_cons, Int.add_assoc]; rfl

/-- The sum of finite terms at an exponent below them all. -/
theorem sum_at_of_le {xs : List FVal} {z q : Int} (hz : z ≤ q) (h : ∀ x ∈ xs, ∃ n m e, x = .fin n m e ∧ q ≤ e) :
    (xs.map (At z)).sum = (xs.map (At q)).sum * 2 ^ (q - z).toNat := by
  induction xs with
  | nil => simp
  | cons x xs ih =>
    obtain ⟨n, m, e, rfl, he⟩ := h x (by simp)
    rw [List.map_cons, List.sum_cons, List.map_cons, List.sum_cons, Int.add_mul, at_of_le n m hz he,
      ih fun y hy => h y (by simp [hy])]

/-- The exact sum is that of R25 and R35. -/
theorem exactSum_exact (rm : Rm) (xs : List FVal) : ExactSum rm xs (exactSum (rm == .rdn) xs) := by
  have hmem : ∀ b, (xs.any (fun v => v == FVal.inf b)) = decide (FVal.inf b ∈ xs) := fun b => by
    rw [Bool.eq_iff_iff]
    simp
  unfold ExactSum exactSum
  simp only [hmem]
  by_cases hn : xs.any FVal.isNan = true
  · simp [hn, FVal.isNan]
  by_cases hp : FVal.inf false ∈ xs <;> by_cases hm : FVal.inf true ∈ xs
  · simp [hp, hm, FVal.isNan]
  · simp [hn, hp, hm]
  · simp [hn, hp, hm]
  have hfin : ∀ x ∈ xs, ∃ n m e, x = .fin n m e ∧ minExp xs ≤ e := fun x hx => by
    obtain ⟨n, m, e, rfl⟩ := finite_of_not hn hp hm x hx
    exact ⟨n, m, e, rfl, minExp_le hx⟩
  simp only [hn, hp, hm, foldl_scaled, Int.zero_add, decide_false, Bool.and_self, Bool.false_eq_true, if_false, false_and, or_self]
  generalize hq : minExp xs = q at hfin
  generalize hT : (xs.map (At q)).sum = T
  have hdeep : ∀ z ≤ min q 0, (xs.map (At z)).sum = T * 2 ^ (q - z).toNat := fun z hz => by
    rw [sum_at_of_le (by omega) hfin, hT]
  by_cases h0 : T = 0
  · rw [if_pos h0]
    refine ⟨_, 0, 0, rfl, ⟨min q 0, by omega, fun z hz => ?_⟩, fun _ => ?_⟩
    · show At z _ = _
      rw [hdeep z hz, h0, Int.zero_mul]
      exact (at_eq_zero_iff z _ 0 0).2 rfl
    · cases xs.all (fun v => v.isZero && v.isNeg) <;> cases xs.all (fun v => v.isZero && !v.isNeg) <;> simp [beq_eq_decide]
  · rw [if_neg h0]
    refine ⟨_, _, q, rfl, ⟨min q 0, by omega, fun z hz => ?_⟩, fun h => absurd (Int.natAbs_eq_zero.1 h) h0⟩
    show At z _ = _
    rw [hdeep z hz, at_fin]
    push_cast
    by_cases hneg : T < 0 <;> simp [hneg, abs_of_neg, abs_of_nonneg, Int.not_lt.1] 

end Sys2Proof
end

section
/-!
SUPPORT. Patterns of rounded values (R17, R28): a value that was rounded fits its format, its pattern has the format's width, and it
reads as the same number.
-/

namespace Sys2Proof

open Machine Machine.Claims

/-! ## The same number -/

/-- Two values are the same number: both NaNs, the same infinity, or finite of one sign and size. -/
def FVal.Same : FVal → FVal → Prop
  | .nan _, .nan _ => True
  | .inf a, .inf b => a = b
  | .fin a m e, .fin b k q => a = b ∧ ∃ z0, ∀ z ≤ z0, shiftTo m e z = shiftTo k q z
  | _, _ => False

theorem shiftTo_eq_zero_iff (m : Nat) (e z : Int) : shiftTo m e z = 0 ↔ m = 0 := by
  simp [shiftTo]

/-- An exact sum is known by its terms' NaNs, infinities, zeros and finite sum. -/
theorem exactSum_of_alike {rm : Rm} {xs ys : List FVal} {v : FVal} (hnan : xs.any FVal.isNan = ys.any FVal.isNan)
    (hinf : ∀ b, FVal.inf b ∈ xs ↔ FVal.inf b ∈ ys)
    (hneg : xs.all (fun x => x.isZero && x.isNeg) = ys.all (fun x => x.isZero && x.isNeg))
    (hpos : xs.all (fun x => x.isZero && !x.isNeg) = ys.all (fun x => x.isZero && !x.isNeg))
    (hsum : ∃ z1 : Int, ∀ z ≤ z1, (xs.map (At z)).sum = (ys.map (At z)).sum) (hs : ExactSum rm xs v) : ExactSum rm ys v := by
  have hdeep : Deep (fun z => At z v = (xs.map (At z)).sum) → Deep (fun z => At z v = (ys.map (At z)).sum) := by
    rintro ⟨z0, hz0, h⟩
    obtain ⟨z1, hsum⟩ := hsum
    exact ⟨min z0 z1, by omega, fun z hz => (h z (by omega)).trans (hsum z (by omega))⟩
  simp only [ExactSum, hnan, hinf, hneg, hpos] at hs ⊢
  split_ifs at hs ⊢
  · exact hs
  · exact hs
  · exact hs
  all_goals
    obtain ⟨n, m, e, hv, hxs, hsign⟩ := hs
    exact ⟨n, m, e, hv, hdeep hxs, hsign⟩

/-- An exact sum is that of its terms as numbers. -/
theorem exactSum_congr {rm : Rm} {a x y v : FVal} (h : x.Same y) (hs : ExactSum rm [a, x] v) : ExactSum rm [a, y] v := by
  rcases x with _ | b | ⟨b, m, e⟩ <;> rcases y with _ | b' | ⟨b', k, q⟩
  case nan.nan => simpa [ExactSum, FVal.isNan] using hs
  case inf.inf => exact (show b = b' from h) ▸ hs
  case fin.fin =>
    obtain ⟨rfl, z0, hsize⟩ := h
    have hzero : (FVal.fin b m e).isZero = (FVal.fin b k q).isZero := by
      rw [Bool.eq_iff_iff, FVal.isZero, FVal.isZero, beq_iff_eq, beq_iff_eq, ← shiftTo_eq_zero_iff m e,
        hsize z0 (le_refl _), shiftTo_eq_zero_iff]
    have hat : ∀ z ≤ z0, At z (.fin b m e) = At z (.fin b k q) := fun z hz => by
      rw [at_fin, at_fin]
      exact congrArg _ (congrArg _ (hsize z hz))
    refine exactSum_of_alike (xs := [a, .fin b m e]) rfl (by simp) ?_ ?_ ⟨z0, fun z hz => by simp [hat z hz]⟩ hs
    · simp only [List.all_cons, hzero]
      rfl
    · simp only [List.all_cons, hzero]
      rfl
  all_goals exact absurd h id

/-! ## What rounding gives (R28) -/

/-- A magnitude that a format holds, with one bit more where a rounding carried. -/
structure FFmt.Fits (f : FFmt) (k : Nat) (q : Int) : Prop where
  short : k ≤ 2 ^ (f.fbits + 1)
  least : f.emin - f.fbits ≤ q
  largest : dyadicLt f.maxM f.maxE k q = false

/-- What the binary formats have in common: exponents of both signs, a largest value that fits, and an
exponent field within its width. -/
structure FFmt.Sound (f : FFmt) : Prop where
  zero : f.emin - f.fbits ≤ 0
  top : (Nat.log2 f.maxM : Int) + f.maxE + f.bias < 2 ^ f.ebits
  maxShort : f.maxM ≤ 2 ^ (f.fbits + 1)
  maxLeast : f.emin - f.fbits ≤ f.maxE
  ebits : 0 < f.ebits

theorem sound_of_mem {f : FFmt} (h : f ∈ formats) : f.Sound := by
  simp only [formats, List.mem_cons, List.not_mem_nil, or_false] at h
  rcases h with rfl | rfl | rfl | rfl | rfl | rfl <;> exact ⟨by decide, by decide, by decide, by decide, by decide⟩

theorem dyadicLt_self (m : Nat) (e : Int) : dyadicLt m e m e = false := by
  simp [dyadicLt]

theorem dyadicLt_zero (m : Nat) (e q : Int) : dyadicLt m e 0 q = false := by
  simp [dyadicLt, shiftTo]

/-- The bits below a shift's place, and one for the rounding. -/
theorem roundShift_le {mode : Rm} {neg : Bool} {m sh : Nat} (h : 0 < sh) : roundShift mode neg m sh ≤ m / 2 ^ sh + 1 := by
  have hup : ∀ (up : Bool) (k : Nat), (if up then k + 1 else k) ≤ k + 1 := by
    intro up k
    cases up
    · exact Nat.le_succ k
    · exact le_refl _
  unfold roundShift
  rw [if_neg (Nat.pos_iff_ne_zero.1 h)]
  exact hup _ _

/-- A rounded value overflows, to an infinity of its sign or the largest value of its sign, or is of its sign and fits. -/
theorem round_cases {f : FFmt} (hf : f.Sound) (mode : Rm) (neg : Bool) (m : Nat) (e : Int) :
    ((f.round mode neg m e).2 = true ∧
        ((f.round mode neg m e).1 = .inf neg ∨ (f.round mode neg m e).1 = .fin neg f.maxM f.maxE)) ∨
      (f.round mode neg m e).2 = false ∧ ∃ k q, (f.round mode neg m e).1 = .fin neg k q ∧ f.Fits k q := by
  unfold FFmt.round
  by_cases hm : m = 0
  · rw [if_pos hm]
    exact .inr ⟨rfl, 0, 0, rfl, Nat.zero_le _, hf.zero, dyadicLt_zero _ _ _⟩
  rw [if_neg hm]
  dsimp only
  generalize hee : (if (Nat.log2 m : Int) + e < f.emin then f.emin else (Nat.log2 m : Int) + e) = ee
  have hmin : f.emin ≤ ee := by rw [← hee]; split <;> omega
  have htop : (Nat.log2 m : Int) + e ≤ ee := by rw [← hee]; split <;> omega
  generalize hk : (if ee - f.fbits ≤ e then shiftTo m e (ee - f.fbits)
    else roundShift mode neg m (ee - f.fbits - e).toNat) = k
  have hlog : m < 2 ^ (Nat.log2 m + 1) := Nat.lt_log2_self
  have hshort : k ≤ 2 ^ (f.fbits + 1) := by
    rw [← hk]
    split
    · next hq =>
      calc m * 2 ^ (e - (ee - f.fbits)).toNat ≤ 2 ^ (Nat.log2 m + 1) * 2 ^ (e - (ee - f.fbits)).toNat :=
            Nat.mul_le_mul_right _ hlog.le
        _ = 2 ^ (Nat.log2 m + 1 + (e - (ee - f.fbits)).toNat) := (Nat.pow_add _ _ _).symm
        _ ≤ 2 ^ (f.fbits + 1) := Nat.pow_le_pow_right (by decide) (by omega)
    · next hq =>
      refine (roundShift_le (by omega)).trans (Nat.div_lt_of_lt_mul ?_)
      rw [← Nat.pow_add]
      exact hlog.trans_le (Nat.pow_le_pow_right (by decide) (by omega))
  split
  · exact .inl ⟨rfl, ite_eq_or_eq _ _ _⟩
  · next hlarge => exact .inr ⟨rfl, k, _, rfl, hshort, by omega, by simpa using hlarge⟩

theorem max_fits {f : FFmt} (hf : f.Sound) : f.Fits f.maxM f.maxE := ⟨hf.maxShort, hf.maxLeast, dyadicLt_self _ _⟩

/-- A rounded value is an infinity of its sign, or of its sign and fits. -/
theorem round_fits {f : FFmt} (hf : f.Sound) (mode : Rm) (neg : Bool) (m : Nat) (e : Int) :
    (f.round mode neg m e).1 = .inf neg ∨ ∃ k q, (f.round mode neg m e).1 = .fin neg k q ∧ f.Fits k q := by
  rcases round_cases hf mode neg m e with ⟨-, h | h⟩ | ⟨-, h⟩
  · exact .inl h
  · exact .inr ⟨_, _, h, max_fits hf⟩
  · exact .inr h

/-! ## The pattern of a value that fits (R17) -/

theorem shiftTo_shiftTo {m : Nat} {e q z : Int} (hz : z ≤ q) (hq : q ≤ e) : shiftTo (shiftTo m e q) q z = shiftTo m e z := by
  unfold shiftTo
  rw [Nat.mul_assoc, ← Nat.pow_add]
  congr 2
  omega

/-- A magnitude that is not larger has its leading bit no higher. -/
theorem top_le_of_not_dyadicLt {m k : Nat} {e q : Int} (hk : k ≠ 0) (h : dyadicLt m e k q = false) :
    (Nat.log2 k : Int) + q ≤ Nat.log2 m + e := by
  simp only [dyadicLt, decide_eq_false_iff_not, Nat.not_lt] at h
  generalize hr : (if q ≤ e then q else e) = r at h
  have hrq : r ≤ q ∧ r ≤ e := by rw [← hr]; split <;> omega
  have hpow : 2 ^ (Nat.log2 k + (q - r).toNat) < 2 ^ (Nat.log2 m + 1 + (e - r).toNat) :=
    calc 2 ^ (Nat.log2 k + (q - r).toNat) ≤ k * 2 ^ (q - r).toNat := by
          rw [Nat.pow_add]
          exact Nat.mul_le_mul_right _ (Nat.log2_self_le hk)
      _ ≤ m * 2 ^ (e - r).toNat := h
      _ < 2 ^ (Nat.log2 m + 1 + (e - r).toNat) := by
          rw [Nat.pow_add]
          exact Nat.mul_lt_mul_of_pos_right Nat.lt_log2_self (Nat.two_pow_pos _)
  have := (Nat.pow_lt_pow_iff_right (by decide : 1 < 2)).1 hpow
  omega

/-- The significand of a normal value: its leading bit at place n, and no bit lost. -/
theorem significand_of_short {k n : Nat} {q : Int} (hk : k ≠ 0) (hshort : k ≤ 2 ^ (n + 1)) :
    let r := (Nat.log2 k : Int) + q - n
    let fr := if r ≤ q then shiftTo k q r else k / 2 ^ (r - q).toNat
    2 ^ n ≤ fr ∧ fr < 2 ^ n + 2 ^ n ∧ ∀ z, z ≤ q → z ≤ r → shiftTo k q z = shiftTo fr r z := by
  intro r fr
  have hlow := Nat.log2_self_le hk
  have hhigh : k < 2 ^ (Nat.log2 k + 1) := Nat.lt_log2_self
  rw [← Nat.two_mul, ← Nat.pow_succ', Nat.succ_eq_add_one]
  by_cases hr : r ≤ q
  · have hfr : fr = k * 2 ^ (n - Nat.log2 k) := by
      simp only [fr, if_pos hr, shiftTo]
      congr 2
      omega
    have hn : n = Nat.log2 k + (n - Nat.log2 k) := by omega
    refine ⟨?_, ?_, fun z _ hz => ?_⟩
    · rw [hfr]
      conv_lhs => rw [hn, Nat.pow_add]
      exact Nat.mul_le_mul_right _ hlow
    · rw [hfr, show n + 1 = Nat.log2 k + 1 + (n - Nat.log2 k) by omega, Nat.pow_add]
      exact Nat.mul_lt_mul_of_pos_right hhigh (Nat.two_pow_pos _)
    · simp only [fr, if_pos hr]
      exact (shiftTo_shiftTo hz hr).symm
  · have hlog : Nat.log2 k = n + 1 := by
      have := (Nat.pow_le_pow_iff_right (by decide : 1 < 2)).1 (hlow.trans hshort)
      omega
    have hk2 : k = 2 ^ (n + 1) := Nat.le_antisymm hshort (hlog ▸ hlow)
    have hfr : fr = 2 ^ n := by
      simp only [fr, if_neg hr]
      rw [show (r - q).toNat = 1 by omega, hk2, Nat.pow_succ, Nat.pow_one, Nat.mul_div_cancel _ (by decide)]
    refine ⟨hfr.ge, hfr ▸ Nat.pow_lt_pow_right (by decide) (Nat.lt_succ_self n), fun z hz _ => ?_⟩
    rw [hfr, hk2, shiftTo, shiftTo, ← Nat.pow_add, ← Nat.pow_add]
    congr 1
    omega

/-- The fields of the pattern of a value that fits, and the number that they stand for. -/
theorem encode_fields {f : FFmt} {k : Nat} {q : Int} (neg : Bool) (h : f.Fits k q) :
    ∃ ex fr, f.encode (.fin neg k q) = f.sign neg + (ex * 2 ^ f.fbits + fr) ∧ fr < 2 ^ f.fbits ∧
      (ex = 0 ∨ (ex : Int) ≤ Nat.log2 f.maxM + f.maxE + f.bias) ∧
      ∀ z, z ≤ q → z ≤ f.emin - f.fbits →
        shiftTo k q z =
          if ex = 0 then shiftTo fr (f.emin - f.fbits) z else shiftTo (2 ^ f.fbits + fr) (ex - f.bias - f.fbits) z := by
  by_cases hk : k = 0
  · subst hk
    exact ⟨0, 0, by simp [FFmt.encode], Nat.two_pow_pos _, .inl rfl, fun z _ _ => by simp [shiftTo]⟩
  have hlargest := top_le_of_not_dyadicLt hk h.largest
  have hleast := h.least
  simp only [FFmt.encode, if_neg hk]
  by_cases htop : (Nat.log2 k : Int) + q < f.emin
  · refine ⟨0, shiftTo k q (f.emin - f.fbits), ?_, ?_, .inl rfl, fun z _ hz => ?_⟩
    · rw [if_pos htop, if_pos hleast, Nat.zero_mul, Nat.zero_add]
    · calc k * 2 ^ (q - (f.emin - f.fbits)).toNat < 2 ^ (Nat.log2 k + 1) * 2 ^ (q - (f.emin - f.fbits)).toNat :=
            Nat.mul_lt_mul_of_pos_right Nat.lt_log2_self (Nat.two_pow_pos _)
        _ = 2 ^ (Nat.log2 k + 1 + (q - (f.emin - f.fbits)).toNat) := (Nat.pow_add _ _ _).symm
        _ ≤ 2 ^ f.fbits := Nat.pow_le_pow_right (by decide) (by omega)
    · rw [if_pos rfl, shiftTo_shiftTo hz hleast]
  · obtain ⟨hlow, hhigh, hsame⟩ := significand_of_short (q := q) hk h.short
    have hmin : f.emin = 1 - f.bias := rfl
    have hex : (((Nat.log2 k : Int) + q + f.bias).toNat : Int) = Nat.log2 k + q + f.bias := Int.toNat_of_nonneg (by omega)
    refine ⟨((Nat.log2 k : Int) + q + f.bias).toNat, _, ?_, Nat.sub_lt_left_of_lt_add hlow hhigh, .inr (by omega),
      fun z hz hz' => ?_⟩
    · rw [if_neg htop, Nat.add_assoc]
    · rw [if_neg (by omega), Nat.add_sub_cancel' hlow, hex, hsame z hz (by omega)]
      congr 1
      omega

theorem sign_eq (f : FFmt) (neg : Bool) : f.sign neg = neg.toNat * 2 ^ (f.ebits + f.fbits) := by
  cases neg <;> simp [FFmt.sign]

/-- The pattern of a value that fits has the format's width. -/
theorem encode_fin_lt {f : FFmt} (hf : f.Sound) {k : Nat} {q : Int} (neg : Bool) (h : f.Fits k q) :
    f.encode (.fin neg k q) < 2 ^ (f.ebits + f.fbits + 1) := by
  obtain ⟨ex, fr, he, hfr, hex, -⟩ := encode_fields neg h
  have hlt : ex < 2 ^ f.ebits := by
    have htop := hf.top
    have hpos := Nat.two_pow_pos f.ebits
    rcases hex with rfl | hex
    · exact hpos
    · exact_mod_cast hex.trans_lt htop
  have hmag : ex * 2 ^ f.fbits + fr < 2 ^ (f.ebits + f.fbits) :=
    calc ex * 2 ^ f.fbits + fr < (ex + 1) * 2 ^ f.fbits := by rw [Nat.succ_mul]; omega
      _ ≤ 2 ^ f.ebits * 2 ^ f.fbits := Nat.mul_le_mul_right _ hlt
      _ = 2 ^ (f.ebits + f.fbits) := (Nat.pow_add _ _ _).symm
  have hneg : neg.toNat * 2 ^ (f.ebits + f.fbits) ≤ 2 ^ (f.ebits + f.fbits) := mul_le_of_le_one_left' (Bool.toNat_le _)
  rw [he, sign_eq, Nat.pow_succ]
  omega

/-- A pattern's fields are read as they were put together. -/
theorem decode_fields {f : FFmt} {ex fr : Nat} (neg : Bool) (hfr : fr < 2 ^ f.fbits) (hex : ex + 1 < 2 ^ f.ebits) :
    f.decode (f.sign neg + (ex * 2 ^ f.fbits + fr)) =
      if ex = 0 then .fin neg fr (f.emin - f.fbits) else .fin neg (2 ^ f.fbits + fr) (ex - f.bias - f.fbits) := by
  have hx : f.sign neg + (ex * 2 ^ f.fbits + fr) = 2 ^ f.fbits * (2 ^ f.ebits * neg.toNat + ex) + fr := by
    rw [sign_eq, Nat.pow_add]
    ring
  have hlow : (f.sign neg + (ex * 2 ^ f.fbits + fr)) % 2 ^ f.fbits = fr := by
    rw [hx, Nat.mul_add_mod, Nat.mod_eq_of_lt hfr]
  have hhigh : (f.sign neg + (ex * 2 ^ f.fbits + fr)) / 2 ^ f.fbits = 2 ^ f.ebits * neg.toNat + ex := by
    rw [hx, Nat.mul_add_div (Nat.two_pow_pos _), Nat.div_eq_of_lt hfr, Nat.add_zero]
  have hneg : (f.sign neg + (ex * 2 ^ f.fbits + fr)).testBit (f.fbits + f.ebits) = neg := by
    rw [Nat.add_comm f.fbits, ← Nat.testBit_div_two_pow, hhigh, Nat.testBit_two_pow_mul_add _ (by omega), if_neg (lt_irrefl _), Nat.sub_self]
    cases neg <;> rfl
  have hspecial : f.special ex fr = false := by
    rw [FFmt.special, Bool.and_eq_false_iff]
    exact .inl (beq_false_of_ne (by omega))
  unfold FFmt.decode
  rw [hlow, hhigh, Nat.mul_add_mod, Nat.mod_eq_of_lt (show ex < 2 ^ f.ebits by omega), hneg]
  simp only [hspecial, Bool.false_eq_true, if_false]

/-- The pattern of a value that fits reads as the same number, in a format that keeps its largest exponent field for infinities. -/
theorem same_decode_encode {f : FFmt} (hf : f.Sound) (hwide : (Nat.log2 f.maxM : Int) + f.maxE + f.bias + 1 < 2 ^ f.ebits)
    {k : Nat} {q : Int} (neg : Bool) (h : f.Fits k q) : (FVal.fin neg k q).Same (f.decode (f.encode (.fin neg k q))) := by
  obtain ⟨ex, fr, he, hfr, hex, hsame⟩ := encode_fields neg h
  have hlt : ex + 1 < 2 ^ f.ebits := by
    rcases hex with rfl | hex
    · exact Nat.one_lt_two_pow (Nat.pos_iff_ne_zero.1 hf.ebits)
    · exact_mod_cast (Int.add_le_add_right hex 1).trans_lt hwide
  have hz : ∀ z ≤ min q (f.emin - f.fbits), _ := fun z hz => hsame z (by omega) (by omega)
  rw [he, decode_fields neg hfr hlt]
  by_cases h0 : ex = 0
  · simp only [if_pos h0] at hz ⊢
    exact ⟨rfl, _, hz⟩
  · simp only [if_neg h0] at hz ⊢
    exact ⟨rfl, _, hz⟩

/-- A value rounded to f32 reads from its pattern as the same number. -/
theorem same_decode_roundV (mode : Rm) (v : FVal) :
    (FFmt.f32.roundV mode v).Same (FFmt.f32.decode (FFmt.f32.encode (FFmt.f32.roundV mode v))) := by
  have hnan : ∀ n, FFmt.f32.decode (FFmt.f32.encode (.nan n)) = .nan false := by decide
  have hinf : ∀ n, FFmt.f32.decode (FFmt.f32.encode (.inf n)) = .inf n := by decide
  have hf : FFmt.f32.Sound := sound_of_mem (by simp [formats])
  rcases v with n | n | ⟨n, m, e⟩
  · show (FVal.nan n).Same (FFmt.f32.decode (FFmt.f32.encode (.nan n)))
    rw [hnan]
    trivial
  · show (FVal.inf n).Same (FFmt.f32.decode (FFmt.f32.encode (.inf n)))
    rw [hinf]
    exact rfl
  · rcases round_fits hf mode n m e with h | ⟨k, q, h, hfits⟩
    · rw [FFmt.roundV, h, hinf]
      exact rfl
    · rw [FFmt.roundV, h]
      exact same_decode_encode hf (by decide) n hfits

/-- The pattern of a rounded value has the format's width. -/
theorem encode_roundV_lt {f : FFmt} (hf : f ∈ formats) (mode : Rm) (v : FVal) :
    f.encode (f.roundV mode v) < 2 ^ (f.ebits + f.fbits + 1) := by
  have hspecial : ∀ f ∈ formats, ∀ n, f.encode (.nan n) < 2 ^ (f.ebits + f.fbits + 1) ∧
      f.encode (.inf n) < 2 ^ (f.ebits + f.fbits + 1) := by
    decide
  rcases v with n | n | ⟨n, m, e⟩
  · exact (hspecial f hf n).1
  · exact (hspecial f hf n).2
  · rcases round_fits (sound_of_mem hf) mode n m e with h | ⟨k, q, h, hfits⟩
    · rw [FFmt.roundV, h]
      exact (hspecial f hf n).2
    · rw [FFmt.roundV, h]
      exact encode_fin_lt (sound_of_mem hf) n hfits

end Sys2Proof
end

section
/-!
SUPPORT. Sums that are rounded (R24, R28, R149), and accumulators over the parts of a sum (R38, R41).
-/

namespace Sys2Proof.Machine

open Claims

/-! ## Patterns of results -/

theorem encode_roundV (f : FFmt) (rm : Rm) (v : FVal) : f.encode (f.roundV rm v) = pattern f rm false v := by
  cases v <;> simp [FFmt.roundV, pattern]

theorem pattern_f32_lt (rm : Rm) (sat : Bool) (v : FVal) : pattern .f32 rm sat v < 2 ^ 32 := by
  have hf : FFmt.f32 ∈ formats := by simp [formats]
  have hround := encode_roundV_lt hf rm v
  cases v with
  | nan n => exact hround
  | inf n => exact hround
  | fin n m e =>
    rw [pattern]
    split
    · exact encode_fin_lt (sound_of_mem hf) n (max_fits (sound_of_mem hf))
    · exact hround

theorem satFloat_finite {f : FFmt} {sat : Bool} {xs : List FVal} (h : ∀ x ∈ xs, ∃ n m e, x = .fin n m e) (n : Bool) :
    satFloat f sat xs (.inf n) = if sat then .fin n f.maxM f.maxE else .inf n := by
  unfold satFloat
  refine if_congr ?_ rfl rfl
  rw [Bool.and_eq_true, and_iff_left]
  refine List.all_eq_true.2 fun x hx => ?_
  obtain ⟨n, m, e, rfl⟩ := h x hx
  rfl

theorem satFloat_infinite {f : FFmt} {sat : Bool} {xs : List FVal} (h : ¬ ∀ x ∈ xs, ∃ n m e, x = .fin n m e) (v : FVal) :
    satFloat f sat xs v = v := by
  cases v with
  | nan n => rfl
  | fin n m e => rfl
  | inf n =>
    unfold satFloat
    simp only
    rw [if_neg]
    intro hall
    refine h fun x hx => ?_
    have := List.all_eq_true.1 (Bool.and_eq_true_iff.1 hall).2 x hx
    rcases x with _ | _ | ⟨n, m, e⟩
    · exact absurd this Bool.false_ne_true
    · exact absurd this Bool.false_ne_true
    · exact ⟨n, m, e, rfl⟩

/-- A result with R149's saturation, of operands that are all finite just where the exact result is. -/
theorem encode_satFloat {f : FFmt} (hf : f.Sound) {xs : List FVal} {v : FVal} (rm : Rm) (sat : Bool)
    (h : (∀ x ∈ xs, ∃ n m e, x = .fin n m e) ↔ ∃ n m e, v = .fin n m e) :
    f.encode (satFloat f sat xs (f.roundV rm v)) = pattern f rm sat v := by
  rcases v with n | n | ⟨n, m, e⟩
  · rw [satFloat_infinite (mt h.1 (by simp))]
    rfl
  · rw [satFloat_infinite (mt h.1 (by simp))]
    rfl
  · have hfin := h.2 ⟨n, m, e, rfl⟩
    rw [FFmt.roundV, pattern]
    rcases round_cases hf rm n m e with ⟨hover, hinf | hmax⟩ | ⟨hfits, k, q, hk, -⟩
    · rw [hinf, satFloat_finite hfin, hover]
      cases sat <;> rfl
    · rw [hmax, hover, ite_self]
      rfl
    · rw [hk, hfits, if_neg (by simp)]
      rfl

/-- An exact sum is finite just where all its terms are. -/
theorem exactSum_finite_iff (zn : Bool) (xs : List FVal) :
    (∀ x ∈ xs, ∃ n m e, x = .fin n m e) ↔ ∃ n m e, exactSum zn xs = .fin n m e := by
  constructor
  · intro h
    have hnan : xs.any FVal.isNan = false := by
      rw [List.any_eq_false]
      intro x hx
      obtain ⟨n, m, e, rfl⟩ := h x hx
      exact Bool.false_ne_true
    have hinf : ∀ b, xs.any (fun v => v == .inf b) = false := fun b => by
      rw [List.any_eq_false]
      intro x hx
      obtain ⟨n, m, e, rfl⟩ := h x hx
      simp
    simp only [exactSum, hnan, hinf, Bool.and_self, Bool.false_eq_true, if_false]
    split
    · exact ⟨_, _, _, rfl⟩
    · exact ⟨_, _, _, rfl⟩
  · rintro ⟨n, m, e, h⟩
    have hmem : ∀ b, xs.any (fun v => v == .inf b) = true ↔ .inf b ∈ xs := by simp
    simp only [exactSum] at h
    split at h
    · exact absurd h FVal.noConfusion
    next hnan =>
    split at h
    · exact absurd h FVal.noConfusion
    split at h
    · exact absurd h FVal.noConfusion
    next hpos =>
    split at h
    · exact absurd h FVal.noConfusion
    next hneg => exact finite_of_not hnan (mt (hmem _).2 hpos) (mt (hmem _).2 hneg)

/-- R24, R25, R149: a sum of two patterns. -/
theorem fltAdd_adds {f : FFmt} (hf : f.Sound) (sat : Bool) (rm : Rm) (x y : Nat) : Adds f rm sat x y (fltAdd f sat rm x y) :=
  ⟨_, exactSum_exact rm _, encode_satFloat hf rm sat (exactSum_finite_iff _ _)⟩

/-! ## Accumulators (R38, R41) -/

/-- The accumulator after n parts: each rounded, then added. -/
def accumulated (part : Nat → FVal) (start : Nat) : Nat → Nat
  | 0 => start
  | n + 1 => accAdd (accumulated part start n) (FFmt.f32.roundV .rne (part n))

/-- A value that was rounded is added as its pattern is. -/
theorem accAdd_roundV (acc : Nat) (v : FVal) :
    ∃ w, ExactSum .rne [FFmt.f32.decode acc, FFmt.f32.decode (pattern .f32 .rne false v)] w ∧
      accAdd acc (FFmt.f32.roundV .rne v) = pattern .f32 .rne false w := by
  refine ⟨exactSum false [FFmt.f32.decode acc, FFmt.f32.roundV .rne v], ?_, encode_roundV _ _ _⟩
  rw [← encode_roundV]
  exact exactSum_congr (same_decode_roundV _ _) (exactSum_exact .rne _)

theorem accumulates_accumulated {parts start : Nat} {claim : Nat → FVal → Prop} {part : Nat → FVal}
    (h : ∀ n < parts, claim n (part n)) : Accumulates parts start claim (accumulated part start parts) := by
  refine ⟨accumulated part start, rfl, rfl, fun n hn => ?_⟩
  obtain ⟨w, hsum, hw⟩ := accAdd_roundV (accumulated part start n) (part n)
  exact ⟨part n, w, h n hn, hsum, hw⟩

theorem accumulated_lt {part : Nat → FVal} {start : Nat} (hs : start < 2 ^ 32) (n : Nat) : accumulated part start n < 2 ^ 32 := by
  cases n with
  | zero => exact hs
  | succ n =>
    obtain ⟨w, -, hw⟩ := accAdd_roundV (accumulated part start n) (part n)
    rw [accumulated, hw]
    exact pattern_f32_lt _ _ _

theorem foldl_accAdd (part : Nat → FVal) (start n : Nat) :
    (List.range n).foldl (fun acc k => accAdd acc (FFmt.f32.roundV .rne (part k))) start = accumulated part start n := by
  induction n with
  | zero => rfl
  | succ n ih => rw [List.range_succ, List.foldl_append, ih]; rfl

/-- The exact sum of the products of [lo, hi). -/
def rangeSum (prod : Nat → FVal) (lo hi : Nat) : FVal := exactSum false (prodsOf prod lo (hi - lo))

theorem rangeSum_sumsProducts {prod : Nat → FVal} {claim : Nat → FVal → Prop} (h : ∀ k, claim k (prod k)) (lo hi : Nat) :
    SumsProducts lo hi claim (rangeSum prod lo hi) := by
  refine ⟨prodsOf prod lo (hi - lo), by simp [prodsOf], fun n p hp => ?_, exactSum_exact .rne _⟩
  obtain ⟨hn, rfl⟩ := List.getElem?_eq_some_iff.1 hp
  simp only [prodsOf, List.getElem_map, List.getElem_range]
  exact h _

/-- The walk over K in chunks accumulates the chunks' sums. -/
theorem chunkSum_eq {prod : Nat → FVal} {chunk len start : Nat} (hc : 0 < chunk) (fuel n : Nat)
    (hn : n ≤ (len + chunk - 1) / chunk) (hfuel : (len + chunk - 1) / chunk ≤ n + fuel) :
    let part := fun n => rangeSum prod (n * chunk) (min len ((n + 1) * chunk))
    chunkSum prod chunk len (n * chunk) (accumulated part start n) fuel =
      accumulated part start ((len + chunk - 1) / chunk) := by
  intro part
  induction fuel generalizing n with
  | zero =>
    rw [Nat.le_antisymm hfuel hn]
    rfl
  | succ fuel ih =>
    rw [chunkSum]
    have hlast : len ≤ n * chunk ↔ (len + chunk - 1) / chunk ≤ n := by
      rw [Nat.div_le_iff_le_mul_add_pred hc, Nat.mul_comm]
      omega
    by_cases hlen : len ≤ n * chunk
    · rw [if_pos hlen, Nat.le_antisymm hn (hlast.1 hlen)]
    · have hsum : exactSum false (prodsOf prod (n * chunk) (Nat.min chunk (len - n * chunk))) = part n := by
        have hlen : min chunk (len - n * chunk) = min len ((n + 1) * chunk) - n * chunk := by
          rw [Nat.succ_mul]
          omega
        exact congrArg (fun k => exactSum false (prodsOf prod (n * chunk) k)) hlen
      have hnext := ih (n + 1) (Nat.lt_of_not_le (mt hlast.2 hlen)) (by omega)
      rw [if_neg hlen, ← hnext, Nat.succ_mul]
      simp only [hsum]
      rfl

end Sys2Proof.Machine
end

section
/-!
SUPPORT. The integer (R27) and the half-step code (R22) nearest a value: each is the only one that its rule allows.
-/

namespace Sys2Proof

open Machine Machine.Claims

/-! ## Values rounded to integers (R27) -/

/-- The magnitude of a finite value rounded to an integer. -/
def roundMag (mode : Rm) (neg : Bool) (m : Nat) (e : Int) : Nat :=
  if 0 ≤ e then m * 2 ^ e.toNat else roundShift mode neg m (-e).toNat

theorem roundInt_eq (mode : Rm) (neg : Bool) (m : Nat) (e : Int) :
    roundInt mode neg m e = if neg then -(roundMag mode neg m e : Int) else roundMag mode neg m e := rfl

theorem integral_le {rm : Rm} {neg : Bool} {m : Nat} {e : Int} {a b : Nat} (ha : Integral rm neg m e a)
    (hb : Integral rm neg m e b) : a ≤ b := by
  by_contra hlt
  have hd := Nat.two_pow_pos (-e).toNat
  have hstep : (b + 1) * 2 ^ (-e).toNat ≤ a * 2 ^ (-e).toNat := Nat.mul_le_mul_right _ (by omega)
  have hiff : a = b + 1 ↔ a * 2 ^ (-e).toNat = b * 2 ^ (-e).toNat + 2 ^ (-e).toNat := by
    rw [← Nat.succ_mul]
    exact (Nat.mul_left_inj hd.ne').symm
  unfold Integral at ha hb
  simp only [Nat.add_mul, Nat.mul_assoc, Nat.one_mul] at ha hb hstep
  generalize 2 ^ (-e).toNat = d at *
  generalize a * d = ad at *
  generalize b * d = bd at *
  generalize m * 2 ^ e.toNat = x at *
  cases rm <;> cases neg <;> simp only [Bool.false_eq_true, if_true, if_false] at ha hb <;> omega

/-- The shift of R28 rounds to the integer of R27: the floor, the ceiling, or the nearer of the two. -/
theorem roundShift_integral (rm : Rm) (neg : Bool) (m : Nat) {e : Int} (he : ¬ 0 ≤ e) :
    Integral rm neg m e (roundShift rm neg m (-e).toNat) := by
  have hdiv := Nat.div_add_mod m (2 ^ (-e).toNat)
  have hmod := Nat.mod_lt m (Nat.two_pow_pos (-e).toNat)
  unfold Integral roundShift
  simp only [if_neg (show ¬ (-e).toNat = 0 by omega), show e.toNat = 0 by omega, Nat.pow_zero, Nat.mul_one]
  rw [Nat.mul_comm] at hdiv
  generalize 2 ^ (-e).toNat = d at *
  generalize m / d = k at *
  generalize m % d = r at *
  have hfloor : k * d ≤ m ∧ m < (k + 1) * d := by
    rw [Nat.succ_mul]
    omega
  have hceil : m ≤ (if (r != 0) = true then k + 1 else k) * d ∧ (if (r != 0) = true then k + 1 else k) * d < m + d := by
    split
    · next h =>
      have : r ≠ 0 := by simpa using h
      rw [Nat.succ_mul]
      omega
    · next h =>
      have : r = 0 := by simpa using h
      omega
  cases rm
  case rtz => exact hfloor
  case rdn => cases neg <;> [exact hfloor; exact hceil]
  case rup => cases neg <;> [exact hceil; exact hfloor]
  case rne =>
    clear hfloor hceil
    simp only [Bool.or_eq_true, Bool.and_eq_true, decide_eq_true_eq, beq_iff_eq]
    split
    · next h =>
      simp only [Nat.add_mul, Nat.mul_add, Nat.mul_assoc]
      refine ⟨by omega, by omega, fun htie => ?_⟩
      exact Nat.succ_mod_two_eq_zero_iff.2 (h.elim (fun h => by omega) And.right)
    · next h =>
      simp only [Nat.add_mul, Nat.mul_assoc]
      exact ⟨by omega, by omega, fun htie => by omega⟩

theorem integral_roundMag (rm : Rm) (neg : Bool) (m : Nat) (e : Int) : Integral rm neg m e (roundMag rm neg m e) := by
  unfold roundMag
  split
  · next he =>
    unfold Integral
    rw [show (-e).toNat = 0 by omega]
    generalize m * 2 ^ e.toNat = x
    cases rm
    case rne => exact ⟨by omega, by omega, by omega⟩
    all_goals cases neg <;> exact ⟨by omega, by omega⟩
  · next he => exact roundShift_integral rm neg m he

theorem integral_iff {rm : Rm} {neg : Bool} {m : Nat} {e : Int} {k : Nat} :
    Integral rm neg m e k ↔ k = roundMag rm neg m e :=
  ⟨fun h => Nat.le_antisymm (integral_le h (integral_roundMag _ _ _ _)) (integral_le (integral_roundMag _ _ _ _) h),
    fun h => h ▸ integral_roundMag _ _ _ _⟩

/-! ## Values rounded to half steps (R22) -/

/-- Of the odd multiples of D, the one next below or at twice a magnitude is nearest to it, and at a tie the smaller. -/
theorem nearest_half {M D k : Int} (hk : 0 ≤ k) (hlow : k * D < M) (hhigh : M ≤ k * D + D) (j : Int) :
    (2 * M - (2 * k + 1) * D).natAbs ≤ (2 * M - (2 * j + 1) * D).natAbs ∧
      ((2 * M - (2 * k + 1) * D).natAbs = (2 * M - (2 * j + 1) * D).natAbs → (2 * k + 1).natAbs ≤ (2 * j + 1).natAbs) := by
  have hstep : j = k ∨ (k + 1 ≤ j ∧ k * D + D ≤ j * D) ∨ (j + 1 ≤ k ∧ j * D + D ≤ k * D) := by
    have hD : 0 ≤ D := by omega
    rcases lt_trichotomy j k with h | h | h
    · exact .inr (.inr ⟨h, by nlinarith⟩)
    · exact .inl h
    · exact .inr (.inl ⟨h, by nlinarith⟩)
  rcases hstep with rfl | hstep
  · exact ⟨le_refl _, fun _ => le_refl _⟩
  have hk2 : (2 * k + 1) * D = 2 * (k * D) + D := by ring
  have hj2 : (2 * j + 1) * D = 2 * (j * D) + D := by ring
  rw [hk2, hj2]
  omega

/-- The code of a finite value that is not 0: the multiple of the step next below its magnitude. -/
theorem roundHalf_pos {m : Nat} {e z : Int} (hm : m ≠ 0) (hz : z ≤ e) (hz0 : z ≤ 0) :
    roundHalf false m e = ((shiftTo m e z - 1) / 2 ^ (-z).toNat : Nat) := by
  have hM : 0 < shiftTo m e z := Nat.pos_of_ne_zero (mt (shiftTo_eq_zero_iff m e z).1 hm)
  have hpred := Nat.succ_div (a := shiftTo m e z - 1) (b := 2 ^ (-z).toNat)
  rw [Nat.sub_add_cancel hM] at hpred
  unfold roundHalf
  simp only [Bool.false_eq_true, if_false, Bool.and_eq_true, Bool.or_eq_true, decide_eq_true_eq, beq_iff_eq, bne_iff_ne]
  congr 1
  by_cases he : 0 ≤ e
  · have hsize : shiftTo m e z = m * 2 ^ e.toNat * 2 ^ (-z).toNat := by
      rw [Nat.mul_assoc, ← Nat.pow_add, shiftTo]
      congr 2
      omega
    have hpos : m * 2 ^ e.toNat ≠ 0 := by positivity
    rw [if_pos (hsize ▸ Nat.dvd_mul_left _ _)] at hpred
    rw [if_pos he, if_pos ⟨.inl he, hpos⟩]
    rw [hsize, Nat.mul_div_cancel _ (Nat.two_pow_pos _), ← hsize] at hpred
    omega
  · have hstep : 2 ^ (-z).toNat = 2 ^ (-e).toNat * 2 ^ (e - z).toNat := by
      rw [← Nat.pow_add]
      congr 1
      omega
    have hquot : shiftTo m e z / 2 ^ (-z).toNat = m / 2 ^ (-e).toNat := by
      rw [hstep, shiftTo, Nat.mul_div_mul_right _ _ (Nat.two_pow_pos _)]
    have hdvd : 2 ^ (-z).toNat ∣ shiftTo m e z ↔ m % 2 ^ (-e).toNat = 0 := by
      rw [hstep, shiftTo, Nat.mul_dvd_mul_iff_right (Nat.two_pow_pos _), Nat.dvd_iff_mod_eq_zero]
    rw [hquot] at hpred
    rw [if_neg he]
    by_cases hint : m % 2 ^ (-e).toNat = 0
    · have hpos : m / 2 ^ (-e).toNat ≠ 0 :=
        (Nat.div_pos (Nat.le_of_dvd (Nat.pos_of_ne_zero hm) (Nat.dvd_of_mod_eq_zero hint)) (Nat.two_pow_pos _)).ne'
      rw [if_pos (hdvd.2 hint)] at hpred
      rw [if_pos ⟨.inr hint, hpos⟩, hpred, Nat.add_sub_cancel]
    · rw [if_neg (mt hdvd.1 hint)] at hpred
      rw [if_neg (by simp [he, hint])]
      exact hpred

theorem roundHalf_bounds {m : Nat} {e z : Int} (hm : m ≠ 0) (hz : z ≤ e) (hz0 : z ≤ 0) :
    ∃ k : Int, 0 ≤ k ∧ (∀ neg, roundHalf neg m e = if neg then -k - 1 else k) ∧
      k * 2 ^ (-z).toNat < shiftTo m e z ∧ (shiftTo m e z : Int) ≤ k * 2 ^ (-z).toNat + 2 ^ (-z).toNat := by
  have hM : 0 < shiftTo m e z := Nat.pos_of_ne_zero (mt (shiftTo_eq_zero_iff m e z).1 hm)
  have hcode := roundHalf_pos hm hz hz0
  have hdiv := Nat.div_add_mod (shiftTo m e z - 1) (2 ^ (-z).toNat)
  have hmod := Nat.mod_lt (shiftTo m e z - 1) (Nat.two_pow_pos (-z).toNat)
  rw [Nat.mul_comm] at hdiv
  generalize (shiftTo m e z - 1) / 2 ^ (-z).toNat = k at *
  have hlow : k * 2 ^ (-z).toNat < shiftTo m e z := by omega
  have hhigh : shiftTo m e z ≤ k * 2 ^ (-z).toNat + 2 ^ (-z).toNat := by omega
  refine ⟨k, Int.natCast_nonneg _, fun neg => ?_, by exact_mod_cast hlow, by exact_mod_cast hhigh⟩
  rw [← hcode]
  cases neg <;> rfl

theorem halfCode_roundHalf (neg : Bool) (m : Nat) (e : Int) : HalfCode neg m e (roundHalf neg m e) := by
  unfold HalfCode
  by_cases hm : m = 0
  · subst hm
    cases neg <;> simp [roundHalf]
  rw [if_neg hm]
  refine ⟨min e 0, by omega, fun z hz => ?_⟩
  obtain ⟨k, hk, hcode, hlow, hhigh⟩ := roundHalf_bounds hm (by omega : z ≤ e) (by omega)
  intro off j
  simp only [off, hcode, at_fin]
  have hshift : ((m * 2 ^ (e - z).toNat : Nat) : Int) = shiftTo m e z := rfl
  cases neg
  · simpa [hshift] using nearest_half hk hlow hhigh j
  · have h := nearest_half hk hlow hhigh (-j - 1)
    have hflip : ∀ i : Int, (2 * ((-1) * (shiftTo m e z : Int)) - (2 * i + 1) * 2 ^ (-z).toNat).natAbs =
        (2 * (shiftTo m e z : Int) - (2 * (-i - 1) + 1) * 2 ^ (-z).toNat).natAbs := fun i => by
      rw [← Int.natAbs_neg]
      congr 1
      ring
    have hodd : ∀ i : Int, (2 * (-i - 1) + 1).natAbs = (2 * i + 1).natAbs := fun i => by omega
    simp only [if_true, hshift, hflip, show -(-k - 1) - 1 = k by omega]
    rw [hodd] at h
    rw [hodd]
    exact h

theorem halfCode_iff {neg : Bool} {m : Nat} {e k : Int} : HalfCode neg m e k ↔ k = roundHalf neg m e := by
  refine ⟨fun h => ?_, fun h => h ▸ halfCode_roundHalf neg m e⟩
  have h' := halfCode_roundHalf neg m e
  unfold HalfCode at h h'
  by_cases hm : m = 0
  · rw [if_pos hm] at h h'
    rw [h, h']
  rw [if_neg hm] at h h'
  obtain ⟨z0, -, h⟩ := h
  obtain ⟨z1, -, h'⟩ := h'
  have hk := h (min z0 z1) (by omega) (roundHalf neg m e)
  have hk' := h' (min z0 z1) (by omega) k
  generalize roundHalf neg m e = k' at *
  have hV : At (min z0 z1) (.fin neg m e) ≠ 0 := mt (at_eq_zero_iff _ _ _ _).1 hm
  dsimp only at hk hk'
  generalize At (min z0 z1) (.fin neg m e) = V at *
  have hD : (0 : Int) < 2 ^ (-(min z0 z1)).toNat := by positivity
  generalize (2 : Int) ^ (-(min z0 z1)).toNat = D at *
  have hoff := le_antisymm hk.1 hk'.1
  have habs := le_antisymm (hk.2 hoff) (hk'.2 hoff.symm)
  rcases Int.natAbs_eq_natAbs_iff.1 habs with heq | hopp
  · omega
  · have hk2 : (2 * k + 1) * D = -((2 * k' + 1) * D) := by rw [hopp]; ring
    rw [hk2] at hoff
    have hne : (2 * k' + 1) * D ≠ 0 := mul_ne_zero (by omega) hD.ne'
    omega

end Sys2Proof
end

section
/-!
SUPPORT. Conversions under a policy (R29 to R32): the class of a value for a target, and what `convert` delivers or faults on.
-/

namespace Sys2Proof

open Machine Machine.Claims

/-! ## Classes (R29) -/

/-- The code of a finite value in a target that is not floating: of half steps, or an integer. -/
def Ty.codeOf (t : Ty) (rm : Rm) (n : Bool) (m : Nat) (e : Int) : Int :=
  if t.isHalf then roundHalf n m e else roundInt rm n m e

/-- The least and the greatest code of a type that is not floating. -/
def Ty.minCode (t : Ty) : Int := if t.isHalf = true ∨ Ty.signed t = true then -(2 ^ (Ty.bits t - 1)) else 0
def Ty.maxCode (t : Ty) : Int :=
  if t.isHalf = true ∨ Ty.signed t = true then 2 ^ (Ty.bits t - 1) - 1 else 2 ^ Ty.bits t - 1

/-- The class of a value for a target, none where it is ordinary. -/
def classOf (t : Ty) (rm : Rm) : FVal → Option ConvClass
  | .nan _ => some .nan
  | .inf _ => some .inf
  | .fin n m e =>
    if t.isFloat then
      if ((Ty.ffmt t).round rm n m e).2 then some .ovf
      else if m ≠ 0 ∧ ((Ty.ffmt t).round rm n m e).1.isZero then some .unf
      else none
    else if t.codeOf rm n m e < t.minCode ∨ t.maxCode < t.codeOf rm n m e then some .ovf
    else none

/-- The pattern of an ordinary value. -/
def plainOf (t : Ty) (rm : Rm) : FVal → Nat
  | .fin n m e =>
    if t.isFloat then (Ty.ffmt t).encode ((Ty.ffmt t).round rm n m e).1
    else (t.codeOf rm n m e % 2 ^ Ty.bits t).toNat
  | _ => 0

/-- R22, R27: the code of a finite value is the only one that the rules allow. -/
theorem codeOf_iff {t : Ty} {rm : Rm} {n : Bool} {m : Nat} {e k : Int} :
    (if t.isHalf = true then HalfCode n m e k else ∃ q : Nat, Integral rm n m e q ∧ k = if n then -(q : Int) else q) ↔
      k = t.codeOf rm n m e := by
  unfold Ty.codeOf
  split
  · exact halfCode_iff
  · simp only [integral_iff, exists_eq_left, roundInt_eq]

/-- A value of a class has no pattern of its own. -/
theorem classed_some_iff {c : Option ConvClass} {d : ConvClass} {p : Prop} : c = some d ↔ c = some d ∧ (c = none → p) :=
  ⟨fun h => ⟨h, fun h' => absurd (h.symm.trans h') (Option.some_ne_none d)⟩, And.left⟩

/-- An ordinary value has its pattern. -/
theorem classed_none_iff {c : Option ConvClass} {p : Prop} : c = none ∧ p ↔ c = none ∧ (c = none → p) :=
  and_congr_right fun h => (imp_iff_right h).symm

theorem classed_iff {t : Ty} {rm : Rm} {x : FVal} {c : Option ConvClass} {y : Nat} :
    Classed t rm x c y ↔ c = classOf t rm x ∧ (c = none → y = plainOf t rm x) := by
  rcases x with n | n | ⟨n, m, e⟩
  · simp only [Classed, classOf]
    exact classed_some_iff
  · simp only [Classed, classOf]
    exact classed_some_iff
  · simp only [Classed, classOf, plainOf, codeOf_iff, exists_eq_left]
    split
    · split_ifs
      · exact classed_some_iff
      · exact classed_some_iff
      · exact classed_none_iff
    · show (if t.codeOf rm n m e < t.minCode ∨ t.maxCode < t.codeOf rm n m e then _ else _) ↔ _
      split_ifs
      · exact classed_some_iff
      · exact classed_none_iff

/-! ## Choices (R30, R31) -/

theorem choice_lt (pol : DWord) (c : ConvClass) : c.choice pol < 4 := by
  cases c <;> exact Nat.mod_lt _ (by decide)

theorem chosen_largest (t : Ty) (rm : Rm) (x : FVal) {c : ConvClass} (hc : c ≠ .unf) : chosen t rm x c 0 = t.largest x.isNeg := by
  cases c
  case unf => exact absurd rfl hc
  all_goals
    unfold chosen
    generalize x.isNeg = neg
    cases t <;> cases neg <;> rfl

theorem chosen_zero (t : Ty) (rm : Rm) (x : FVal) (c : ConvClass) :
    chosen t rm x c 1 = if c == .nan then t.zeroOf false else t.zeroOf x.isNeg := by
  unfold chosen
  generalize x.isNeg = neg
  cases c <;> cases t <;> cases neg <;> rfl

/-- The smallest value of a type's kind is one above the zero of the value's sign. -/
theorem chosen_least (t : Ty) (rm : Rm) (x : FVal) : chosen t rm x .unf 0 = t.zeroOf x.isNeg + 1 := by
  unfold chosen
  generalize x.isNeg = neg
  cases t <;> cases neg <;> rfl

/-- What passes of a NaN: the canonical NaN where the target has one, else the largest value. -/
theorem chosen_nan (t : Ty) (rm : Rm) (x : FVal) :
    chosen t rm x .nan 2 = if t.isFloat && (Ty.ffmt t).hasNan then (Ty.ffmt t).canonNan else t.largest x.isNeg := by
  unfold chosen
  generalize x.isNeg = neg
  cases t <;> cases neg <;> rfl

/-- What passes of an infinity: an infinity where the target has them, else the largest value. -/
theorem chosen_inf (t : Ty) (rm : Rm) (x : FVal) :
    chosen t rm x .inf 2 = if t.isFloat && (Ty.ffmt t).hasInf then (Ty.ffmt t).encode (.inf x.isNeg) else t.largest x.isNeg := by
  unfold chosen
  generalize x.isNeg = neg
  cases t <;> cases neg <;> rfl

/-- What passes on an underflow: a zero of the value's sign. -/
theorem chosen_underflow (t : Ty) (rm : Rm) (x : FVal) : chosen t rm x .unf 2 = t.zeroOf x.isNeg := by
  unfold chosen
  generalize x.isNeg = neg
  cases t <;> cases neg <;> rfl

/-- The targets with infinities. -/
theorem infinite_eq (t : Ty) : decide (t ∈ [Ty.f32, .f16, .bf16, .e5m2]) = (t.isFloat && (Ty.ffmt t).hasInf) := by
  cases t <;> rfl

/-- What passes on an overflow: the rounded value where the target has infinities, else the largest value. -/
theorem chosen_overflow (t : Ty) (rm : Rm) (n : Bool) (m : Nat) (e : Int) :
    chosen t rm (.fin n m e) .ovf 2 =
      if t.isFloat && (Ty.ffmt t).hasInf then (Ty.ffmt t).encode ((Ty.ffmt t).round rm n m e).1 else t.largest n := by
  rw [← infinite_eq, ← show chosen t rm (.fin n m e) .ovf 0 = t.largest n from chosen_largest t rm _ (by decide)]
  rfl

/-- A choice of a policy, from what its three choices that are no faults give. -/
theorem convChoose_eq {t : Ty} {rm : Rm} {x : FVal} {c : ConvClass} {sat prop : Nat} (pol : DWord)
    (hsat : chosen t rm x c 0 = sat) (hprop : chosen t rm x c 2 = prop) :
    convChoose t pol c x.isNeg sat prop =
      if c.choice pol = 3 then .fault c else .val (chosen t rm x c (c.choice pol)) := by
  have hlt := choice_lt pol c
  unfold convChoose
  generalize c.choice pol = i at hlt
  match i with
  | 0 => rw [← hsat]; rfl
  | 1 => rw [← chosen_zero t rm]; rfl
  | 2 => rw [← hprop]; rfl
  | 3 => rfl

/-! ## What `convert` gives (R29 to R32) -/

theorem ffmt_mem_formats (t : Ty) : Ty.ffmt t ∈ formats := by
  cases t <;> simp [Ty.ffmt, formats]

theorem convert_nan (t : Ty) (rm : Rm) (pol : DWord) (n : Bool) :
    convert t rm pol (.nan n) =
      if ConvClass.choice pol .nan = 3 then .fault .nan else .val (chosen t rm (.nan n) .nan (ConvClass.choice pol .nan)) := by
  exact convChoose_eq (x := .nan n) pol (chosen_largest t rm _ (by decide)) (chosen_nan t rm _)

theorem convert_inf (t : Ty) (rm : Rm) (pol : DWord) (n : Bool) :
    convert t rm pol (.inf n) =
      if ConvClass.choice pol .inf = 3 then .fault .inf else .val (chosen t rm (.inf n) .inf (ConvClass.choice pol .inf)) := by
  exact convChoose_eq (x := .inf n) pol (chosen_largest t rm _ (by decide)) (chosen_inf t rm _)

/-- A target that is not floating: the code, or the overflow of R29. -/
theorem convert_code {t : Ty} (hf : t.isFloat = false) (rm : Rm) (pol : DWord) (n : Bool) (m : Nat) (e : Int) :
    convert t rm pol (.fin n m e) =
      if t.codeOf rm n m e < t.minCode ∨ t.maxCode < t.codeOf rm n m e then
        if ConvClass.choice pol .ovf = 3 then .fault .ovf
        else .val (chosen t rm (.fin n m e) .ovf (ConvClass.choice pol .ovf))
      else .val (t.codeOf rm n m e % 2 ^ Ty.bits t).toNat := by
  have hovf : convChoose t pol .ovf n (t.largest n) (t.largest n) =
      if ConvClass.choice pol .ovf = 3 then .fault .ovf
      else .val (chosen t rm (.fin n m e) .ovf (ConvClass.choice pol .ovf)) := by
    refine convChoose_eq (x := .fin n m e) pol (chosen_largest t rm _ (by decide)) ?_
    rw [chosen_overflow, hf]
    rfl
  rw [← hovf]
  unfold convert
  simp only [hf, Bool.false_eq_true, if_false, Ty.codeOf, Ty.wrap, Nat.cast_pow, Nat.cast_ofNat]
  by_cases hh : t.isHalf = true
  · simp only [hh, if_true, Ty.minCode, Ty.maxCode, true_or]
  · simp only [hh, Bool.false_eq_true, if_false, Ty.minCode, Ty.maxCode, false_or, Ty.minInt, Ty.maxInt]
    rfl

/-- A floating target: the rounded value, or the overflow or the underflow of R29. -/
theorem convert_float {t : Ty} (hf : t.isFloat = true) (rm : Rm) (pol : DWord) (n : Bool) (m : Nat) (e : Int) :
    convert t rm pol (.fin n m e) =
      let gives := fun c => if ConvClass.choice pol c = 3 then ConvOut.fault c
        else .val (chosen t rm (.fin n m e) c (ConvClass.choice pol c))
      let r := (Ty.ffmt t).round rm n m e
      if r.2 then gives .ovf
      else if m ≠ 0 ∧ r.1.isZero then gives .unf
      else .val ((Ty.ffmt t).encode r.1) := by
  unfold convert
  simp only [hf, if_true]
  by_cases hover : ((Ty.ffmt t).round rm n m e).2 = true
  · rw [if_pos hover, if_pos hover]
    refine convChoose_eq (x := .fin n m e) pol (chosen_largest t rm _ (by decide)) ?_
    rw [chosen_overflow, hf, Bool.true_and]
    rcases round_cases (sound_of_mem (ffmt_mem_formats t)) rm n m e with ⟨-, h | h⟩ | ⟨h, -⟩
    · rw [h]
    · rw [h, Ty.largest, if_pos hf, ite_self]
    · exact absurd hover (by simp [h])
  · rw [if_neg hover, if_neg hover]
    by_cases hunder : m ≠ 0 ∧ ((Ty.ffmt t).round rm n m e).1.isZero = true
    · rw [if_pos hunder, if_pos hunder]
      exact convChoose_eq (x := .fin n m e) pol 
        ((chosen_least t rm _).trans (by rw [Ty.zeroOf, if_pos hf]; rfl))
        ((chosen_underflow t rm _).trans (by rw [Ty.zeroOf, if_pos hf]; rfl))
    · rw [if_neg hunder, if_neg hunder]

/-- R29 to R32: an ordinary value gives its pattern; a class gives what its choice says, or is a fault. -/
theorem convert_eq (t : Ty) (rm : Rm) (pol : DWord) (x : FVal) :
    (classOf t rm x = none ∧ convert t rm pol x = .val (plainOf t rm x)) ∨
      ∃ c, classOf t rm x = some c ∧ convert t rm pol x =
        if ConvClass.choice pol c = 3 then .fault c else .val (chosen t rm x c (ConvClass.choice pol c)) := by
  rcases x with n | n | ⟨n, m, e⟩
  · exact .inr ⟨.nan, rfl, convert_nan t rm pol n⟩
  · exact .inr ⟨.inf, rfl, convert_inf t rm pol n⟩
  cases hf : t.isFloat
  · rw [convert_code hf]
    simp only [classOf, plainOf, hf, Bool.false_eq_true, if_false]
    split
    · exact .inr ⟨.ovf, rfl, rfl⟩
    · exact .inl ⟨rfl, rfl⟩
  · rw [convert_float hf]
    simp only [classOf, plainOf, hf, if_true]
    split
    · exact .inr ⟨.ovf, rfl, rfl⟩
    · split
      · exact .inr ⟨.unf, rfl, rfl⟩
      · exact .inl ⟨rfl, rfl⟩

theorem convert_fault_iff {t : Ty} {rm : Rm} {pol : DWord} {x : FVal} {c : ConvClass} :
    convert t rm pol x = .fault c ↔ Faults t rm pol x c := by
  simp only [Faults, classed_iff, reduceCtorEq, false_implies, and_true, exists_const]
  rcases convert_eq t rm pol x with ⟨hclass, h⟩ | ⟨c', hclass, h⟩
  · simp [hclass, h]
  · rw [hclass, h]
    split
    · next hc => exact ⟨fun h => ConvOut.fault.inj h ▸ ⟨rfl, hc⟩, fun ⟨h, _⟩ => Option.some.inj h ▸ rfl⟩
    · next hc => exact ⟨fun h => absurd h ConvOut.noConfusion, fun ⟨h, h3⟩ => absurd (Option.some.inj h ▸ h3) hc⟩

theorem delivers_of_convert {t : Ty} {rm : Rm} {pol : DWord} {x : FVal} {y : Nat} (h : convert t rm pol x = .val y) :
    Delivers t rm pol x y := by
  rcases convert_eq t rm pol x with ⟨hclass, heq⟩ | ⟨c, hclass, heq⟩
  · refine .inl (classed_iff.2 ⟨hclass.symm, fun _ => ?_⟩)
    rw [heq] at h
    exact (ConvOut.val.inj h).symm
  · rw [heq] at h
    split at h
    · exact absurd h ConvOut.noConfusion
    · next hc => exact .inr ⟨c, classed_iff.2 ⟨hclass.symm, fun h' => by simp at h'⟩, hc, (ConvOut.val.inj h).symm⟩

/-! ## The width of what is delivered -/

/-- The floating types. -/
theorem isFloat_cases {t : Ty} (h : t.isFloat = true) :
    t = .f32 ∨ t = .f16 ∨ t = .bf16 ∨ t = .e4m3 ∨ t = .e5m2 ∨ t = .e2m1 := by
  cases t <;> simp [Ty.isFloat] at h ⊢

theorem width_ffmt {t : Ty} (h : t.isFloat = true) : (Ty.ffmt t).ebits + (Ty.ffmt t).fbits + 1 = Ty.bits t := by
  rcases isFloat_cases h with rfl | rfl | rfl | rfl | rfl | rfl <;> rfl

theorem encode_roundV_lt_bits {t : Ty} (h : t.isFloat = true) (rm : Rm) (v : FVal) :
    (Ty.ffmt t).encode ((Ty.ffmt t).roundV rm v) < 2 ^ Ty.bits t := by
  rw [← width_ffmt h]
  exact encode_roundV_lt (ffmt_mem_formats t) rm v

theorem largest_lt (t : Ty) (neg : Bool) : t.largest neg < 2 ^ Ty.bits t := by
  cases t <;> cases neg <;> decide

theorem zeroOf_lt (t : Ty) (neg : Bool) : t.zeroOf neg < 2 ^ Ty.bits t := by
  cases t <;> cases neg <;> decide

/-- The smallest value of a floating type. -/
theorem chosen_least_lt {t : Ty} (h : t.isFloat = true) (rm : Rm) (x : FVal) : chosen t rm x .unf 0 < 2 ^ Ty.bits t := by
  rw [chosen_least]
  generalize x.isNeg = neg
  rcases isFloat_cases h with rfl | rfl | rfl | rfl | rfl | rfl <;> cases neg <;> decide

/-- What a choice delivers for a class has the target's width. -/
theorem chosen_lt {t : Ty} {rm : Rm} {x : FVal} {c : ConvClass} {i : Nat} (hc : classOf t rm x = some c) (hi : i < 3) :
    chosen t rm x c i < 2 ^ Ty.bits t := by
  match i with
  | 0 =>
    by_cases hunf : c = .unf
    · subst hunf
      refine chosen_least_lt ?_ rm x
      rcases x with n | n | ⟨n, m, e⟩
      · simp [classOf] at hc
      · simp [classOf] at hc
      · by_contra hf
        simp [classOf, hf] at hc
    · exact chosen_largest t rm x hunf ▸ largest_lt t _
  | 1 =>
    rw [chosen_zero]
    split
    · exact zeroOf_lt t _
    · exact zeroOf_lt t _
  | 2 =>
    cases c
    case nan =>
      rw [chosen_nan]
      split
      · next h => exact encode_roundV_lt_bits (Bool.and_eq_true_iff.1 h).1 rm (.nan false)
      · exact largest_lt t _
    case inf =>
      rw [chosen_inf]
      split
      · next h => exact encode_roundV_lt_bits (Bool.and_eq_true_iff.1 h).1 rm (.inf x.isNeg)
      · exact largest_lt t _
    case unf => exact chosen_underflow t rm x ▸ zeroOf_lt t _
    case ovf =>
      rcases x with n | n | ⟨n, m, e⟩
      · simp [classOf] at hc
      · simp [classOf] at hc
      · rw [chosen_overflow]
        split
        · next h => exact encode_roundV_lt_bits (Bool.and_eq_true_iff.1 h).1 rm (.fin n m e)
        · exact largest_lt t _

theorem plainOf_lt (t : Ty) (rm : Rm) (x : FVal) : plainOf t rm x < 2 ^ Ty.bits t := by
  rcases x with n | n | ⟨n, m, e⟩
  · exact Nat.two_pow_pos _
  · exact Nat.two_pow_pos _
  · simp only [plainOf]
    split
    · next h => exact encode_roundV_lt_bits h rm (.fin n m e)
    · have hpos : (0 : Int) < 2 ^ Ty.bits t := by positivity
      rw [Int.toNat_lt (Int.emod_nonneg _ hpos.ne')]
      exact_mod_cast Int.emod_lt_of_pos _ hpos

/-- A conversion delivers a pattern of its target's width. -/
theorem convert_val_lt {t : Ty} {rm : Rm} {pol : DWord} {x : FVal} {y : Nat} (h : convert t rm pol x = .val y) :
    y < 2 ^ Ty.bits t := by
  rcases convert_eq t rm pol x with ⟨-, heq⟩ | ⟨c, hclass, heq⟩
  · rw [heq] at h
    exact ConvOut.val.inj h ▸ plainOf_lt t rm x
  · rw [heq] at h
    split at h
    · exact absurd h ConvOut.noConfusion
    · next hc =>
      have := choice_lt pol c
      exact ConvOut.val.inj h ▸ chosen_lt hclass (by omega)

end Sys2Proof
end

section
/-!
SUPPORT. Tile arithmetic (R177, R181 to R183, R185 to R187): what each instruction writes, and the statement about them.
-/

namespace Sys2Proof.Machine

open Claims

/-! ## Slots with checked tiles (R173) -/

/-- A slot that takes effect and acts is its effect. -/
theorem exec_acts {s : State} {i : Instr} {u : Uses} {e : State → State} (he : exec i s = .next (s.slot i u (·.whenActs e)))
    (hacts : s.actsAny = true) (hi : s.Issues i u) : exec i s = .next (e s) := by
  rw [he, State.slot_issues hi, State.whenActs_acts hacts]

/-- A tile that is not configured is refused. -/
theorem raises_of_unconfigured {s : State} {i : Instr} {u : Uses} {l : List Tile} {e : State → State} {k : State}
    (he : exec i s = .next (s.slot i u (·.whenActs e))) (hconf : e s = s.configured l k) (hacts : s.actsAny = true)
    (hl : l.any (fun x => !x.en) = true) (hi : s.Issues i u) : exec i s = .next (s.raise 0x012) := by
  rw [exec_acts he hacts hi, hconf, State.configured_not hl]

/-- An instruction whose tiles are configured, and whose further checks leave a tile to be filled. -/
theorem fillsSo_of_checked {s : State} {i : Instr} {u : Uses} {d : Tile} {reads : List Nat} {p : Nat → Nat → Nat → Prop}
    {l : List Tile} {e : State → State} {k : State} (v : Team → Nat → Nat → Nat)
    (he : exec i s = .next (s.slot i u (·.whenActs e))) (hconf : e s = s.configured l k) (hen : ∀ x ∈ l, x.en = true)
    (hk : UnitsFree s ⟨reads, d.units⟩ → k = (s.setT (fun t => t.tileFill d (v t))).retireTile [] ⟨reads, d.units⟩)
    (hp : ∀ i < d.rows, ∀ j < d.cols, p i j (v s.ct i j % 2 ^ d.bits)) : FillsSo s i u d reads p :=
  fillsSo_of_slot v e he (fun hfree => by rw [hconf, State.configured_all hen, hk hfree]) hp

/-! ## Zero, transpose, release (R177, R187, R188) -/

theorem mzero_fills {s : State} {f : FmtT} (hd : (s.ct.tile f.md).en = true) :
    Fills s (.mzero f) {} (s.ct.tile f.md) [] (fun _ _ => 0) :=
  fillsSo_of_checked (fun _ _ _ => 0) rfl rfl (by simpa using hd) (fun hfree => State.fillTile_free hfree _)
    (fun _ _ _ _ => rfl)

theorem mtr_fills {s : State} {f : FmtT} (hd : (s.ct.tile f.md).en = true) (ha : (s.ct.tile f.ma).en = true)
    (hty : (s.ct.tile f.ma).ty = (s.ct.tile f.md).ty) (hrows : (s.ct.tile f.ma).rows = (s.ct.tile f.md).cols)
    (hcols : (s.ct.tile f.ma).cols = (s.ct.tile f.md).rows) (hapart : (s.ct.tile f.md).overlaps (s.ct.tile f.ma) = false) :
    Fills s (.mtr f) {} (s.ct.tile f.md) (s.ct.tile f.ma).units (fun i j => s.ct.tileElem (s.ct.tile f.ma) j i) := by
  refine fillsSo_of_checked (fun t i j => t.tileElem (s.ct.tile f.ma) j i) rfl rfl (by simp [hd, ha]) (fun hfree => ?_)
    (fun _ _ _ _ => rfl)
  rw [if_neg (by simp [hty, hrows, hcols]), if_neg (by simp [hapart]), State.fillTile_free hfree]

theorem Map.get_foldl_erase {α : Type} (d : α) (l : List Nat) (m : Map α) (n : Nat) :
    Map.get d (l.foldl (fun m n => Map.erase m n) m) n = if n ∈ l then d else Map.get d m n := by
  induction l generalizing m with
  | nil => simp
  | cons k l ih =>
    rw [List.foldl_cons, ih, Map.get_erase]
    by_cases hl : n ∈ l
    · simp [hl]
    · by_cases hk : k = n
      · simp [hk]
      · simp [hl, hk, Ne.symm hk]

/-- A team whose shape registers of a mask are released. -/
def Team.release (t : Team) (mask : BitVec 32) : Team :=
  { t with mc := ((List.range 16).filter (fun n => mask.getLsbD n)).foldl (fun m n => Map.erase m n) t.mc }

theorem mrel_releases {s : State} {f : FmtT} (hacts : s.actsAny = true) (hi : s.Issues (.mrel f) {}) :
    ∃ u, exec (.mrel f) s = .next u ∧ TeamAlone s u ∧ GoesOnOnly s u ∧
      { u.ct with groups := [], mc := [] } = { s.ct with groups := [], mc := [] } ∧
      ∀ n < 16, Map.get 0 u.ct.mc n = if f.imm.getLsbD n then 0 else Map.get 0 s.ct.mc n := by
  obtain ⟨halone, hgoes, hteam⟩ := setT_then (s := s) (f := (·.release f.imm)) rfl (State.retireTo_only _ _ [])
    (State.retire_goesOn _ [])
  refine ⟨_, exec_acts rfl hacts hi, halone, hgoes, congrArg (fun t : Team => { t with mc := [] }) hteam, fun n hn => ?_⟩
  refine (congrArg (fun t : Team => Map.get 0 t.mc n) hteam).trans ?_
  exact (Map.get_foldl_erase 0 _ _ n).trans (by simp [hn])

/-! ## Sums of tiles (R186) -/

/-- The rounding mode that tmod names. -/
def rmOf (f : FmtT) : Rm :=
  match (f.tmod.extractLsb' 0 2).toNat with | 0 => .rne | 1 => .rtz | 2 => .rdn | _ => .rup

theorem rmOf_rne {f : FmtT} (h : rmOf f = .rne) : (f.tmod.extractLsb' 0 2).toNat = 0 := by
  unfold rmOf at h
  split at h
  · next h0 => exact h0
  all_goals exact absurd h (by decide)

/-- A sign flipped by an exclusive-or, or by an addition. -/
theorem negated_eq_elemAt (nb : Bool) {y : Nat} (hy : y < 2 ^ 32) : negated nb 32 y = Claims.elemAt 32 0 nb y := by
  have hsign : signBits 32 = 2 ^ 31 := rfl
  cases nb
  · simp only [negated, Claims.elemAt, Bool.false_eq_true, if_false, Nat.mul_zero, Nat.pow_zero, Nat.div_one, Nat.mod_eq_of_lt hy]
  · simp only [negated, Claims.elemAt, if_true, hsign, Nat.mul_zero, Nat.pow_zero, Nat.div_one, Nat.mod_eq_of_lt hy]
    refine Nat.eq_of_testBit_eq fun i => ?_
    rw [Nat.testBit_xor, Nat.testBit_two_pow, Nat.testBit_mod_two_pow, Nat.add_comm]
    rcases lt_trichotomy i 31 with h | rfl | h
    · rw [Nat.testBit_two_pow_add_gt h]
      simp [show ¬ 31 = i by omega, show i < 32 by omega]
    · rw [Nat.testBit_two_pow_add_eq]
      simp
    · have hbit : y.testBit i = false := Nat.testBit_lt_two_pow (hy.trans_le (Nat.pow_le_pow_right (by decide) h))
      simp [hbit, show ¬ 31 = i by omega, show ¬ i < 32 by omega]

theorem wrap_lt (t : Ty) (x : Int) : Ty.wrap t x < 2 ^ Ty.bits t := by
  have hpos : (0 : Int) < (2 ^ Ty.bits t : Nat) := by exact_mod_cast Nat.two_pow_pos _
  rw [Ty.wrap, Int.toNat_lt (Int.emod_nonneg _ hpos.ne')]
  exact Int.emod_lt_of_pos _ hpos

/-- An element of `madd`: a rounded sum of patterns, or a sum of integers made to fit. -/
theorem maddElem_eq {t : Ty} (ht : t = .f32 ∨ t = .i32) (sat nb : Bool) (rm : Rm) (x : Nat) {y : Nat} (hy : y < 2 ^ 32) :
    if t = .f32 then Adds .f32 rm sat x (Claims.elemAt 32 0 nb y) (maddElem t sat nb rm x y % 2 ^ Ty.bits t)
    else maddElem t sat nb rm x y % 2 ^ Ty.bits t =
      Ty.fit .i32 sat (Ty.intOf .i32 x + (if nb then -Ty.intOf .i32 y else Ty.intOf .i32 y)) := by
  rcases ht with rfl | rfl
  · have hadds := fltAdd_adds (sound_of_mem (show FFmt.f32 ∈ formats by simp [formats])) sat rm x (Claims.elemAt 32 0 nb y)
    have hlt : fltAdd .f32 sat rm x (Claims.elemAt 32 0 nb y) < 2 ^ 32 := by
      obtain ⟨v, -, hv⟩ := hadds
      exact hv ▸ pattern_f32_lt rm sat v
    rw [if_pos rfl, show maddElem .f32 sat nb rm x y = fltAdd .f32 sat rm x (negated nb 32 y) from rfl, negated_eq_elemAt nb hy]
    exact (Nat.mod_eq_of_lt hlt).symm ▸ hadds
  · exact Nat.mod_eq_of_lt (wrap_lt .i32 _)

theorem madd_fills {s : State} {f : FmtT} (hd : (s.ct.tile f.md).en = true) (ha : (s.ct.tile f.ma).en = true)
    (hb : (s.ct.tile f.mb).en = true) (hta : (s.ct.tile f.ma).ty = (s.ct.tile f.md).ty)
    (htb : (s.ct.tile f.mb).ty = (s.ct.tile f.md).ty)
    (hty : (s.ct.tile f.md).ty = .f32 ∨ (s.ct.tile f.md).ty = .i32 ∧ rmOf f = .rne)
    (hra : (s.ct.tile f.ma).rows = (s.ct.tile f.md).rows) (hca : (s.ct.tile f.ma).cols = (s.ct.tile f.md).cols)
    (hrb : (s.ct.tile f.mb).rows = (s.ct.tile f.md).rows) (hcb : (s.ct.tile f.mb).cols = (s.ct.tile f.md).cols)
    (hsa : (s.ct.tile f.md).overlaps (s.ct.tile f.ma) = true → (s.ct.tile f.md).same (s.ct.tile f.ma) = true)
    (hsb : (s.ct.tile f.md).overlaps (s.ct.tile f.mb) = true → (s.ct.tile f.md).same (s.ct.tile f.mb) = true) :
    FillsSo s (.madd f) {} (s.ct.tile f.md) ((s.ct.tile f.ma).units ++ (s.ct.tile f.mb).units) (fun i j r =>
      let x := s.ct.tileElem (s.ct.tile f.ma) i j
      let y := s.ct.tileElem (s.ct.tile f.mb) i j
      if (s.ct.tile f.md).ty = .f32 then Adds .f32 (rmOf f) (f.tmod.getLsbD 2) x (Claims.elemAt 32 0 (f.tmod.getLsbD 3) y) r
      else r = Ty.fit .i32 (f.tmod.getLsbD 2)
        (Ty.intOf .i32 x + (if f.tmod.getLsbD 3 then - Ty.intOf .i32 y else Ty.intOf .i32 y))) := by
  have hbits : (s.ct.tile f.mb).bits = 32 := by
    rw [Tile.bits, htb]
    rcases hty with h | ⟨h, -⟩ <;> rw [h] <;> rfl
  refine fillsSo_of_checked (fun t i j => maddElem (s.ct.tile f.md).ty (f.tmod.getLsbD 2) (f.tmod.getLsbD 3) (rmOf f)
    (t.tileElem (s.ct.tile f.ma) i j) (t.tileElem (s.ct.tile f.mb) i j)) rfl rfl (by simp [hd, ha, hb]) (fun hfree => ?_)
    (fun i _ j _ => maddElem_eq (hty.imp_right And.left) _ _ _ _ (hbits ▸ Team.tileElem_lt _ _ _ _))
  rw [if_neg, if_neg, if_neg]
  · exact State.fillTile_free hfree _
  · simp only [Bool.or_eq_true, Bool.and_eq_true, Bool.not_eq_true']
    rintro (⟨hover, hsame⟩ | ⟨hover, hsame⟩)
    · simp [hsa hover] at hsame
    · simp [hsb hover] at hsame
  · rcases hty with h | ⟨-, h⟩
    · simp [h]
    · simp [rmOf_rne h]
  · rcases hty with h | ⟨h, -⟩ <;> simp [hta, htb, hra, hca, hrb, hcb, h]

/-! ## Conversion of tiles (R185) -/

theorem mem_faultsOf {xs : List (Nat × ConvOut)} {k : Nat} {c : ConvClass} :
    (k, c) ∈ faultsOf xs ↔ (k, ConvOut.fault c) ∈ xs := by
  simp only [faultsOf, List.mem_filterMap]
  constructor
  · rintro ⟨⟨k', o⟩, hmem, h⟩
    cases o with
    | val x => exact absurd h (by simp)
    | fault c' =>
      obtain ⟨rfl, rfl⟩ : k' = k ∧ c' = c := by simpa using h
      exact hmem
  · exact fun h => ⟨_, h, rfl⟩

/-- The first class in the order of R32 is the one of the least cause. -/
theorem firstClass_eq_some {xs : List (Nat × ConvClass)} {c : ConvClass} {k : Nat} (hc : (k, c) ∈ xs)
    (hleast : ∀ c' k', (k', c') ∈ xs → (ConvClass.cause c).toNat ≤ (ConvClass.cause c').toNat) : firstClass xs = some c := by
  have hpresent : xs.any (fun p => p.2 == c) = true := List.any_eq_true.2 ⟨_, hc, by simp⟩
  have habsent : ∀ c', (ConvClass.cause c').toNat < (ConvClass.cause c).toNat → xs.any (fun p => p.2 == c') = false := by
    intro c' hlt
    rw [List.any_eq_false]
    rintro ⟨k', c''⟩ hmem heq
    obtain rfl : c'' = c' := by simpa using heq
    exact absurd (hleast _ _ hmem) (by omega)
  unfold firstClass
  cases c
  case nan => simp only [List.find?_cons, hpresent]
  case inf => simp only [List.find?_cons, habsent .nan (by decide), hpresent]
  case ovf => simp only [List.find?_cons, habsent .nan (by decide), habsent .inf (by decide), hpresent]
  case unf =>
    simp only [List.find?_cons, habsent .nan (by decide), habsent .inf (by decide), habsent .ovf (by decide), hpresent]

theorem firstClass_eq_none {xs : List (Nat × ConvClass)} (h : ∀ c k, (k, c) ∉ xs) : firstClass xs = none := by
  obtain rfl : xs = [] := List.eq_nil_iff_forall_not_mem.2 fun p hp => h p.2 p.1 hp
  rfl

/-- The outcomes of a tile's elements in storage order. -/
def outcomes (n : Nat) (conv : Nat → ConvOut) : List (Nat × ConvOut) := (List.range n).map (fun k => (k, conv k))

theorem mem_faultsOf_outcomes {n k : Nat} {conv : Nat → ConvOut} {c : ConvClass} :
    (k, c) ∈ faultsOf (outcomes n conv) ↔ k < n ∧ conv k = .fault c := by
  simp [mem_faultsOf, outcomes]

/-- The first element of a class. -/
theorem find_faultsOf_outcomes {n k : Nat} {conv : Nat → ConvOut} {c : ConvClass} (hk : k < n) (hc : conv k = .fault c)
    (hfirst : ∀ k' < k, conv k' ≠ .fault c) :
    (faultsOf (outcomes n conv)).find? (fun p => p.2 == c) = some (k, c) := by
  obtain ⟨m, rfl⟩ := Nat.exists_eq_add_of_lt hk
  obtain ⟨tail, hsplit⟩ : ∃ tail, outcomes (k + m + 1) conv = outcomes k conv ++ (k, conv k) :: tail := by
    refine ⟨((List.range m).map Nat.succ).map (fun i => (k + i, conv (k + i))), ?_⟩
    simp [outcomes, Nat.add_assoc, List.range_add, List.range_succ_eq_map]
  have hnone : (faultsOf (outcomes k conv)).find? (fun p => p.2 == c) = none := by
    rw [List.find?_eq_none]
    rintro ⟨k', c'⟩ hmem heq
    obtain ⟨hlt, hfault⟩ := mem_faultsOf_outcomes.1 hmem
    obtain rfl : c' = c := by simpa using heq
    exact hfirst k' hlt hfault
  rw [hsplit, faultsOf, List.filterMap_append, List.find?_append]
  rw [show (outcomes k conv).filterMap _ = faultsOf (outcomes k conv) from rfl, hnone, hc]
  simp

/-- The conversion of a tile's element under a policy. -/
def mcvtElem (s : State) (f : FmtT) (i j : Nat) : ConvOut :=
  convert (s.ct.tile f.md).ty (rmOf f) (s.policyReg (f.imm.extractLsb' 0 3).toNat)
    (Ty.value (s.ct.tile f.ma).ty (s.ct.tileElem (s.ct.tile f.ma) i j))

/-- The elements of a tile that fault. -/
def mcvtFaults (s : State) (f : FmtT) : List (Nat × ConvClass) :=
  faultsOf (outcomes ((s.ct.tile f.ma).rows * (s.ct.tile f.ma).cols)
    (fun k => mcvtElem s f (k / (s.ct.tile f.ma).cols) (k % (s.ct.tile f.ma).cols)))

theorem mem_mcvtFaults {s : State} {f : FmtT} {k : Nat} {c : ConvClass} :
    (k, c) ∈ mcvtFaults s f ↔ k < (s.ct.tile f.ma).rows * (s.ct.tile f.ma).cols ∧
      Faults (s.ct.tile f.md).ty (rmOf f) (Map.get 0 s.ct.cvpol (f.imm.extractLsb' 0 3).toNat)
        (Ty.value (s.ct.tile f.ma).ty
          (s.ct.tileElem (s.ct.tile f.ma) (k / (s.ct.tile f.ma).cols) (k % (s.ct.tile f.ma).cols))) c := by
  rw [mcvtFaults, mem_faultsOf_outcomes, mcvtElem, convert_fault_iff]
  rfl

/-- The operands that `mcvt` takes (R185). -/
structure Convertible (a d : Tile) : Prop where
  den : d.en = true
  aen : a.en = true
  rows : a.rows = d.rows
  cols : a.cols = d.cols
  types : a.ty ≠ d.ty
  apart : d.overlaps a = false

/-- How `mcvt` ends past its checks and the scoreboard: with the first class among its faults, or with the tile written. -/
def mcvtEnd (s : State) (f : FmtT) : Option ConvClass → State
  | some c =>
    s.raise (ConvClass.cause c) (some s.cf.em) (BitVec.ofNat 64 (f.imm.extractLsb' 0 3).toNat)
      (BitVec.ofNat 64 ((((mcvtFaults s f).find? (fun p => p.2 == c)).map (·.1)).getD 0))
  | none =>
    (s.setT (fun t => t.tileFill (s.ct.tile f.md) (fun i j => convGet (mcvtElem s f i j)))).retireTile []
      ⟨(s.ct.tile f.ma).units, (s.ct.tile f.md).units⟩

theorem mcvt_fills {s : State} {f : FmtT} (h : Convertible (s.ct.tile f.ma) (s.ct.tile f.md))
    (hnone : ∀ c k, (k, c) ∉ mcvtFaults s f) :
    FillsSo s (.mcvt f) {} (s.ct.tile f.md) (s.ct.tile f.ma).units (fun i j r =>
      Delivers (s.ct.tile f.md).ty (rmOf f) (Map.get 0 s.ct.cvpol (f.imm.extractLsb' 0 3).toNat)
        (Ty.value (s.ct.tile f.ma).ty (s.ct.tileElem (s.ct.tile f.ma) i j)) r) := by
  refine fillsSo_of_checked (fun _ i j => convGet (mcvtElem s f i j)) rfl rfl (by simp [h.den, h.aen]) (fun hfree => ?_)
    (fun i hi j hj => ?_)
  · rw [if_neg (by simp [h.rows, h.cols, h.types]), if_neg (by simp [h.apart]), State.withUnits_free hfree]
    refine (show _ = mcvtEnd s f (firstClass (mcvtFaults s f)) from rfl).trans ?_
    rw [firstClass_eq_none hnone, mcvtEnd]
  · have hj' : j < (s.ct.tile f.ma).cols := h.cols ▸ hj
    have hpos : 0 < (s.ct.tile f.ma).cols := Nat.zero_lt_of_lt hj'
    have hk : i * (s.ct.tile f.ma).cols + j < (s.ct.tile f.ma).rows * (s.ct.tile f.ma).cols :=
      elem_index_lt (h.rows ▸ hi) hj'
    have hval : ∃ y, mcvtElem s f i j = .val y := by
      cases hout : mcvtElem s f i j with
      | val y => exact ⟨y, rfl⟩
      | fault c =>
        refine absurd (mem_faultsOf_outcomes.2 ⟨hk, ?_⟩) (hnone c _)
        rw [Nat.mul_comm, Nat.mul_add_div hpos, Nat.div_eq_of_lt hj', Nat.add_zero, Nat.mul_add_mod, Nat.mod_eq_of_lt hj', hout]
    obtain ⟨y, hy⟩ := hval
    rw [hy, convGet, Tile.bits, Nat.mod_eq_of_lt (convert_val_lt hy)]
    exact delivers_of_convert hy

theorem mcvt_faults {s : State} {f : FmtT} {c : ConvClass} {k : Nat} (h : Convertible (s.ct.tile f.ma) (s.ct.tile f.md))
    (hacts : s.actsAny = true) (hfree : UnitsFree s ⟨(s.ct.tile f.ma).units, (s.ct.tile f.md).units⟩) (hi : s.Issues (.mcvt f) {})
    (hc : (k, c) ∈ mcvtFaults s f) (hfirst : ∀ k' < k, (k', c) ∉ mcvtFaults s f)
    (hleast : ∀ c' k', (k', c') ∈ mcvtFaults s f → (ConvClass.cause c).toNat ≤ (ConvClass.cause c').toNat) :
    exec (.mcvt f) s = .next (s.raise (ConvClass.cause c) (some s.cf.em) (BitVec.ofNat 64 (f.imm.extractLsb' 0 3).toNat)
      (BitVec.ofNat 64 k)) := by
  obtain ⟨hk, hfault⟩ := mem_faultsOf_outcomes.1 hc
  have hfind : (mcvtFaults s f).find? (fun p => p.2 == c) = some (k, c) :=
    find_faultsOf_outcomes hk hfault fun k' hlt hfault' =>
      hfirst k' hlt (mem_faultsOf_outcomes.2 ⟨hlt.trans hk, hfault'⟩)
  rw [exec_acts rfl hacts hi]
  dsimp only
  rw [State.configured_all (by simp [h.den, h.aen]), if_neg (by simp [h.rows, h.cols, h.types]), if_neg (by simp [h.apart]),
    State.withUnits_free hfree]
  refine congrArg _ ((show _ = mcvtEnd s f (firstClass (mcvtFaults s f)) from rfl).trans ?_)
  rw [firstClass_eq_some hc hleast, mcvtEnd, hfind]
  rfl

/-! ## Products (R38 to R41, R181 to R183) -/

theorem productCause_matched {f : FmtT} {acc : Ty} {a b c d : Tile} (h : Matched f acc a b c d) :
    productCause f acc a b c d = none := by
  obtain ⟨⟨hta, htb⟩, hinner, ⟨htd, hrd, hcd⟩, haddend, hda, hdb, hdc⟩ := h
  have hpair : pairOk f.ty a.ty b.ty = true := by
    rw [pairOk, hta]
    rcases htb with h | ⟨h, h'⟩ | ⟨h, h'⟩
    · simp [h]
    · simp [h, h']
    · simp [h, h']
  have hin : (productOf f a b).inner = true := by
    simpa [productOf, ta, tb, colsA, rowsB] using hinner
  have hm : (productOf f a b).m = rowsA f a := rfl
  have hn : (productOf f a b).n = colsB f b := rfl
  unfold productCause
  rw [if_neg, if_neg]
  · simp only [hda, hdb, Bool.false_or, Bool.and_eq_true, Bool.not_eq_true']
    rintro ⟨⟨hzc, hsame⟩, hover⟩
    simp [hdc hzc hover] at hsame
  · simp only [hpair, hin, hm, hn, htd, hrd, hcd, beq_self_eq_true, Bool.and_self, Bool.not_true, Bool.false_or, Bool.and_eq_true,
      Bool.not_eq_true']
    rintro ⟨hzc, hc⟩
    obtain ⟨htc, hrc, hcc⟩ := haddend hzc
    simp [htc, hrc, hcc] at hc

theorem unowned_eq_false {g : Group} {n w : Nat} (h : ∀ i < n, g.owned.getLsbD (i % w) = true) : g.unowned n w = false := by
  rw [Group.unowned, List.any_eq_false]
  intro i hi
  simp [h i (List.mem_range.1 hi)]

theorem field_lt (x : DWord) (hi lo : Nat) : field x hi lo < 2 ^ (hi + 1 - lo) := Nat.mod_lt _ (Nat.two_pow_pos _)

/-- The inner size of a product is at most 256. -/
theorem colsA_le (t : Team) (f : FmtT) : colsA f (t.tile f.ma) ≤ 256 := by
  have hrows : (t.tile f.ma).rows ≤ 256 := field_lt _ 19 12
  have hcols : (t.tile f.ma).cols ≤ 256 := field_lt _ 11 4
  unfold colsA
  split <;> assumption

/-- The tile that a product adds to. -/
def addendOf (s : State) (f : FmtT) : Tile := if f.zc then s.ct.tile f.md else s.ct.tile f.mc

/-- Where an element's accumulator starts. -/
def startOf (s : State) (f : FmtT) (i j : Nat) : Nat := if f.zc then 0 else s.ct.tileElem (addendOf s f) i j

/-- An accumulator starts with a pattern of the addend's type. -/
theorem startOf_lt {s : State} {f : FmtT} {acc : Ty} (h : f.zc = false → (addendOf s f).ty = acc) (i j : Nat) :
    startOf s f i j < 2 ^ Ty.bits acc := by
  unfold startOf
  split
  · exact Nat.two_pow_pos _
  · next hzc => exact h (by simpa using hzc) ▸ Team.tileElem_lt _ _ _ _

/-- The units that a product reads. -/
def productUnits (s : State) (f : FmtT) : List Nat :=
  (s.ct.tile f.ma).units ++ (s.ct.tile f.mb).units ++ (if f.zc then [] else (addendOf s f).units)

/-- The operands of a product are configured. -/
structure Configured (s : State) (f : FmtT) : Prop where
  d : (s.ct.tile f.md).en = true
  a : (s.ct.tile f.ma).en = true
  b : (s.ct.tile f.mb).en = true
  c : (addendOf s f).en = true

theorem Configured.all {s : State} {f : FmtT} (h : Configured s f) :
    ∀ x ∈ [s.ct.tile f.md, s.ct.tile f.ma, s.ct.tile f.mb, addendOf s f], x.en = true := by
  simp [h.d, h.a, h.b, h.c]

/-- R38: the exact product of two elements. -/
def elemProduct (s : State) (f : FmtT) (i j k : Nat) : FVal :=
  (Ty.value (s.ct.tile f.ma).ty (elA f s.ct (s.ct.tile f.ma) i k)).mul
    (Ty.value (s.ct.tile f.mb).ty (elB f s.ct (s.ct.tile f.mb) k j))

/-- R182: the same with the two block scales, for e2m1. -/
def scaledProduct (s : State) (f : FmtT) (i j k : Nat) : FVal :=
  let w := s.ct.width
  let q := (colsA f (s.ct.tile f.ma) + 127) / 128
  if f.ty == .e2m1 then
    ((elemProduct s f i j k).mul (e8m0 (s.cg.blockScale f.sa w q i (k / 32)))).mul (e8m0 (s.cg.blockScale f.sb w q j (k / 32)))
  else elemProduct s f i j k

theorem mmaElem_eq (s : State) (f : FmtT) (acc i j : Nat) :
    s.mmaElem f (s.ct.tile f.ma) (s.ct.tile f.mb) acc i j =
      chunkSum (scaledProduct s f i j) (chunkOf f.ty) (colsA f (s.ct.tile f.ma)) 0 acc 9 := rfl

theorem chunkOf_eq (t : Ty) : chunkOf t = if Ty.bits t = 16 then 32 else if Ty.bits t = 8 then 64 else 128 := by
  cases t <;> rfl

theorem chunkOf_ge (t : Ty) : 32 ≤ chunkOf t := by
  cases t <;> decide

/-- R19: a scale's byte of its register. -/
theorem e8m0_blockScale (g : Group) (r : BitVec 8) (w q i kb : Nat) : e8m0 (g.blockScale r w q i kb) = scaleOf g r w q i kb := by
  have hbyte : g.blockScale r w q i kb =
      (g.vreg (r.toNat + i / w * q + kb / 4) (i % w)).toNat / 256 ^ (kb % 4) % 256 := by
    rw [Group.blockScale, BitVec.extractLsb'_toNat, Nat.shiftRight_eq_div_pow, Nat.pow_mul]
  rw [e8m0, scaleOf, hbyte, Nat.mod_mod]

/-- R38: an element of `mma` is the accumulator over its chunks. -/
theorem mmaElem_eq_accumulated (s : State) (f : FmtT) (start i j : Nat) :
    let K := colsA f (s.ct.tile f.ma)
    let chunk := chunkOf f.ty
    s.mmaElem f (s.ct.tile f.ma) (s.ct.tile f.mb) start i j =
      accumulated (fun n => rangeSum (scaledProduct s f i j) (n * chunk) (min K ((n + 1) * chunk))) start
        ((K + chunk - 1) / chunk) := by
  intro K chunk
  have hge : 32 ≤ chunk := chunkOf_ge f.ty
  have hK : K ≤ 256 := colsA_le s.ct f
  have hfuel : (K + chunk - 1) / chunk ≤ 0 + 9 := by
    rw [Nat.div_le_iff_le_mul_add_pred (by omega)]
    omega
  have hwalk := chunkSum_eq (prod := scaledProduct s f i j) (start := start) (by omega) 9 0 (Nat.zero_le _) hfuel
  rw [Nat.zero_mul] at hwalk
  exact hwalk

theorem mmaElem_accumulates {s : State} {f : FmtT} {start : Nat} (hs : start < 2 ^ 32) (i j : Nat) :
    let K := colsA f (s.ct.tile f.ma)
    let chunk := if Ty.bits f.ty = 16 then 32 else if Ty.bits f.ty = 8 then 64 else 128
    let q := (K + 127) / 128
    let product := fun (k : Nat) (p : FVal) => ExactProduct (Ty.value (s.ct.tile f.ma).ty (elA f s.ct (s.ct.tile f.ma) i k))
      (Ty.value (s.ct.tile f.mb).ty (elB f s.ct (s.ct.tile f.mb) k j)) p
    let scaled := fun (k : Nat) (p : FVal) =>
      if f.ty = .e2m1 then ∃ x y, product k x ∧ ExactProduct x (scaleOf s.cg f.sa s.ct.width q i (k / 32)) y ∧
        ExactProduct y (scaleOf s.cg f.sb s.ct.width q j (k / 32)) p
      else product k p
    Accumulates ((K + chunk - 1) / chunk) start (fun n v => SumsProducts (n * chunk) (min K ((n + 1) * chunk)) scaled v)
      (s.mmaElem f (s.ct.tile f.ma) (s.ct.tile f.mb) start i j % 2 ^ 32) := by
  intro K chunk q product scaled
  have hscaled : ∀ k, scaled k (scaledProduct s f i j k) := fun k => by
    simp only [scaled, scaledProduct, beq_iff_eq, e8m0_blockScale]
    split
    · exact ⟨_, _, mul_exactProduct _ _, mul_exactProduct _ _, mul_exactProduct _ _⟩
    · exact mul_exactProduct _ _
  rw [mmaElem_eq_accumulated, Nat.mod_eq_of_lt (accumulated_lt hs _), show chunk = chunkOf f.ty from (chunkOf_eq f.ty).symm]
  exact accumulates_accumulated fun n _ => rangeSum_sumsProducts hscaled _ _

/-- R41: an element of `mmas` accumulates the sums of its blocks, scaled by its row and its column. -/
theorem mmasElem_eq_accumulated (s : State) (f : FmtT) (start i j : Nat) :
    let K := colsA f (s.ct.tile f.ma)
    let q := (K + 127) / 128
    s.mmasElem f (s.ct.tile f.ma) (s.ct.tile f.mb) start i j =
      accumulated (fun n => ((rangeSum (elemProduct s f i j) (n * 128) (min K ((n + 1) * 128))).mul
        (FFmt.f32.decode (s.cg.vreg (f.sa.toNat + i / s.ct.width * q + n) (i % s.ct.width)).toNat)).mul
        (FFmt.f32.decode ((s.cg.ureg (f.sb.toNat + n)).toNat / 2 ^ (32 * (j / 128)) % 2 ^ 32))) start q := by
  intro K q
  rw [← foldl_accAdd]
  unfold State.mmasElem
  have hsum : ∀ n, exactSum false (prodsOf (elemProduct s f i j) (128 * n) (Nat.min 128 (K - 128 * n))) =
      rangeSum (elemProduct s f i j) (n * 128) (min K ((n + 1) * 128)) := fun n => by
    have hlen : min 128 (K - 128 * n) = min K ((n + 1) * 128) - n * 128 := by omega
    rw [Nat.mul_comm 128 n] at hlen ⊢
    exact congrArg (fun k => exactSum false (prodsOf (elemProduct s f i j) (n * 128) k)) hlen
  have hcol : ∀ n, ((s.cg.ureg (f.sb.toNat + n)).extractLsb' (32 * (j / 128)) 32).toNat =
      (s.cg.ureg (f.sb.toNat + n)).toNat / 2 ^ (32 * (j / 128)) % 2 ^ 32 := fun n => by
    rw [BitVec.extractLsb'_toNat, Nat.shiftRight_eq_div_pow]
  simp only [← hsum, ← hcol]
  rfl

theorem mmasElem_accumulates {s : State} {f : FmtT} {start : Nat} (hs : start < 2 ^ 32) (i j : Nat) :
    let K := colsA f (s.ct.tile f.ma)
    let w := s.ct.width
    let product := fun (k : Nat) (p : FVal) => ExactProduct (Ty.value (s.ct.tile f.ma).ty (elA f s.ct (s.ct.tile f.ma) i k))
      (Ty.value (s.ct.tile f.mb).ty (elB f s.ct (s.ct.tile f.mb) k j)) p
    let q := (K + 127) / 128
    let row := fun n => FFmt.f32.decode (s.cg.vreg (f.sa.toNat + i / w * q + n) (i % w)).toNat
    let col := fun n => FFmt.f32.decode ((s.cg.ureg (f.sb.toNat + n)).toNat / 2 ^ (32 * (j / 128)) % 2 ^ 32)
    Accumulates q start (fun n v => ∃ x y, SumsProducts (n * 128) (min K ((n + 1) * 128)) product x ∧
        ExactProduct x (row n) y ∧ ExactProduct y (col n) v)
      (s.mmasElem f (s.ct.tile f.ma) (s.ct.tile f.mb) start i j % 2 ^ 32) := by
  intro K w product q row col
  rw [mmasElem_eq_accumulated, Nat.mod_eq_of_lt (accumulated_lt hs _)]
  exact accumulates_accumulated fun n _ =>
    ⟨_, _, rangeSum_sumsProducts (fun k => mul_exactProduct _ _) _ _, mul_exactProduct _ _, mul_exactProduct _ _⟩

/-- R40: an element of an integer product. -/
theorem mmaInt_eq (t : Team) (f : FmtT) (a b : Tile) (start i j : Nat) :
    t.mmaInt f a b start i j =
      Ty.wrap .i32 ((start : Int) +
        ((List.range (colsA f a)).map (fun k => Ty.intOf .i8 (elA f t a i k) * Ty.intOf .i8 (elB f t b k j))).sum) := by
  have hfold : ∀ (l : List Nat) (p : Nat → Int) (x : Int), l.foldl (fun x k => x + p k) x = x + (l.map p).sum := by
    intro l p
    induction l with
    | nil => simp
    | cons k l ih => intro x; rw [List.foldl_cons, ih, List.map_cons, List.sum_cons, Int.add_assoc]
  exact congrArg _ (hfold _ _ _)

/-- The slot of `mma` on operands that agree fills the destination. -/
theorem mma_fillsSo {s : State} {f : FmtT} {p : Nat → Nat → Nat → Prop} (hen : Configured s f)
    (hmatched : Matched f (if f.ty == .i8 then .i32 else .f32) (s.ct.tile f.ma) (s.ct.tile f.mb) (addendOf s f) (s.ct.tile f.md))
    (hscales : f.ty = .e2m1 → colsA f (s.ct.tile f.ma) % 32 = 0 ∧
      (∀ i < rowsA f (s.ct.tile f.ma), s.cg.owned.getLsbD (i % s.ct.width) = true) ∧
      ∀ j < colsB f (s.ct.tile f.mb), s.cg.owned.getLsbD (j % s.ct.width) = true)
    (hp : ∀ i < (s.ct.tile f.md).rows, ∀ j < (s.ct.tile f.md).cols,
      p i j ((if f.ty == .i8 then s.ct.mmaInt f (s.ct.tile f.ma) (s.ct.tile f.mb) (startOf s f i j) i j
        else s.mmaElem f (s.ct.tile f.ma) (s.ct.tile f.mb) (startOf s f i j) i j) % 2 ^ (s.ct.tile f.md).bits)) :
    FillsSo s (.mma f) { reads := s.mmaScales f } (s.ct.tile f.md) (productUnits s f) p := by
  refine fillsSo_of_checked (fun t i j =>
    let x := if f.zc then 0 else t.tileElem (addendOf s f) i j
    if f.ty == .i8 then t.mmaInt f (s.ct.tile f.ma) (s.ct.tile f.mb) x i j
    else s.mmaElem f (s.ct.tile f.ma) (s.ct.tile f.mb) x i j) rfl rfl hen.all (fun hfree => ?_) hp
  have hcause := productCause_matched hmatched
  have hscaled : (f.ty == .e2m1 && ((productOf f (s.ct.tile f.ma) (s.ct.tile f.mb)).k % 32 != 0 ||
      s.cg.unowned (productOf f (s.ct.tile f.ma) (s.ct.tile f.mb)).m s.ct.width ||
      s.cg.unowned (productOf f (s.ct.tile f.ma) (s.ct.tile f.mb)).n s.ct.width)) = false := by
    by_cases hty : f.ty = .e2m1
    · obtain ⟨hk, hm, hn⟩ := hscales hty
      have hm' : s.cg.unowned (productOf f (s.ct.tile f.ma) (s.ct.tile f.mb)).m s.ct.width = false := unowned_eq_false hm
      have hn' : s.cg.unowned (productOf f (s.ct.tile f.ma) (s.ct.tile f.mb)).n s.ct.width = false := unowned_eq_false hn
      have hk' : (productOf f (s.ct.tile f.ma) (s.ct.tile f.mb)).k % 32 = 0 := hk
      simp [hk', hm', hn']
    · simp [hty]
  unfold addendOf at hcause
  rw [hcause]
  refine (if_neg (by simp [hscaled])).trans ?_
  exact State.fillTile_free hfree _

theorem mmas_fillsSo {s : State} {f : FmtT} {p : Nat → Nat → Nat → Prop} (hen : Configured s f)
    (hmatched : Matched f .f32 (s.ct.tile f.ma) (s.ct.tile f.mb) (addendOf s f) (s.ct.tile f.md))
    (hscales : ∀ i < rowsA f (s.ct.tile f.ma), s.cg.owned.getLsbD (i % s.ct.width) = true)
    (hp : ∀ i < (s.ct.tile f.md).rows, ∀ j < (s.ct.tile f.md).cols,
      p i j (s.mmasElem f (s.ct.tile f.ma) (s.ct.tile f.mb) (startOf s f i j) i j % 2 ^ (s.ct.tile f.md).bits)) :
    FillsSo s (.mmas f) { reads := s.mmasScales f } (s.ct.tile f.md) (productUnits s f) p := by
  refine fillsSo_of_checked (fun t i j => s.mmasElem f (s.ct.tile f.ma) (s.ct.tile f.mb)
    (if f.zc then 0 else t.tileElem (addendOf s f) i j) i j) rfl rfl hen.all (fun hfree => ?_) hp
  have hcause := productCause_matched hmatched
  have hscaled : s.cg.unowned (productOf f (s.ct.tile f.ma) (s.ct.tile f.mb)).m s.ct.width = false := unowned_eq_false hscales
  unfold addendOf at hcause
  rw [hcause]
  refine (if_neg (by simp [hscaled])).trans ?_
  exact State.fillTile_free hfree _

/-! ## The statement -/

/-- Settles O28: the slot of each instruction fills its destination with the elements that its lemma describes. -/
theorem tileArithmetic : Obligations.TileArithmetic := by
  unfold Obligations.TileArithmetic
  intro s f t a b c d K w used start rm needs
  refine ⟨⟨?_, ?_, ?_, ?_, ?_, ?_⟩, mzero_fills, mtr_fills, madd_fills, ?mcvt, ?products, mrel_releases⟩
  iterate 6 exact fun hacts hl hi => raises_of_unconfigured rfl rfl hacts hl hi
  case mcvt =>
    intro hd ha hrows hcols hty hapart n pol x at_
    have hconv : Convertible a d := ⟨hd, ha, hrows, hcols, hty, hapart⟩
    have hmem : ∀ c k, (k, c) ∈ mcvtFaults s f ↔ at_ c k := fun c k => mem_mcvtFaults
    refine ⟨fun hnone => mcvt_fills hconv fun c k => mt (hmem c k).1 (hnone c k), ?_⟩
    intro c k hacts hfree hi hc hfirst hleast
    exact mcvt_faults hconv hacts hfree hi ((hmem c k).2 hc) (fun k' hlt => mt (hmem c k').1 (hfirst k' hlt))
      (fun c' k' h => hleast c' k' ((hmem c' k').1 h))
  case products =>
    intro hd ha hb hc product
    have hen : Configured s f := ⟨hd, ha, hb, hc⟩
    have hbits : ∀ {acc}, Matched f acc a b c d → d.bits = Ty.bits acc := fun h => congrArg Ty.bits h.result.1
    have hstart : ∀ {acc}, Matched f acc a b c d → ∀ i j, start i j < 2 ^ Ty.bits acc :=
      fun h => startOf_lt fun hzc => (h.addend hzc).1
    refine ⟨fun hty hm => ?int, fun hty hm hscales => ?float, fun hm hscales => ?scaled⟩
    case int =>
      refine mma_fillsSo hen (by rwa [if_pos (by simp [hty])]) (fun h => absurd (hty.symm.trans h) (by decide)) fun i _ j _ => ?_
      rw [if_pos (by simp [hty]), mmaInt_eq]
      rfl
    case float =>
      refine mma_fillsSo hen (by rwa [if_neg (by simp [hty])]) hscales fun i _ j _ => ?_
      rw [if_neg (c := (f.ty == .i8) = true) (by simp [hty]), show (s.ct.tile f.md).bits = 32 from hbits hm]
      exact mmaElem_accumulates (hstart hm i j) i j
    case scaled =>
      refine mmas_fillsSo hen hm hscales fun i _ j _ => ?_
      rw [show (s.ct.tile f.md).bits = 32 from hbits hm]
      exact mmasElem_accumulates (hstart hm i j) i j

end Sys2Proof.Machine
end

section
/-!
SUPPORT. In-bank sessions: the session of a group after an update, what an entry that joins a session's queue leaves (R345), and how
a session instruction reaches its session (R354).
-/

namespace Sys2Proof.Machine

open Claims

/-! ## The session of a group -/

theorem State.key_of_session {s : State} {k g : Nat} {x : Session} (h : s.session k g = some x) : x.team = k ∧ x.group = g := by
  simpa using List.find?_some h

/-- An update that leaves the team and the group of a session alone. -/
def Session.KeepsKey (f : Session → Session) : Prop := ∀ x, (f x).team = x.team ∧ (f x).group = x.group

theorem State.session_updSession (s : State) (k g : Nat) {f : Session → Session} (hf : Session.KeepsKey f) (k' g' : Nat) :
    (s.updSession k g f).session k' g' = if k' = k ∧ g' = g then (s.session k g).map f else s.session k' g' := by
  have hkey : ∀ x, (if x.team = k ∧ x.group = g then f x else x).team = x.team ∧
      (if x.team = k ∧ x.group = g then f x else x).group = x.group := fun x => by
    split
    · exact hf x
    · exact ⟨rfl, rfl⟩
  have hfind : (s.updSession k g f).session k' g' =
      (s.session k' g').map (fun x => if x.team = k ∧ x.group = g then f x else x) := by
    simp only [State.session, State.updSession, List.find?_map, Function.comp_def, hkey]
  rw [hfind]
  cases hx : s.session k' g' with
  | none =>
    split
    · next h => rw [← h.1, ← h.2, hx]; rfl
    · rfl
  | some x =>
    obtain ⟨rfl, rfl⟩ := State.key_of_session hx
    simp only [Option.map_some]
    split
    · next h => rw [← h.1, ← h.2, hx]; rfl
    · rfl

theorem State.updSession_updSession (s : State) (k g : Nat) {f : Session → Session} (hf : Session.KeepsKey f) (f' : Session → Session) :
    (s.updSession k g f).updSession k g f' = s.updSession k g (fun x => f' (f x)) := by
  simp only [State.updSession, List.map_map]
  congr 1
  refine List.map_congr_left fun x _ => ?_
  by_cases h : x.team = k ∧ x.group = g <;> simp [h, hf x]

/-! ## The queue of a session (R345) -/

/-- An entry joins the queue. -/
def Session.enter (op : BankOp) (now : Nat) (x : Session) : Session :=
  { x with queue := x.queue ++ [op], since := if x.queue.isEmpty then now else x.since }

/-- The first entry leaves the queue. -/
def Session.pop (x : Session) : Session := { x with queue := x.queue.tail }

theorem Session.keepsKey_enter (op : BankOp) (now : Nat) : Session.KeepsKey (Session.enter op now) := fun _ => ⟨rfl, rfl⟩

/-- An entry whose turn changes the session alone. -/
def BankOp.Loads : BankOp → Prop
  | .prog _ | .vec _ | .scale _ _ => True
  | .steps _ _ | .read _ _ _ _ | .fin _ => False

/-- What the turn of such an entry does to the session. -/
def BankOp.load : BankOp → Session → Session
  | .prog ws, x => x.pop.putProg ws
  | .vec ws, x => x.pop.putVec ws
  | .scale k vs, x => x.pop.putScales k vs
  | .steps _ _, x | .read _ _ _ _, x | .fin _, x => x

theorem BankOp.keepsKey_load (op : BankOp) : Session.KeepsKey op.load := fun x => by cases op <;> exact ⟨rfl, rfl⟩

theorem State.bankTurns_idle {s : State} {k g : Nat} {x : Session} (h : s.session k g = some x) (hq : x.queue = []) (fuel : Nat) :
    s.bankTurns k g fuel = s := by
  cases fuel with
  | zero => rfl
  | succ fuel => simp only [State.bankTurns, h, hq]

theorem State.bankTurns_steps {s : State} {k g n : Nat} {x : Session} {c : CodePtr} {rest : List BankOp}
    (h : s.session k g = some x) (hq : x.queue = .steps n c :: rest) (hn : n ≠ 0) (fuel : Nat) : s.bankTurns k g fuel = s := by
  cases fuel with
  | zero => rfl
  | succ fuel => simp only [State.bankTurns, h, hq, if_neg hn]

theorem State.bankTurns_loads {s : State} {k g : Nat} {x : Session} {op : BankOp} {rest : List BankOp} (hop : op.Loads)
    (h : s.session k g = some x) (hq : x.queue = op :: rest) (fuel : Nat) :
    s.bankTurns k g (fuel + 1) = (s.updSession k g op.load).bankTurns k g fuel := by
  obtain ⟨rfl, rfl⟩ := State.key_of_session h
  have hpop : ∀ f, (s.popBank x).updSession x.team x.group f = s.updSession x.team x.group (fun y => f y.pop) :=
    State.updSession_updSession s _ _ fun _ => ⟨rfl, rfl⟩
  cases op with
  | prog | vec | scale => simp only [State.bankTurns, h, hq, hpop]; rfl
  | steps | read | fin => exact hop.elim

/-- The session after an entry has joined its queue. -/
theorem State.session_enter {s : State} {x : Session} (op : BankOp) (h : s.session x.team x.group = some x) :
    (s.updSession x.team x.group (Session.enter op s.now)).session x.team x.group = some (x.enter op s.now) := by
  rw [State.session_updSession _ _ _ (Session.keepsKey_enter op s.now), if_pos ⟨rfl, rfl⟩, h]
  rfl

/-- An entry waits that is, or is behind, a step. -/
theorem State.bankPut_waits {s : State} {x : Session} {op : BankOp} {n : Nat} {c : CodePtr} {rest : List BankOp}
    (h : s.session x.team x.group = some x) (hq : x.queue ++ [op] = .steps n c :: rest) (hn : n ≠ 0) :
    s.bankPut x op = s.updSession x.team x.group (Session.enter op s.now) :=
  State.bankTurns_steps (State.session_enter op h) hq hn _

/-- Where nothing is pending an entry that changes the session alone has its turn at once. -/
theorem State.bankPut_loads {s : State} {x : Session} {op : BankOp} (hop : op.Loads) (h : s.session x.team x.group = some x)
    (hq : x.queue = []) : s.bankPut x op = s.updSession x.team x.group (fun y => op.load (y.enter op s.now)) := by
  have hqueue : (x.enter op s.now).queue = [op] := by rw [Session.enter, hq]; rfl
  have hleft : (op.load (x.enter op s.now)).queue = [] := by
    cases op with
    | prog | vec | scale => exact congrArg List.tail hqueue
    | steps | read | fin => exact hop.elim
  have hz : (s.updSession x.team x.group (fun y => op.load (y.enter op s.now))).session x.team x.group =
      some (op.load (x.enter op s.now)) := by
    rw [State.session_updSession _ _ _ fun y => op.keepsKey_load (y.enter op s.now), if_pos ⟨rfl, rfl⟩, h]
    rfl
  calc s.bankPut x op = ((s.updSession x.team x.group (Session.enter op s.now)).updSession x.team x.group op.load).bankTurns
        x.team x.group (x.queue.length + 1) := State.bankTurns_loads hop (State.session_enter op h) hqueue _
    _ = (s.updSession x.team x.group (fun y => op.load (y.enter op s.now))).bankTurns x.team x.group (x.queue.length + 1) := by
        rw [State.updSession_updSession _ _ _ (Session.keepsKey_enter op s.now)]
    _ = _ := State.bankTurns_idle hz hleft _

/-- What an entry that is a step, or that changes the session alone, does to a session whose queue is empty or begins with steps. -/
def Session.take (x : Session) (op : BankOp) (now : Nat) (y : Session) : Session :=
  if x.queue = [] then op.load (y.enter op now) else y.enter op now

theorem Session.keepsKey_take (x : Session) (op : BankOp) (now : Nat) : Session.KeepsKey (x.take op now) := fun y => by
  unfold Session.take
  split
  · exact op.keepsKey_load (y.enter op now)
  · exact Session.keepsKey_enter op now y

theorem State.bankPut_take {s : State} {x : Session} {op : BankOp} (hop : op.Loads ∨ ∃ n c, n ≠ 0 ∧ op = .steps n c)
    (h : s.session x.team x.group = some x) (hhead : ∀ op ∈ x.queue.head?, ∃ n c, op = .steps (n + 1) c) :
    s.bankPut x op = s.updSession x.team x.group (x.take op s.now) := by
  unfold Session.take
  cases hq : x.queue with
  | nil =>
    rcases hop with hop | ⟨n, c, hn, rfl⟩
    · exact State.bankPut_loads hop h hq
    · exact State.bankPut_waits h (by rw [hq]; rfl) hn
  | cons first rest =>
    obtain ⟨n, c, rfl⟩ := hhead first (by rw [hq]; rfl)
    exact State.bankPut_waits h (by rw [hq]; rfl) (Nat.succ_ne_zero n)

theorem State.session_take {s : State} {x : Session} (op : BankOp) (now : Nat) (h : s.session x.team x.group = some x) :
    (s.updSession x.team x.group (x.take op now)).session x.team x.group = some (x.take op now x) := by
  rw [State.session_updSession _ _ _ (x.keepsKey_take op now), if_pos ⟨rfl, rfl⟩, h]
  rfl

/-- A session in which only the executing group's changes. -/
theorem Claims.SessionBecomes.of_updSession {s u : State} {x y : Session} {op : BankOp} {f : Session → Session}
    (own : s.session s.cur.ref.team s.cur.ref.group = some x) (hu : u.rest = s.rest) (hf : Session.KeepsKey f)
    (hz : { f x with since := 0 } = { (if x.queue = [] then y else { x with queue := x.queue ++ [op] }) with since := 0 }) :
    SessionBecomes s (u.updSession x.team x.group f) x op y := by
  obtain ⟨hteam, hgroup⟩ := State.key_of_session own
  have hsession : ∀ k g, (u.updSession x.team x.group f).session k g =
      if k = s.cur.ref.team ∧ g = s.cur.ref.group then some (f x) else s.session k g := fun k g => by
    have hsame : ∀ k g, u.session k g = s.session k g := fun k g =>
      (congrArg (fun t : State => t.session k g) hu : u.rest.session k g = s.rest.session k g)
    rw [State.session_updSession _ _ _ hf, hsame, hsame, hteam, hgroup, own]
    rfl
  refine ⟨congrArg (fun t : State => { t with sessions := [] }) hu, ⟨_, (hsession _ _).trans (if_pos ⟨rfl, rfl⟩), hz⟩,
    fun k g h => ?_⟩
  exact (hsession k g).trans (if_neg fun hkg => h (Prod.ext hkg.1 hkg.2))

/-- What joining a session's queue leaves of a slot's other effects. -/
theorem Claims.GoesOnOnly.updSession {s u : State} (h : GoesOnOnly s u) (k g : Nat) (f : Session → Session) :
    GoesOnOnly s (u.updSession k g f) :=
  ⟨h.v, h.u, h.p, h.rest, h.otherFrags, h.fragment, h.otherGroups⟩

/-! ## The session of an instruction (R354) -/

theorem State.withSession_none {s : State} (h : s.session s.cur.ref.team s.cur.ref.group = none) (errors : Bool) (k : Session → State) :
    s.withSession errors k = s.raise 0x180 := by
  rw [State.withSession, h]

theorem State.withSession_error {s : State} {x : Session} {c : BitVec 9} (h : s.session s.cur.ref.team s.cur.ref.group = some x)
    (he : x.error = some c) (k : Session → State) : s.withSession true k = s.raise 0x18A := by
  simp only [State.withSession, h, he, Option.isSome_some, Bool.and_self, if_true]

theorem State.withSession_own {s : State} {x : Session} (h : s.session s.cur.ref.team s.cur.ref.group = some x) {errors : Bool}
    (he : errors = true → x.error = none) (k : Session → State) : s.withSession errors k = k x := by
  simp only [State.withSession, h]
  cases errors with
  | false => rfl
  | true => rw [he rfl]; rfl

end Sys2Proof.Machine
end

section
/-!
SUPPORT. What the entries of a session's queue do to its BGUs and its command store: words of broadcast registers, scales and
programs (R347, R348); and vector registers written from accumulators (R350).
-/

namespace Sys2Proof.Machine

open Claims

theorem Map.get_foldl_put {α : Type} (d : α) (v : Nat → α) (l : List Nat) (m : Map α) (i : Nat) :
    Map.get d (l.foldl (fun m g => Map.put m g (v g)) m) i = if i ∈ l then v i else Map.get d m i := by
  induction l generalizing m with
  | nil => simp
  | cons g l ih =>
    rw [List.foldl_cons, ih, Map.get_put]
    by_cases hl : i ∈ l
    · simp [hl]
    · by_cases hg : g = i
      · simp [hg]
      · simp [hl, hg, Ne.symm hg]

/-! ## Words of broadcast registers (R348) -/

/-- One word of the broadcast registers is written. -/
def Bgu.putWord (b : Bgu) (w : Nat × Word) : Bgu :=
  let k := w.1 / 16
  let lo := 32 * (w.1 % 16)
  let old : BitVec 512 := Map.get 0 b.bv k
  let m : BitVec 512 := BitVec.ofNat 512 (0xFFFFFFFF * 2 ^ lo)
  { b with bv := Map.put b.bv k ((old &&& ~~~m) ||| BitVec.ofNat 512 (w.2.toNat * 2 ^ lo)) }

/-- A word of a broadcast register, in order. -/
def Bgu.word (b : Bgu) (r j : Nat) : Word := (Map.get 0 b.bv r).extractLsb' (32 * j) 32

theorem word_replaced (old : BitVec 512) (w : Word) {q j : Nat} (hj : j < 16) :
    ((old &&& ~~~(BitVec.ofNat 512 (0xFFFFFFFF * 2 ^ (32 * q)))) |||
        BitVec.ofNat 512 (w.toNat * 2 ^ (32 * q))).extractLsb' (32 * j) 32 =
      if q = j then w else old.extractLsb' (32 * j) 32 := by
  refine BitVec.eq_of_getLsbD_eq fun i hi => ?_
  have hbit : 32 * j + i < 512 := by omega
  have hones : Nat.testBit 0xFFFFFFFF (32 * j + i - 32 * q) = decide (32 * j + i - 32 * q < 32) :=
    Nat.testBit_two_pow_sub_one 32 _
  simp only [BitVec.getLsbD_extractLsb', BitVec.getLsbD_or, BitVec.getLsbD_and, BitVec.getLsbD_not, BitVec.getLsbD_ofNat,
    Nat.testBit_mul_two_pow, BitVec.testBit_toNat, hones, hi, hbit, decide_true, Bool.true_and]
  rcases lt_trichotomy q j with h | rfl | h
  · simp [show ¬ 32 * j + i - 32 * q < 32 by omega, h.ne, hi, BitVec.getLsbD_of_ge w _ (show 32 ≤ 32 * j + i - 32 * q by omega)]
  · simp [hi]
  · simp [show ¬ 32 * q ≤ 32 * j + i by omega, h.ne', hi]

theorem Bgu.word_putWord (b : Bgu) (w : Nat × Word) {r j : Nat} (hj : j < 16) :
    (b.putWord w).word r j = if w.1 = 16 * r + j then w.2 else b.word r j := by
  simp only [Bgu.word, Bgu.putWord, Map.get_put]
  by_cases hr : w.1 / 16 = r
  · rw [if_pos hr, word_replaced _ _ hj, hr]
    exact if_congr (by omega) rfl rfl
  · rw [if_neg hr, if_neg (by omega)]

/-- Words given by lane: word `n + l` of the broadcast registers is that of lane l. -/
theorem Bgu.putWords_lanes (v : Nat → Word) (n : Nat) (ls : List Nat) (b : Bgu) :
    let c := (ls.map (fun l => (n + l, v l))).foldl Bgu.putWord b
    { c with bv := [] } = { b with bv := [] } ∧ ∀ r, ∀ j < 16,
      c.word r j = if n ≤ 16 * r + j ∧ 16 * r + j - n ∈ ls then v (16 * r + j - n) else b.word r j := by
  induction ls generalizing b with
  | nil => simp
  | cons l ls ih =>
    obtain ⟨hrest, hword⟩ := ih (b.putWord (n + l, v l))
    refine ⟨hrest, fun r j hj => ?_⟩
    rw [List.map_cons, List.foldl_cons, hword r j hj, Bgu.word_putWord b _ hj]
    by_cases hls : n ≤ 16 * r + j ∧ 16 * r + j - n ∈ ls
    · rw [if_pos hls, if_pos ⟨hls.1, List.mem_cons_of_mem _ hls.2⟩]
    · by_cases hl : n + l = 16 * r + j
      · obtain rfl : l = 16 * r + j - n := by omega
        rw [if_neg hls, if_pos hl, if_pos ⟨by omega, List.mem_cons_self⟩]
      · rw [if_neg hls, if_neg hl, if_neg]
        rintro ⟨hle, hmem⟩
        rcases List.mem_cons.1 hmem with h | h
        · exact hl (by omega)
        · exact hls ⟨hle, h⟩

/-- Words of broadcast registers are written in every BGU of a session. -/
theorem Session.bgu_putVec (x : Session) (ws : List (Nat × Word)) {h : Nat} (hh : h < x.bguCount) :
    (x.putVec ws).bgu h = ws.foldl Bgu.putWord (x.bgu h) :=
  (Map.get_foldl_put nullBgu (fun g => ws.foldl Bgu.putWord (x.bgu g)) (List.range x.bguCount) x.bgus h).trans
    (if_pos (List.mem_range.2 hh))

/-! ## Scales (R348) -/

/-- A scale of one BGU is written. -/
def Bgu.putScale (k : Nat) (m : Map Bgu) (g : Nat) (v : Word) : Map Bgu :=
  Map.put m g { Map.get nullBgu m g with sc := Map.set 0 (Map.get nullBgu m g).sc k v }

theorem Bgu.get_putScales (k : Nat) (v : Nat → Word) (l : List Nat) (m : Map Bgu) (h : Nat) :
    let b := Map.get nullBgu (l.foldl (fun m g => Bgu.putScale k m g (v g)) m) h
    { b with sc := [] } = { Map.get nullBgu m h with sc := [] } ∧
      ∀ r, Map.get 0 b.sc r = if r = k ∧ h ∈ l then v h else Map.get 0 (Map.get nullBgu m h).sc r := by
  induction l generalizing m with
  | nil => simp
  | cons g l ih =>
    obtain ⟨hrest, hsc⟩ := ih (Bgu.putScale k m g (v g))
    have hput : Map.get nullBgu (Bgu.putScale k m g (v g)) h =
        if g = h then { Map.get nullBgu m h with sc := Map.set 0 (Map.get nullBgu m h).sc k (v h) } else Map.get nullBgu m h := by
      rw [Bgu.putScale, Map.get_put]
      split
      · next hg => rw [hg]
      · rfl
    rw [hput] at hrest hsc
    refine ⟨?_, fun r => ?_⟩
    · rw [List.foldl_cons, hrest]
      split <;> rfl
    · rw [List.foldl_cons, hsc r]
      by_cases hg : g = h
      · subst hg
        by_cases hr : r = k
        · simp [hr, Map.get_set]
        · simp [hr, Map.get_set, Ne.symm hr]
      · simp [hg, Ne.symm hg]

/-- Scales by lane: lane l's in BGU `n + l`. -/
theorem Session.bgu_putScales_lanes (x : Session) (k n : Nat) (ls : List Nat) (v : Nat → Word) (h : Nat) :
    let y := x.putScales k (ls.map (fun l => (some (n + l), v l)))
    { y.bgu h with sc := [] } = { x.bgu h with sc := [] } ∧ ∀ r, Map.get 0 (y.bgu h).sc r =
      if r = k then (if n ≤ h ∧ h - n ∈ ls then some (v (h - n)) else none).getD (Map.get 0 (x.bgu h).sc r)
      else Map.get 0 (x.bgu h).sc r := by
  intro y
  have hbgus : y.bgus = (ls.map (n + ·)).foldl (fun m g => Bgu.putScale k m g (v (g - n))) x.bgus := by
    simp only [y, Session.putScales, List.foldl_map, Nat.add_sub_cancel_left]
    rfl
  have hmem : h ∈ ls.map (n + ·) ↔ n ≤ h ∧ h - n ∈ ls := by
    rw [List.mem_map]
    constructor
    · rintro ⟨l, hl, rfl⟩
      exact ⟨Nat.le_add_right n l, by rwa [Nat.add_sub_cancel_left]⟩
    · rintro ⟨hle, hl⟩
      exact ⟨h - n, hl, Nat.add_sub_cancel' hle⟩
  obtain ⟨hrest, hsc⟩ := Bgu.get_putScales k (fun g => v (g - n)) (ls.map (n + ·)) x.bgus h
  rw [Session.bgu, hbgus]
  refine ⟨hrest, fun r => (hsc r).trans ?_⟩
  by_cases hr : r = k
  · by_cases hls : n ≤ h ∧ h - n ∈ ls
    · simp only [hmem, hr, hls, and_self, if_true, Option.getD_some]
    · simp only [hmem, hr, hls, and_false, if_true, if_false, Option.getD_none, Session.bgu]
  · simp only [hr, false_and, if_false, Session.bgu]

/-- One scale for every BGU. -/
theorem Session.bgu_putScales_uniform (x : Session) (k : Nat) (v : Word) {h : Nat} (hh : h < x.bguCount) :
    let y := x.putScales k [(none, v)]
    { y.bgu h with sc := [] } = { x.bgu h with sc := [] } ∧ ∀ r, Map.get 0 (y.bgu h).sc r =
      if r = k then (some v).getD (Map.get 0 (x.bgu h).sc r) else Map.get 0 (x.bgu h).sc r := by
  obtain ⟨hrest, hsc⟩ := Bgu.get_putScales k (fun _ => v) (List.range x.bguCount) x.bgus h
  refine ⟨hrest, fun r => (hsc r).trans ?_⟩
  simp only [List.mem_range, hh, and_true, Option.getD_some]
  rfl

/-! ## Programs (R347) -/

theorem Map.get_foldl_zipIdx (ws : List Word) (n : Nat) (m : Map Word) (i : Nat) :
    Map.get 0 ((ws.zipIdx n).foldl (fun m p => Map.set 0 m p.2 p.1) m) i =
      if n ≤ i ∧ i < n + ws.length then ws.getD (i - n) 0 else Map.get 0 m i := by
  induction ws generalizing n m with
  | nil => simp [show ¬ (n ≤ i ∧ i < n) by omega]
  | cons w ws ih =>
    rw [List.zipIdx_cons, List.foldl_cons, ih, Map.get_set, List.length_cons]
    by_cases hn : n = i
    · subst hn
      simp
    · by_cases hi : n + 1 ≤ i ∧ i < n + 1 + ws.length
      · rw [if_pos hi, if_pos (by omega), show i - n = i - (n + 1) + 1 by omega, List.getD_cons_succ]
      · rw [if_neg hi, if_neg hn, if_neg (by omega)]

theorem Session.get_store_putProg (x : Session) (ws : List Word) (i : Nat) :
    Map.get 0 (x.putProg ws).store i = if i < ws.length then ws.getD i 0 else Map.get 0 x.store i :=
  (Map.get_foldl_zipIdx ws 0 x.store i).trans (by simp)

/-! ## Consecutive vector registers (R350) -/

theorem Group.setLanes_same (g : Group) (r : Nat) (ls : List Nat) (x : Nat → Word) : g.SameButV (g.setLanes r ls x) := by
  unfold Group.setLanes
  induction ls generalizing g with
  | nil => exact ⟨rfl, rfl, rfl, rfl, rfl, rfl⟩
  | cons l ls ih => exact Group.SameButV.trans (b := g.setV r l (x l)) ⟨rfl, rfl, rfl, rfl, rfl, rfl⟩ (ih _)

theorem Group.vreg_setLanes (g : Group) {r r' l' : Nat} {ls : List Nat} (x : Nat → Word) (hls : ∀ l ∈ ls, l < 64) (hl' : l' < 64) :
    (g.setLanes r ls x).vreg r' l' = if r = r' ∧ l' ∈ ls then x l' else g.vreg r' l' := by
  unfold Group.setLanes
  induction ls generalizing g with
  | nil => simp
  | cons l ls ih =>
    rw [List.foldl_cons, ih _ fun k hk => hls k (List.mem_cons_of_mem _ hk), Group.vreg_setV _ _ _ _ _ _ (hls l List.mem_cons_self) hl']
    by_cases hr : r = r'
    · by_cases hmem : l' ∈ ls
      · simp [hr, hmem]
      · by_cases hl : l = l'
        · simp [hr, hl]
        · simp [hr, hl, Ne.symm hl]
    · simp [hr]

/-- Registers from `d` on, the k-th of them written in each lane of a list. -/
def Group.setRows (g : Group) (d : Nat) (ls : List Nat) (x : Nat → Nat → Word) (ks : List Nat) : Group :=
  ks.foldl (fun h k => h.setLanes (d + k) ls (x k)) g

theorem Group.setRows_same (g : Group) (d : Nat) (ls : List Nat) (x : Nat → Nat → Word) (ks : List Nat) :
    g.SameButV (g.setRows d ls x ks) := by
  unfold Group.setRows
  induction ks generalizing g with
  | nil => exact ⟨rfl, rfl, rfl, rfl, rfl, rfl⟩
  | cons k ks ih => exact (g.setLanes_same (d + k) ls (x k)).trans (ih _)

theorem Group.vreg_setRows (g : Group) {d r l : Nat} {ls : List Nat} (x : Nat → Nat → Word) (ks : List Nat)
    (hls : ∀ l ∈ ls, l < 64) (hl : l < 64) :
    (g.setRows d ls x ks).vreg r l = if d ≤ r ∧ r - d ∈ ks ∧ l ∈ ls then x (r - d) l else g.vreg r l := by
  unfold Group.setRows
  induction ks generalizing g with
  | nil => simp
  | cons k ks ih =>
    rw [List.foldl_cons, ih, Group.vreg_setLanes g (x k) hls hl]
    by_cases hk : d + k = r
    · subst hk
      by_cases hmem : l ∈ ls <;> simp [hmem]
    · have hne : d ≤ r → r - d ≠ k := by omega
      by_cases hd : d ≤ r
      · simp [hk, hne hd]
      · simp [hk, hd]

end Sys2Proof.Machine
end

section
/-!
SUPPORT. Loads from coherent local memory (R265 to R268, R276): what reading lines leaves alone, and the number that a lane's bytes
make where no line is in the commutative state.
-/

namespace Sys2Proof.Machine

open Claims

/-! ## What a read leaves alone -/

/-- Two states that differ at most in what reads of settled lines change: accessed frames, recalled ownership, cached translations. -/
def SameButReads (s t : State) : Prop :=
  { t with frames := [], readyQ := [], lineOwner := [], tlb := [] } = { s with frames := [], readyQ := [], lineOwner := [], tlb := [] }

theorem SameButReads.trans {s t u : State} (h : SameButReads s t) (h' : SameButReads t u) : SameButReads s u := Eq.trans h' h

theorem SameButReads.mem {s t : State} (h : SameButReads s t) : t.mem = s.mem := (congrArg State.mem h :)
theorem SameButReads.cLines {s t : State} (h : SameButReads s t) : t.cLines = s.cLines := (congrArg State.cLines h :)
theorem SameButReads.teams {s t : State} (h : SameButReads s t) : t.teams = s.teams := (congrArg State.teams h :)
theorem SameButReads.cur {s t : State} (h : SameButReads s t) : t.cur = s.cur := (congrArg State.cur h :)
theorem SameButReads.sessions {s t : State} (h : SameButReads s t) : t.sessions = s.sessions := (congrArg State.sessions h :)

/-- No line is in the commutative state. -/
def State.Settled (s : State) : Prop := ∀ l, Map.find s.cLines l = none

theorem State.Settled.of_reads {s t : State} (hs : s.Settled) (h : SameButReads s t) : t.Settled := fun l => by
  rw [h.cLines]
  exact hs l

theorem State.mergeC_settled {s : State} (hs : s.Settled) (line : Nat) : s.mergeC line = s := by
  unfold State.mergeC
  rw [hs]

theorem State.readLine_settled {s : State} (hs : s.Settled) (line : Nat) (who : Option Nat) :
    (s.readLine line who).1 = Map.bytes s.mem line 64 ∧ SameButReads s (s.readLine line who).2 := by
  have htouch : SameButReads s (s.touchFrame line) := by unfold State.touchFrame; split <;> rfl
  unfold State.readLine
  rw [State.mergeC_settled hs]
  dsimp only
  split
  · exact ⟨congrArg (Map.bytes · line 64) htouch.mem, htouch⟩
  · exact ⟨congrArg (Map.bytes · line 64) htouch.mem, htouch.trans rfl⟩

theorem State.walked_settled {s : State} (hs : s.Settled) (ctx va : Nat) : SameButReads s (s.walked ctx va) := by
  unfold State.walked
  generalize s.walkLinesFrom va _ 4 = ls
  induction ls generalizing s with
  | nil => rfl
  | cons l ls ih =>
    have hread := (State.readLine_settled hs l none).2
    exact hread.trans (ih (hs.of_reads hread))

theorem State.cache_settled {s : State} (hs : s.Settled) (ctx va : Nat) : SameButReads s (s.cache ctx va) := by
  unfold State.cache
  split
  · dsimp only
    split
    · rfl
    · exact (State.walked_settled hs ctx va).trans rfl
  · rfl

theorem State.readReq_local {s : State} (hs : s.Settled) {q : LineReq} (hq : ∃ m, q.place = .loc m) :
    (s.readReq q).1 = some (Map.bytes s.mem q.place.line 64) ∧ SameButReads s (s.readReq q).2 := by
  obtain ⟨m, hm⟩ := hq
  have hcache := State.cache_settled hs s.ct.ctx q.va
  obtain ⟨hbytes, hread⟩ := State.readLine_settled (hs.of_reads hcache) m (some s.ct.core)
  simp only [State.readReq, hm, Place.line]
  exact ⟨by rw [hbytes, hcache.mem], hcache.trans hread⟩

/-- Lines of coherent local memory read in order: every lane's bytes. -/
theorem State.readReqs_local {s : State} (hs : s.Settled) {ls : List LineReq} (hls : ∀ q ∈ ls, ∃ m, q.place = .loc m) :
    (s.readReqs ls).1 =
        ls.flatMap (fun q => q.bytes.map (fun b => (b.1, b.2.1, (Map.bytes s.mem q.place.line 64).getD b.2.2 0))) ∧
      SameButReads s (s.readReqs ls).2 := by
  induction ls generalizing s with
  | nil => exact ⟨rfl, rfl⟩
  | cons q ls ih =>
    obtain ⟨hbytes, hread⟩ := State.readReq_local hs (hls q List.mem_cons_self)
    obtain ⟨hrest, hreads⟩ := ih (hs.of_reads hread) fun q' hq' => hls q' (List.mem_cons_of_mem _ hq')
    simp only [State.readReqs, hbytes, List.flatMap_cons, hrest, hread.mem, true_and]
    exact hread.trans hreads

/-- A load whose lines all lie in coherent local memory. -/
theorem State.loadVia_coherent {s : State} {r : Resolved} (hsent : s.cf.sent = []) (hc : Coherent s r) (uniform : Bool)
    (finish : List (Nat × Nat × Byte) → State → State) :
    s.loadVia uniform (.ok r) finish = finish (s.readReqs r.lines).1 (s.readReqs r.lines).2 := by
  have hlocal : r.lines.any (fun x => x.place.remote) = false := by
    rw [List.any_eq_false]
    intro q hq
    obtain ⟨m, hm⟩ := hc.local_ q hq
    rw [hm]
    exact Bool.false_ne_true
  simp only [State.loadVia, State.withReplies, hsent, hlocal, Bool.false_eq_true, if_false]

/-! ## The requests of an access (R266 to R268) -/

theorem mem_sortNats {x : Nat} {l : List Nat} : x ∈ sortNats l ↔ x ∈ l := by
  have hinsert : ∀ (y : Nat) (l : List Nat), x ∈ sortedInsert y l ↔ x = y ∨ x ∈ l := fun y l => by
    fun_induction sortedInsert y l with
    | case1 => simp
    | case2 => simp
    | case3 => simp
    | case4 z l hz hne ih => simp [ih, or_left_comm]
  induction l with
  | nil => rfl
  | cons y l ih => rw [sortNats, List.foldr_cons, hinsert, List.mem_cons]; exact or_congr_right ih

theorem boundsStop_none {slot : Nat} {a : Ask} {bs : List (LaneIx × Bound)} (h : boundsStop slot a bs = none) :
    ∀ p ∈ bs, p.2 = .inside ∨ p.2 = .dropped := by
  intro p hp
  match hb : p.2 with
  | .inside => exact .inl rfl
  | .dropped => exact .inr rfl
  | .fault c x =>
    have hbad : (p.1.lane, c, x) ∈
        bs.filterMap (fun p => match p.2 with | .fault c x => some (p.1.lane, c, x) | _ => none) :=
      List.mem_filterMap.2 ⟨p, hp, by rw [hb]⟩
    simp only [boundsStop] at h
    split at h
    · next hnil => exact absurd (hnil ▸ hbad) (by simp)
    · split at h
      · exact absurd h (by simp)
      · split at h <;> exact absurd h (by simp)

/-- The bounds test drops or lets in every lane, where it stops none. -/
theorem checkLanes_ok {t : Team} {bf : BRec} {group slot : Nat} {off : BitVec 32} {a : Ask} {ls live : List LaneIx}
    {dropped : List Nat} (h : checkLanes t bf group off slot a ls = .ok (live, dropped)) :
    (∀ i, i ∈ live ↔ i ∈ ls ∧ bound bf off a.n i = .inside) ∧
      (∀ l, l ∈ dropped ↔ ∃ i ∈ ls, bound bf off a.n i = .dropped ∧ i.lane = l) ∧
      ∀ i ∈ ls, bound bf off a.n i = .inside ∨ bound bf off a.n i = .dropped := by
  simp only [checkLanes] at h
  split at h
  · exact absurd h (by simp)
  split at h
  · exact absurd h (by simp)
  next hstop =>
  split at h
  · exact absurd h (by simp)
  obtain ⟨rfl, rfl⟩ : _ = live ∧ _ = dropped := by simpa using h
  exact ⟨fun i => by simp [List.mem_filterMap], fun l => by simp [List.mem_filterMap],
    fun i hi => boundsStop_none hstop _ (List.mem_map.2 ⟨i, hi, rfl⟩)⟩

theorem mem_allBytes {t : Team} {bf : BRec} {group n : Nat} {off : BitVec 32} {ls : List LaneIx} {b : Nat × Nat × Nat} :
    b ∈ allBytes t bf group off n ls ↔ ∃ i ∈ ls, ∃ j < n, b = (i.lane, j, (byteAddr t bf group off i j).toNat) := by
  simp only [allBytes, List.mem_flatten, List.mem_map]
  constructor
  · rintro ⟨_, ⟨i, hi, rfl⟩, hb⟩
    obtain ⟨j, hj, rfl⟩ := List.mem_map.1 hb
    exact ⟨i, hi, j, List.mem_range.1 hj, rfl⟩
  · rintro ⟨i, hi, j, hj, rfl⟩
    exact ⟨_, ⟨i, hi, rfl⟩, List.mem_map.2 ⟨j, List.mem_range.2 hj, rfl⟩⟩

/-- Every byte is in the request of its line. -/
theorem mem_coalesce {bytes : List (Nat × Nat × Nat)} {va : Nat} {xs : List (Nat × Nat × Nat)} :
    (va, xs) ∈ coalesce bytes ↔ (∃ b ∈ bytes, alignDown 64 b.2.2 = va) ∧
      xs = (bytes.filter (fun b => alignDown 64 b.2.2 == va)).map (fun b => (b.1, b.2.1, b.2.2 % 64)) := by
  simp only [coalesce, List.mem_map, mem_sortNats, Prod.mk.injEq]
  constructor
  · rintro ⟨_, hb, rfl, rfl⟩
    exact ⟨hb, rfl⟩
  · rintro ⟨hb, rfl⟩
    exact ⟨va, hb, rfl, rfl⟩

/-- Where every line is translated, each request lies where its line does. -/
theorem mem_translateLines {s : State} {ctx slot : Nat} {user : Bool} {a : Ask} {ls : List (Nat × List (Nat × Nat × Nat))}
    {reqs : List LineReq} (h : translateLines s ctx user slot a ls = .ok reqs) :
    (∀ q, q ∈ reqs ↔ (q.va, q.bytes) ∈ ls ∧ s.translate ctx user a.kind q.va = .ok q.place) ∧
      ∀ p ∈ ls, ∃ place, s.translate ctx user a.kind p.1 = .ok place := by
  simp only [translateLines] at h
  split at h
  next hstop =>
    obtain rfl : _ = reqs := by simpa using h
    refine ⟨fun q => ?_, fun p hp => ?_⟩
    · rw [List.mem_filterMap]
      constructor
      · rintro ⟨p, hp, hq⟩
        split at hq
        · next pl hpl =>
          obtain rfl : _ = q := by simpa using hq
          exact ⟨hp, hpl⟩
        · exact absurd hq (by simp)
      · rintro ⟨hp, hplace⟩
        exact ⟨_, hp, by simp only [hplace]⟩
    · have hp' := List.findSome?_eq_none_iff.1 hstop _ (List.mem_map.2 ⟨p, hp, rfl⟩)
      cases hplace : s.translate ctx user a.kind p.1 with
      | ok pl => exact ⟨pl, rfl⟩
      | error e =>
        rw [hplace] at hp'
        exact absurd hp' (by simp [stopOf])
  · exact absurd h (by simp)
  · exact absurd h (by simp)

/-- An access that reaches its lines has passed each step of the address path (R266). -/
theorem State.resolveRec_ok {s : State} {bf : BRec} {slot : Nat} {off : BitVec 32} {a : Ask} {k : Touch} {ls : List LaneIx}
    {r : Resolved} (h : s.resolveRec bf slot off a k true ls = .ok r) :
    checkLanes s.ct bf s.cur.ref.group off slot a ls = .ok (r.live, r.dropped) ∧
      translateLines s s.ct.ctx (!s.cg.sys) slot a (coalesce (allBytes s.ct bf s.cur.ref.group off a.n r.live)) = .ok r.lines := by
  simp only [State.resolveRec, if_true] at h
  split at h
  · exact absurd h (by simp)
  next live dropped hlanes =>
  split at h
  · exact absurd h (by simp)
  next reqs hlines =>
  split at h
  · exact absurd h (by simp)
  split at h
  · exact absurd h (by simp)
  next reqs' hreach =>
  obtain rfl : reqs = reqs' := by
    unfold checkReach at hreach
    split at hreach
    · simpa using hreach
    · exact absurd hreach (by simp)
  obtain rfl : _ = r := by simpa using h
  exact ⟨hlanes, hlines⟩

/-! ## The value of a lane (R11, R265) -/

theorem Map.getD_bytes (m : Map Byte) (a : Nat) {n i : Nat} (hi : i < n) : (Map.bytes m a n).getD i 0 = Map.get 0 m (a + i) := by
  induction n generalizing a i with
  | zero => exact absurd hi (Nat.not_lt_zero _)
  | succ n ih =>
    cases i with
    | zero => rfl
    | succ i => rw [Map.bytes, List.getD_cons_succ, ih _ (Nat.lt_of_succ_lt_succ hi), Nat.add_assoc, Nat.add_comm 1]

/-- The byte at an address of an access whose line lies in local memory. -/
theorem byteAt_machine {s : State} {bf : BRec} {off : BitVec 32} {kind : Kind} {i : LaneIx} {j : Nat} {m va : Nat}
    (hva : (byteAddr s.ct bf s.cur.ref.group off i j).toNat = va)
    (hm : s.translate s.ct.ctx (!s.cg.sys) kind (alignDown 64 va) = .ok (.loc m)) :
    s.byteAt ((machine s bf off kind i j).getD 0) = (Map.bytes s.mem m 64).getD (va % 64) 0 := by
  rw [alignDown, Nat.mul_comm] at hm
  simp only [machine, hva, hm, Option.getD_some]
  exact (Map.getD_bytes _ _ (Nat.mod_lt _ (by decide))).symm

/-- The bytes that a read of coherent memory delivers: those of every lane that the bounds test lets in, and no others. -/
theorem State.mem_readReqs {s : State} {bf : BRec} {slot : Nat} {off : BitVec 32} {a : Ask} {k : Touch} {ls : List LaneIx}
    {r : Resolved} (h : s.resolveRec bf slot off a k true ls = .ok r) (hc : Coherent s r) (e : Nat × Nat × Byte) :
    e ∈ (s.readReqs r.lines).1 ↔
      ∃ i ∈ r.live, ∃ j < a.n, e = (i.lane, j, s.byteAt ((machine s bf off a.kind i j).getD 0)) := by
  obtain ⟨-, hlines⟩ := State.resolveRec_ok h
  obtain ⟨hreqs, hplaces⟩ := mem_translateLines hlines
  rw [(State.readReqs_local hc.settled hc.local_).1, List.mem_flatMap]
  constructor
  · rintro ⟨q, hq, he⟩
    obtain ⟨m, hm⟩ := hc.local_ q hq
    obtain ⟨hmem, hplace⟩ := (hreqs q).1 hq
    obtain ⟨-, hbytes⟩ := mem_coalesce.1 hmem
    rw [hbytes, List.map_map, List.mem_map] at he
    obtain ⟨b, hb, rfl⟩ := he
    obtain ⟨hb, hva⟩ := List.mem_filter.1 hb
    obtain ⟨i, hi, j, hj, rfl⟩ := mem_allBytes.1 hb
    rw [← eq_of_beq hva, hm] at hplace
    refine ⟨i, hi, j, hj, ?_⟩
    rw [byteAt_machine rfl hplace, hm]
    rfl
  · rintro ⟨i, hi, j, hj, rfl⟩
    have hb := mem_allBytes (t := s.ct) (bf := bf) (group := s.cur.ref.group) (off := off).2 ⟨i, hi, j, hj, rfl⟩
    have hmem := mem_coalesce.2 ⟨⟨_, hb, rfl⟩, rfl⟩
    obtain ⟨place, hplace⟩ := hplaces _ hmem
    have hq := (hreqs ⟨_, place, _⟩).2 ⟨hmem, hplace⟩
    obtain ⟨m, hm⟩ := hc.local_ _ hq
    obtain rfl : place = .loc m := hm
    refine ⟨_, hq, ?_⟩
    rw [List.map_map, List.mem_map]
    refine ⟨_, List.mem_filter.2 ⟨hb, beq_self_eq_true _⟩, ?_⟩
    rw [byteAt_machine rfl hplace]
    rfl

/-- A lane's bytes, as they stand in a list that holds each once for its lane and number. -/
theorem laneBytes_eq {n lane : Nat} {xs : List (Nat × Nat × Byte)} {v : Nat → Byte} (hin : ∀ j < n, (lane, j, v j) ∈ xs)
    (hone : ∀ j y, (lane, j, y) ∈ xs → y = v j) : laneBytes n xs lane = (List.range n).map (fun j => some (v j)) := by
  refine List.map_congr_left fun j hj => ?_
  obtain ⟨e, he⟩ : ∃ e, xs.find? (fun x => x.1 == lane && x.2.1 == j) = some e :=
    Option.isSome_iff_exists.1 (List.find?_isSome.2 ⟨_, hin j (List.mem_range.1 hj), by simp⟩)
  obtain ⟨rfl, rfl⟩ : e.1 = lane ∧ e.2.1 = j := by simpa using List.find?_some he
  rw [he, Option.map_some, hone _ _ (List.mem_of_find?_eq_some he)]

theorem natOfBytes_zeros (n : Nat) : natOfBytes (List.replicate n 0) = 0 := by
  induction n with
  | zero => rfl
  | succ n ih => rw [List.replicate_succ, natOfBytes, ih]; rfl

/-- The number that a lane reads from coherent memory. -/
theorem laneNat_readReqs {s : State} {bf : BRec} {slot : Nat} {off : BitVec 32} {a : Ask} {k : Touch} {ls : List LaneIx}
    {r : Resolved} (h : s.resolveRec bf slot off a k true ls = .ok r) (hc : Coherent s r) (hkind : a.kind = .read)
    (hlanes : ∀ i ∈ ls, ∀ i' ∈ ls, i.lane = i'.lane → i = i') {i : LaneIx} (hi : i ∈ ls) :
    laneNat a.n (s.readReqs r.lines).1 i.lane = valueAt s bf off r a.n i := by
  obtain ⟨hlive, hdropped, hbound⟩ := checkLanes_ok (State.resolveRec_ok h).1
  have hmem := State.mem_readReqs h hc
  rw [hkind] at hmem
  have hsame : ∀ i' ∈ r.live, i'.lane = i.lane → i' = i := fun i' hi' => hlanes i' ((hlive i').1 hi').1 i hi
  unfold laneNat valueAt
  by_cases hdrop : i.lane ∈ r.dropped
  · obtain ⟨i', hi', hout, hlane⟩ := (hdropped _).1 hdrop
    obtain rfl := hlanes i' hi' i hi hlane
    have hnone : laneBytes a.n (s.readReqs r.lines).1 i'.lane = List.replicate a.n none := by
      refine List.eq_replicate_iff.2 ⟨by simp [laneBytes], fun b hb => ?_⟩
      obtain ⟨j, -, rfl⟩ := List.mem_map.1 hb
      rw [Option.map_eq_none_iff, List.find?_eq_none]
      intro e he hej
      obtain ⟨i2, hi2, j2, -, rfl⟩ := (hmem e).1 he
      have hlane2 : i2.lane = i'.lane := by simpa using (Bool.and_eq_true_iff.1 hej).1
      obtain rfl := hsame i2 hi2 hlane2
      exact absurd (((hlive _).1 hi2).2.symm.trans hout) (by simp)
    rw [if_pos hdrop, hnone, List.map_replicate]
    exact natOfBytes_zeros _
  · have hin : i ∈ r.live := (hlive i).2 ⟨hi, (hbound i hi).resolve_right fun hout => hdrop ((hdropped _).2 ⟨i, hi, hout, rfl⟩)⟩
    have hbytes : laneBytes a.n (s.readReqs r.lines).1 i.lane =
        (List.range a.n).map (fun j => some (s.byteAt ((machine s bf off .read i j).getD 0))) := by
      refine laneBytes_eq (fun j hj => (hmem _).2 ⟨i, hin, j, hj, rfl⟩) fun j y hy => ?_
      obtain ⟨i', hi', j', -, he⟩ := (hmem _).1 hy
      obtain ⟨hlane, rfl, rfl⟩ : i.lane = i'.lane ∧ j = j' ∧ y = _ := by simpa using he
      rw [hsame i' hi' hlane.symm]
    rw [if_neg hdrop, hbytes, List.map_map]
    rfl

end Sys2Proof.Machine
end

section
/-!
SUPPORT. Session instructions (R345 to R351, R354): how a slot of one ends, what each of them does in its turn, and the statement
about them.
-/

namespace Sys2Proof.Machine

open Claims

/-! ## The end of the slot -/

/-- What a slot that completes at once keeps of its group. -/
theorem State.retireNow_keeps {β : Type} (q : Group → β) (hdrain : ∀ g, q (Group.drain g) = q g)
    (hstop : ∀ (g : Group) x, q { g with stop := x } = q g) (hfrags : ∀ (g : Group) x, q { g with frags := x } = q g) (s : State) :
    q s.retireNow.cg = q s.cg := by
  rw [State.retireNow, State.stop_keeps q hdrain hstop, State.cg_setF]
  exact hfrags _ _

theorem State.retireNow_only (s : State) : GroupOnly s s.retireNow := (State.setF_only s _).trans (State.stopAtSafePoint_only _ _)

theorem State.fragOf_retireNow (s : State) (e : Nat) :
    s.retireNow.cg.fragOf e = if s.cur.ref.entry = e then s.cf.goTo (nextPc s.cf.pc) else s.cg.fragOf e := by
  have hfrags : s.retireNow.cg.frags = (s.cg.updFrag s.cur.ref.entry (fun f => f.goTo (nextPc f.pc))).frags := by
    rw [State.retireNow, State.stop_keeps Group.frags (fun _ => rfl) (fun _ _ => rfl), State.cg_setF]
  exact (congrArg (fun m => Map.get nullFrag m e) hfrags).trans (Group.fragOf_updFrag s.cg s.cur.ref.entry e _)

theorem State.cf_retireNow (s : State) : s.retireNow.cf = s.cf.goTo (nextPc s.cf.pc) := by
  rw [State.cf, s.retireNow_only.cur, State.fragOf_retireNow, if_pos rfl]

theorem State.retireNow_goesOn (s : State) : GoesOnOnly s s.retireNow where
  v := State.retireNow_keeps Group.v (fun _ => rfl) (fun _ _ => rfl) (fun _ _ => rfl) s
  u := State.retireNow_keeps Group.s (fun _ => rfl) (fun _ _ => rfl) (fun _ _ => rfl) s
  p := State.retireNow_keeps Group.p (fun _ => rfl) (fun _ _ => rfl) (fun _ _ => rfl) s
  rest := State.retireNow_keeps Group.rest (fun _ => rfl) (fun _ _ => rfl) (fun _ _ => rfl) s
  otherFrags e he := by rw [State.fragOf_retireNow, if_neg (Ne.symm he)]
  fragment := s.cf_retireNow
  otherGroups := s.retireNow_only.otherGroups

theorem State.retireNow_completed (s : State) : Completed s s.retireNow [] where
  only := s.retireNow_only
  group := s.retireNow_goesOn.rest
  vectors r l _ _ := by simp only [Group.vreg, s.retireNow_goesOn.v]
  uniforms r _ := by simp only [Group.ureg, s.retireNow_goesOn.u]
  predicates := s.retireNow_goesOn.p
  records h := by
    rw [State.retireNow, State.stop_goesOn s _ h (congrArg Team.request (State.setF_only s _).team :), State.cg_setF]
    exact ⟨rfl, rfl, rfl⟩
  otherFrags := s.retireNow_goesOn.otherFrags
  fragment := s.cf_retireNow

/-- What a fragment that parks leaves alone. -/
theorem State.park_keeps (s : State) (w : Park) (later : List Reg) :
    GroupOnly s (s.park w later) ∧ (s.park w later).cg.v = s.cg.v ∧ (s.park w later).cg.s = s.cg.s ∧
      (s.park w later).cg.p = s.cg.p ∧ (s.park w later).cf.park = some w ∧ (s.park w later).cf.pc = s.cf.pc := by
  have hhalt : ∀ g : Group, g.halt.v = g.v ∧ g.halt.s = g.s ∧ g.halt.p = g.p ∧ g.halt.frags = g.frags := fun g => by
    unfold Group.halt
    split <;> exact ⟨rfl, rfl, rfl, rfl⟩
  unfold State.park
  dsimp only
  split
  · refine ⟨(State.setF_only s _).trans (State.setG_only _ _), ?_⟩
    obtain ⟨hv, hs, hp, hf⟩ := hhalt (s.setF (fun f =>
      { f with park := some w, later := later, sp := s.cur.hdr.sp, sent := [], promoted := false, ready := none, went := true })).cg
    rw [State.cf_setG, State.cg_setG, hv, hs, hp, Group.fragOf, hf]
    simp [State.cf, Group.updFrag, Group.fragOf, Map.get_modify]
  · refine ⟨State.setF_only s _, ?_⟩
    simp [Group.updFrag]

/-! ## Slots of session instructions -/

/-- An instruction of a session takes 0x180 where its group has none, and 0x18A where that is in an error. -/
theorem refused_of_withSession {s : State} {i : Instr} {u : Uses} {e : State → State} {k : Session → State}
    (he : exec i s = .next (s.slot i u (·.whenActs e))) (hk : e s = s.withSession true k) (hacts : s.actsAny = true) (hi : s.Issues i u) :
    (s.session s.cur.ref.team s.cur.ref.group = none → exec i s = .next (s.raise 0x180)) ∧
      ∀ x c, s.session s.cur.ref.team s.cur.ref.group = some x → x.error = some c → exec i s = .next (s.raise 0x18A) := by
  rw [exec_acts he hacts hi, hk]
  exact ⟨fun h => congrArg _ (State.withSession_none h _ _), fun x c h hx => congrArg _ (State.withSession_error h hx _)⟩

theorem State.withSession_owned {s : State} {x : Session} (h : Owned s x) (k : Session → State) : s.withSession true k = k x :=
  State.withSession_own h.own (fun _ => h.good) k

/-- The session that an executing group owns, after a change of that group. -/
theorem session_of_groupOnly {s t : State} {x : Session} (own : s.session s.cur.ref.team s.cur.ref.group = some x)
    (h : GroupOnly s t) : t.session x.team x.group = some x := by
  obtain ⟨hteam, hgroup⟩ := State.key_of_session own
  rw [hteam, hgroup, ← own]
  exact (congrArg (fun u : State => u.session s.cur.ref.team s.cur.ref.group) h.outside :)

/-- A slot that ends by putting an entry into the session of its group. -/
theorem turn_of_bankPut {s t : State} {i : Instr} {u : Uses} {x y : Session} {op : BankOp} {e : State → State}
    (he : exec i s = .next (s.slot i u (·.whenActs e))) (hacts : s.actsAny = true) (hx : Owned s x) (heff : e s = t.bankPut x op)
    (honly : GroupOnly s t) (hgoes : GoesOnOnly s t) (hop : op.Loads ∨ ∃ n c, n ≠ 0 ∧ op = .steps n c)
    (hy : x.queue = [] → { op.load (x.enter op t.now) with since := 0 } = { y with since := 0 }) : Claims.Turn s i u x op y := by
  intro hi
  have hput := State.bankPut_take hop (session_of_groupOnly hx.own honly) hx.head
  refine ⟨_, (exec_acts he hacts hi).trans (congrArg _ (heff.trans hput)), hgoes.updSession _ _ _, honly.team,
    .of_updSession hx.own honly.outside (x.keepsKey_take op t.now) ?_⟩
  unfold Session.take
  split
  · next hq => exact hy hq
  · rfl

/-! ## Numbers in uniform registers -/

theorem field_low (x : DWord) (hi : Nat) : field x hi 0 = x.toNat % 2 ^ (hi + 1) := by
  simp [field, bits]

theorem field_high_eq_zero_iff (x : DWord) {n : Nat} (hn : n ≤ 64) : field x 63 n = 0 ↔ x.toNat < 2 ^ n := by
  have hlt : x.toNat / 2 ^ n < 2 ^ (63 + 1 - n) :=
    Nat.div_lt_of_lt_mul (by rw [← Nat.pow_add, Nat.add_sub_cancel' hn]; exact x.isLt)
  rw [field, bits, Nat.mod_eq_of_lt hlt, Nat.div_eq_zero_iff_lt (Nat.two_pow_pos n)]

/-! ## Broadcast registers (R348) -/

theorem ibvec_refuses {s : State} {f : FmtE} {x : Session} (hacts : s.actsAny = true) (hx : Owned s x)
    (hk : 8 < (f.imm.extractLsb' 0 3).toNat + (s.ct.width + 15) / 16) (hi : s.Issues (.ibvec f) { reads := [.v f.a.toNat] }) :
    exec (.ibvec f) s = .next (s.raise 0x180) :=
  (exec_acts rfl hacts hi).trans (congrArg _ ((State.withSession_owned hx _).trans (if_pos hk)))

theorem ibvec_turn {s : State} {f : FmtE} {x : Session} (hacts : s.actsAny = true) (hx : Owned s x)
    (hk : (f.imm.extractLsb' 0 3).toNat + (s.ct.width + 15) / 16 ≤ 8) :
    let ws := s.lanes.map (fun l => (16 * (f.imm.extractLsb' 0 3).toNat + l, s.cg.vreg f.a.toNat l))
    Claims.Turn s (.ibvec f) { reads := [.v f.a.toNat] } x (.vec ws) (x.putVec ws) := by
  refine turn_of_bankPut (t := s.retire []) rfl hacts hx ((State.withSession_owned hx _).trans (if_neg (Nat.not_lt.2 hk)))
    (s.retireTo_only _ _) (s.retire_goesOn []) (.inl trivial) fun hq => ?_
  simp only [BankOp.load, Session.enter, Session.pop, hq, Session.putVec]
  rfl

/-! ## Scales (R348) -/

/-- `ibscale` names a BGU that its session has not. -/
theorem ibscale_beyond_iff {s : State} {x : Session} (b : DWord) :
    (decide (field b 63 16 ≠ 0) || s.lanes.any (fun l => decide (x.bguCount ≤ field b 15 0 + l))) = true ↔
      2 ^ 16 ≤ b.toNat ∨ ∃ l ∈ s.lanes, x.bguCount ≤ b.toNat + l := by
  rw [Bool.or_eq_true, decide_eq_true_iff, Ne, field_high_eq_zero_iff b (by decide), List.any_eq_true, Nat.not_lt, field_low]
  by_cases hb : 2 ^ 16 ≤ b.toNat
  · simp only [hb, true_or]
  · simp only [hb, false_or, Nat.mod_eq_of_lt (Nat.lt_of_not_le hb), decide_eq_true_iff]

theorem ibscale_refuses {s : State} {f : FmtE} {x : Session} (hacts : s.actsAny = true) (hx : Owned s x)
    (hb : 2 ^ 16 ≤ (s.cg.ureg f.b.toNat).toNat ∨ ∃ l ∈ s.lanes, x.bguCount ≤ (s.cg.ureg f.b.toNat).toNat + l)
    (hi : s.Issues (.ibscale f) { reads := [.v f.a.toNat, .s f.b.toNat] }) : exec (.ibscale f) s = .next (s.raise 0x180) :=
  (exec_acts rfl hacts hi).trans
    (congrArg _ ((State.withSession_owned hx _).trans (if_pos ((ibscale_beyond_iff (s.cg.ureg f.b.toNat)).2 hb))))

theorem ibscale_turn {s : State} {f : FmtE} {x : Session} (hacts : s.actsAny = true) (hx : Owned s x)
    (hb : (s.cg.ureg f.b.toNat).toNat < 2 ^ 16) (hl : ∀ l ∈ s.lanes, (s.cg.ureg f.b.toNat).toNat + l < x.bguCount) :
    let k := (f.imm.extractLsb' 0 2).toNat
    let vs := s.lanes.map (fun l => (some ((s.cg.ureg f.b.toNat).toNat + l), s.cg.vreg f.a.toNat l))
    Claims.Turn s (.ibscale f) { reads := [.v f.a.toNat, .s f.b.toNat] } x (.scale k vs) (x.putScales k vs) := by
  have hinside := mt (ibscale_beyond_iff (s := s) (x := x) (s.cg.ureg f.b.toNat)).1
    (not_or.2 ⟨Nat.not_le.2 hb, by simpa using hl⟩)
  have hfirst : field (s.cg.ureg f.b.toNat) 15 0 = (s.cg.ureg f.b.toNat).toNat := by rw [field_low, Nat.mod_eq_of_lt hb]
  refine turn_of_bankPut (t := s.retire []) rfl hacts hx ?_ (s.retireTo_only _ _) (s.retire_goesOn []) (.inl trivial) fun hq => ?_
  · rw [← hfirst]
    exact (State.withSession_owned hx _).trans (if_neg hinside)
  · simp only [BankOp.load, Session.enter, Session.pop, hq, Session.putScales]
    rfl

theorem ibscaleU_refuses {s : State} {f : FmtE} {x : Session} (hacts : s.actsAny = true) (hx : Owned s x)
    (ha : 2 ^ 32 ≤ (s.cg.ureg f.a.toNat).toNat) (hi : s.Issues (.ibscaleU f) { reads := [.s f.a.toNat] }) :
    exec (.ibscaleU f) s = .next (s.raise 0x180) :=
  (exec_acts rfl hacts hi).trans (congrArg _ ((State.withSession_owned hx _).trans
    (if_pos (mt (field_high_eq_zero_iff _ (by decide)).1 (Nat.not_lt.2 ha)))))

theorem ibscaleU_turn {s : State} {f : FmtE} {x : Session} (hacts : s.actsAny = true) (hx : Owned s x)
    (ha : (s.cg.ureg f.a.toNat).toNat < 2 ^ 32) :
    let k := (f.imm.extractLsb' 0 2).toNat
    let vs := [((none : Option Nat), (s.cg.ureg f.a.toNat).setWidth 32)]
    Claims.Turn s (.ibscaleU f) { reads := [.s f.a.toNat] } x (.scale k vs) (x.putScales k vs) := by
  have hshort := not_not.2 ((field_high_eq_zero_iff (s.cg.ureg f.a.toNat) (n := 32) (by decide)).2 ha)
  refine turn_of_bankPut (t := s.retire []) rfl hacts hx ((State.withSession_owned hx _).trans (if_neg hshort))
    (s.retireTo_only _ _) (s.retire_goesOn []) (.inl trivial) fun hq => ?_
  simp only [BankOp.load, Session.enter, Session.pop, hq, Session.putScales]
  rfl

/-! ## Steps (R349) -/

section
variable {s : State} {i : Instr} {u : Uses} {e : State → State} {x : Session} {n : Nat}
  (he : exec i s = .next (s.slot i u (·.whenActs e))) (hk : e s = s.bankStep n) (hacts : s.actsAny = true) (hx : Owned s x)
include he hk hacts hx

theorem bankStep_refused (hn : 2 ^ 40 ≤ x.pending + n) (hi : s.Issues i u) : exec i s = .next (s.raise 0x180) := by
  rw [exec_acts he hacts hi, hk, State.bankStep, State.withSession_owned hx, if_pos hn]

theorem bankStep_none (hn : x.pending + n < 2 ^ 40) (h0 : n = 0) (hi : s.Issues i u) : ∃ t, exec i s = .next t ∧ Completed s t [] := by
  refine ⟨s.retireNow, ?_, s.retireNow_completed⟩
  rw [exec_acts he hacts hi, hk, State.bankStep, State.withSession_owned hx, if_neg (Nat.not_le.2 hn), if_pos h0]

theorem bankStep_turn (hn : x.pending + n < 2 ^ 40) (h0 : n ≠ 0) :
    Claims.Turn s i u x (.steps n s.cf.pc) { x with queue := [.steps n s.cf.pc] } ∧
      (s.Issues i u → s.GoesOn → ∃ t, exec i s = .next t ∧ t.cg.inflight = s.cg.inflight ∧ t.cg.k = s.cg.k) := by
  have hput : e s = s.retireNow.bankPut x (.steps n s.cf.pc) := by
    rw [hk, State.bankStep, State.withSession_owned hx, if_neg (Nat.not_le.2 hn), if_neg h0]
  have hop : (BankOp.steps n s.cf.pc).Loads ∨ ∃ m c, m ≠ 0 ∧ BankOp.steps n s.cf.pc = .steps m c := .inr ⟨n, _, h0, rfl⟩
  refine ⟨turn_of_bankPut he hacts hx hput s.retireNow_only s.retireNow_goesOn hop fun hq => ?_, fun hi hgo => ?_⟩
  · simp only [BankOp.load, Session.enter, hq, List.nil_append]
  · obtain ⟨hinflight, hflags, -⟩ := s.retireNow_completed.records hgo
    have htake := State.bankPut_take hop (session_of_groupOnly hx.own s.retireNow_only) hx.head
    exact ⟨_, (exec_acts he hacts hi).trans (congrArg _ (hput.trans htake)), hinflight, hflags⟩

end

/-- `ibstep sA` steps by its register, where that holds a count of 32 bits. -/
theorem State.ibstepReg_steps {s : State} {x : Session} (hx : Owned s x) {a : DWord} (ha : a.toNat < 2 ^ 32) :
    s.withSession true (fun _ => if field a 63 32 ≠ 0 then s.raise 0x180 else s.bankStep (field a 31 0)) = s.bankStep a.toNat := by
  rw [State.withSession_owned hx, if_neg (not_not.2 ((field_high_eq_zero_iff a (by decide)).2 ha)), field_low, Nat.mod_eq_of_lt ha]

theorem ibstepReg_refuses {s : State} {f : FmtE} {x : Session} (hacts : s.actsAny = true) (hx : Owned s x)
    (ha : 2 ^ 32 ≤ (s.cg.ureg f.a.toNat).toNat) (hi : s.Issues (.ibstepReg f) { reads := [.s f.a.toNat] }) :
    exec (.ibstepReg f) s = .next (s.raise 0x180) :=
  (exec_acts rfl hacts hi).trans (congrArg _ ((State.withSession_owned hx _).trans
    (if_pos (mt (field_high_eq_zero_iff _ (by decide)).1 (Nat.not_lt.2 ha)))))

/-! ## Programs (R347) -/

theorem Claims.GoesOnOnly.after_reads {s s' t : State} (h : GoesOnOnly s' t) (hr : SameButReads s s') : GoesOnOnly s t := by
  have hct : s'.ct = s.ct := by simp only [State.ct, State.teamOf, hr.teams, hr.cur]
  have hcg : s'.cg = s.cg := by rw [State.cg, hct, hr.cur]; rfl
  have hcf : s'.cf = s.cf := by rw [State.cf, hcg, hr.cur]; rfl
  constructor
  · rw [h.v, hcg]
  · rw [h.u, hcg]
  · rw [h.p, hcg]
  · rw [h.rest, hcg]
  · intro e he
    rw [h.otherFrags e (by rwa [hr.cur]), hcg]
  · rw [h.fragment, hcf]
  · intro k hk
    rw [h.otherGroups k (by rwa [hr.cur]), hct]

/-- The accesses of `ibprog`: n words from a byte offset. -/
def progLanes (n off : Nat) : List LaneIx := (List.range n).map (fun i => ⟨i, off + 4 * i⟩)

theorem progLanes_lane_inj {n off : Nat} : ∀ i ∈ progLanes n off, ∀ i' ∈ progLanes n off, i.lane = i'.lane → i = i' := by
  intro i hi i' hi' h
  obtain ⟨k, -, rfl⟩ := List.mem_map.1 hi
  obtain ⟨k', -, rfl⟩ := List.mem_map.1 hi'
  obtain rfl : k = k' := h
  rfl

/-- The words of a program as `ibprog` reads them. -/
theorem progWords_eq {s : State} {bf : BRec} {slot n off : Nat} {r : Resolved}
    (h : s.resolveRec bf slot 0 ⟨1, 4, .read, true⟩ .plain true (progLanes n off) = .ok r) (hc : Coherent s r) :
    (List.range n).map (fun i => BitVec.ofNat 32 (laneNat 4 (s.readReqs r.lines).1 i)) =
      (progLanes n off).map (fun i => BitVec.ofNat 32 (valueAt s bf 0 r 4 i)) := by
  rw [progLanes, List.map_map]
  refine List.map_congr_left fun i hi => ?_
  exact congrArg _ (laneNat_readReqs h hc rfl progLanes_lane_inj (List.mem_map.2 ⟨i, hi, rfl⟩))

/-- A session that has taken a program, where nothing was pending and where something was. -/
theorem Session.take_prog (x : Session) (ws : List Word) (now : Nat) :
    let z := x.take (.prog ws) now x
    (x.queue ≠ [] → z.queue = x.queue ++ [.prog ws] ∧ z.store = x.store ∧ z.pc = x.pc) ∧
      (x.queue = [] → z.queue = [] ∧ z.pc = 0 ∧ z.bgus = x.bgus ∧ z.c = x.c ∧
        ∀ i, Map.get 0 z.store i = if i < ws.length then ws.getD i 0 else Map.get 0 x.store i) := by
  unfold Session.take
  refine ⟨fun hq => ?_, fun hq => ?_⟩
  · rw [if_neg hq]
    exact ⟨rfl, rfl, rfl⟩
  · rw [if_pos hq]
    exact ⟨congrArg (fun q => (q ++ [BankOp.prog ws]).tail) hq, rfl, rfl, rfl, Session.get_store_putProg _ ws⟩

section
variable {s : State} {f : FmtE} {x : Session} {r : Resolved}

/-- The byte offset of `ibprog`. -/
abbrev progOff (s : State) (f : FmtE) : Nat := (s.cg.ureg f.a.toNat).toNat

/-- The record slot of `ibprog`. -/
abbrev progSlot (f : FmtE) : Nat := (f.imm.extractLsb' 0 5).toNat

/-- The number of words of `ibprog`. -/
abbrev progCount (f : FmtE) : Nat := (f.imm.extractLsb' 8 6).toNat + 1

/-- The words that `ibprog` reads through its record. -/
def progWords (s : State) (f : FmtE) (r : Resolved) : List Word :=
  (progLanes (progCount f) (progOff s f)).map (fun i => BitVec.ofNat 32 (valueAt s (s.ct.record (progSlot f)).asBytes 0 r 4 i))

/-- A program that can be read and that holds no refused word is put into the session once the slot has gone on. -/
theorem ibprog_puts (hacts : s.actsAny = true) (hx : Owned s x) (hoff : progOff s f % 4 = 0) (hsent : s.cf.sent = [])
    (hr : s.resolveRec (s.ct.record (progSlot f)).asBytes (progSlot f) 0 ⟨1, 4, .read, true⟩ .plain true
      (progLanes (progCount f) (progOff s f)) = .ok r)
    (hc : Coherent s r) (hgood : ∀ w ∈ progWords s f r, bankWordBad (progCount f) w = false)
    (hi : s.Issues (.ibprog f) { reads := [.s f.a.toNat] }) :
    exec (.ibprog f) s = .next (((s.readReqs r.lines).2.retire []).bankPut x (.prog (progWords s f r))) := by
  have hread := (State.readReqs_local hc.settled hc.local_).2
  have hown : (s.readReqs r.lines).2.session (s.readReqs r.lines).2.cur.ref.team (s.readReqs r.lines).2.cur.ref.group = some x := by
    rw [State.session, hread.sessions, hread.cur]
    exact hx.own
  refine (exec_acts rfl hacts hi).trans (congrArg _ ?_)
  refine (State.withSession_owned hx _).trans ((if_neg (not_not.2 hoff)).trans ?_)
  refine (congrArg (fun res => s.loadVia true res _) hr).trans ((State.loadVia_coherent hsent hc _ _).trans ?_)
  dsimp only
  rw [progWords_eq hr hc, ← progWords, List.findIdx?_eq_none_iff.2 hgood]
  exact State.withSession_own hown (fun _ => hx.good) _

theorem ibprog_turn (hacts : s.actsAny = true) (hx : Owned s x) (hoff : progOff s f % 4 = 0) (hsent : s.cf.sent = [])
    (hr : s.resolveRec (s.ct.record (progSlot f)).asBytes (progSlot f) 0 ⟨1, 4, .read, true⟩ .plain true
      (progLanes (progCount f) (progOff s f)) = .ok r)
    (hc : Coherent s r) (hgood : ∀ w ∈ progWords s f r, bankWordBad (progCount f) w = false)
    (hi : s.Issues (.ibprog f) { reads := [.s f.a.toNat] }) :
    ∃ t z, exec (.ibprog f) s = .next t ∧ GoesOnOnly s t ∧ (∀ a, t.byteAt a = s.byteAt a) ∧
      t.session s.cur.ref.team s.cur.ref.group = some z ∧
      (x.queue ≠ [] → z.queue = x.queue ++ [.prog (progWords s f r)] ∧ z.store = x.store ∧ z.pc = x.pc) ∧
      (x.queue = [] → z.queue = [] ∧ z.pc = 0 ∧ z.bgus = x.bgus ∧ z.c = x.c ∧
        ∀ i, Map.get 0 z.store i = if i < progCount f then (progWords s f r).getD i 0 else Map.get 0 x.store i) := by
  have hread := (State.readReqs_local hc.settled hc.local_).2
  have hlen : (progWords s f r).length = progCount f := by simp [progWords, progLanes]
  obtain ⟨hteam, hgroup⟩ := State.key_of_session hx.own
  have hown : ((s.readReqs r.lines).2.retire []).session x.team x.group = some x := by
    refine session_of_groupOnly ?_ (State.retireTo_only _ _ _)
    rw [State.session, hread.sessions, hread.cur]
    exact hx.own
  have hput := State.bankPut_take (op := .prog (progWords s f r)) (.inl trivial) hown hx.head
  refine ⟨_, x.take (.prog (progWords s f r)) ((s.readReqs r.lines).2.retire []).now x,
    (ibprog_puts hacts hx hoff hsent hr hc hgood hi).trans (congrArg _ hput), ?_, fun a => ?_, ?_,
    hlen ▸ x.take_prog (progWords s f r) _⟩
  · exact ((State.retire_goesOn _ []).after_reads hread).updSession _ _ _
  · exact ((State.retireTo_only _ _ []).memory a).trans (congrArg (Map.get 0 · a) hread.mem)
  · rw [← hteam, ← hgroup]
    exact State.session_take _ _ hown

end

/-! ## Accumulators (R350) -/

/-- The lanes of an `ibread` whose accumulators are invalid or fail. -/
def State.badAccLanes (s : State) (b : Bgu) : List Nat :=
  s.lanes.filter (fun l => (List.range (64 / s.ct.width)).any (fun k =>
    b.invalid.contains (k * s.ct.width + l) || b.bad.contains (k * s.ct.width + l)))

theorem State.mem_badAccLanes {s : State} {b : Bgu} {l : Nat} :
    l ∈ s.badAccLanes b ↔
      l ∈ s.lanes ∧ ∃ r < 64 / s.ct.width, r * s.ct.width + l ∈ b.invalid ∨ r * s.ct.width + l ∈ b.bad := by
  simp [State.badAccLanes]

theorem State.readAccs_eq (s : State) (x : Session) (d g : Nat) :
    s.readAccs s.cur.ref x d g s.act =
      if maskOf (s.badAccLanes (x.bgu g)) ≠ 0 then .error (maskOf (s.badAccLanes (x.bgu g)))
      else .ok (s.setG (fun h => h.setRows d s.lanes (fun k l => Map.get 0 (x.bgu g).acc (k * s.ct.width + l))
        (List.range (64 / s.ct.width)))) := rfl

section
variable {s : State} {f : FmtE} {x : Session} (hacts : s.actsAny = true)
  (hx : s.session s.cur.ref.team s.cur.ref.group = some x)
  (hi : s.Issues (.ibread f) { reads := [.s f.a.toNat], writes := vregs f.d.toNat (64 / s.ct.width) })
include hacts hx hi

theorem ibread_refuses (ha : 2 ^ 16 ≤ (s.cg.ureg f.a.toNat).toNat ∨ x.bguCount ≤ (s.cg.ureg f.a.toNat).toNat) :
    exec (.ibread f) s = .next (s.raise 0x180) := by
  refine (exec_acts rfl hacts hi).trans (congrArg _ ((State.withSession_own hx (by simp) _).trans (if_pos ?_)))
  rw [Ne, field_high_eq_zero_iff _ (by decide), field_low, Nat.not_lt]
  rcases Nat.lt_or_ge (s.cg.ureg f.a.toNat).toNat (2 ^ 16) with hlow | hhigh
  · exact .inr (by rw [Nat.mod_eq_of_lt hlow]; omega)
  · exact .inl hhigh

/-- What an `ibread` of a BGU of its session does: where nothing is pending it reads or fails, else it waits for its turn. -/
theorem ibread_inside (ha : (s.cg.ureg f.a.toNat).toNat < 2 ^ 16) (hb : (s.cg.ureg f.a.toNat).toNat < x.bguCount) :
    (x.queue = [] →
      (∀ t, s.readAccs s.cur.ref x f.d.toNat (s.cg.ureg f.a.toNat).toNat s.act = .ok t →
        exec (.ibread f) s = .next (t.retire (readRegs s.ct f.d.toNat))) ∧
      ∀ m, s.readAccs s.cur.ref x f.d.toNat (s.cg.ureg f.a.toNat).toNat s.act = .error m →
        exec (.ibread f) s = .next (s.raise 0x187 (some m) (s.cg.ureg f.a.toNat))) ∧
    (x.queue ≠ [] → exec (.ibread f) s = .next ((s.park .bankTurn (readRegs s.ct f.d.toNat)).bankPut x
      (.read s.cur.ref f.d.toNat (s.cg.ureg f.a.toNat).toNat s.act))) := by
  have hlow : field (s.cg.ureg f.a.toNat) 15 0 = (s.cg.ureg f.a.toNat).toNat := by rw [field_low, Nat.mod_eq_of_lt ha]
  have hinside : ¬ (field (s.cg.ureg f.a.toNat) 63 16 ≠ 0 ∨ x.bguCount ≤ (s.cg.ureg f.a.toNat).toNat) :=
    not_or.2 ⟨not_not.2 ((field_high_eq_zero_iff _ (by decide)).2 ha), Nat.not_le.2 hb⟩
  have hinfo : BitVec.ofNat 64 (s.cg.ureg f.a.toNat).toNat = s.cg.ureg f.a.toNat := BitVec.ofNat_toNat _ _
  have hstep := exec_acts (i := .ibread f) rfl hacts hi
  dsimp only at hstep
  rw [State.withSession_own hx (by simp)] at hstep
  simp only [hlow, if_neg hinside, hinfo, List.isEmpty_iff] at hstep
  refine ⟨fun hq => ⟨fun t ht => ?_, fun m hm => ?_⟩, fun hq => ?_⟩
  · rw [hstep, if_pos hq, ht]
  · rw [hstep, if_pos hq, hm]
  · rw [hstep, if_neg hq]

end

/-- Registers written from accumulators, then the end of the slot. -/
theorem setRows_retired (s : State) (d n : Nat) (v : Nat → Nat → Word) :
    let t := (s.setG (fun h => h.setRows d s.lanes v (List.range n))).retire (vregs d n)
    RegsOnly s t s.lanes (vregs d n) (nextPc s.cf.pc) ∧ ∀ l ∈ s.lanes, ∀ r < n, t.cg.vreg (d + r) l = v r l := by
  have hlt : ∀ l ∈ s.lanes, l < 64 := fun l hl => bitsOf_lt _ _ hl
  have hsame := s.cg.setRows_same d s.lanes v (List.range n)
  have hpc : (s.setG (fun h => h.setRows d s.lanes v (List.range n))).cf.pc = s.cf.pc := by
    rw [State.cf_setG, Group.fragOf, hsame.frags]
    rfl
  obtain ⟨honly, hv, -, -⟩ := State.retire_setG s (fun h => h.setRows d s.lanes v (List.range n)) (nextPc s.cf.pc) (vregs d n) s.lanes
    (vregs d n) (fun _ h => h) hsame.rest hsame.k hsame.frags hsame.stop
    (fun r l hl h => by
      rw [Group.vreg_setRows _ _ _ hlt hl, if_neg]
      rintro ⟨hd, hr, hmem⟩
      refine h.elim (fun h => h (List.mem_map.2 ⟨r - d, hr, ?_⟩)) (fun h => h hmem)
      rw [Nat.add_sub_cancel' hd])
    (fun r _ => by simp only [Group.ureg, hsame.s]) (fun k l _ _ _ => by simp only [Group.pred, hsame.p])
  rw [State.retire, hpc]
  refine ⟨honly, fun l hl r hr => ?_⟩
  rw [Group.vreg, hv]
  refine (Group.vreg_setRows s.cg v (List.range n) hlt (hlt l hl) (d := d) (r := d + r)).trans ?_
  rw [if_pos ⟨Nat.le_add_right d r, by simpa using hr, hl⟩, Nat.add_sub_cancel_left]

section
variable {s : State} {f : FmtE} {x : Session} (hacts : s.actsAny = true)
  (hx : s.session s.cur.ref.team s.cur.ref.group = some x)
  (hi : s.Issues (.ibread f) { reads := [.s f.a.toNat], writes := vregs f.d.toNat (64 / s.ct.width) })
  (ha : (s.cg.ureg f.a.toNat).toNat < 2 ^ 16) (hb : (s.cg.ureg f.a.toNat).toNat < x.bguCount)
include hacts hx hi ha hb

theorem ibread_reads (hq : x.queue = [])
    (hgood : ∀ l ∈ s.lanes, l ∉ s.badAccLanes (x.bgu (s.cg.ureg f.a.toNat).toNat)) :
    ∃ t, exec (.ibread f) s = .next t ∧ RegsOnly s t s.lanes (vregs f.d.toNat (64 / s.ct.width)) (nextPc s.cf.pc) ∧
      ∀ l ∈ s.lanes, ∀ r < 64 / s.ct.width,
        t.cg.vreg (f.d.toNat + r) l = Map.get 0 (x.bgu (s.cg.ureg f.a.toNat).toNat).acc (r * s.ct.width + l) := by
  have hnil : s.badAccLanes (x.bgu (s.cg.ureg f.a.toNat).toNat) = [] :=
    List.eq_nil_iff_forall_not_mem.2 fun l hl => hgood l (State.mem_badAccLanes.1 hl).1 hl
  refine ⟨_, ?_, setRows_retired s f.d.toNat (64 / s.ct.width)
    fun k l => Map.get 0 (x.bgu (s.cg.ureg f.a.toNat).toNat).acc (k * s.ct.width + l)⟩
  exact ((ibread_inside hacts hx hi ha hb).1 hq).1 _ (by rw [State.readAccs_eq, hnil]; rfl)

theorem ibread_fails (hq : x.queue = []) {l : Nat} (hl : l ∈ s.badAccLanes (x.bgu (s.cg.ureg f.a.toNat).toNat)) :
    exec (.ibread f) s = .next
      (s.raise 0x187 (some (maskOf (s.badAccLanes (x.bgu (s.cg.ureg f.a.toNat).toNat)))) (s.cg.ureg f.a.toNat)) := by
  have hmask : maskOf (s.badAccLanes (x.bgu (s.cg.ureg f.a.toNat).toNat)) ≠ 0 := fun h => by
    have hbit := getLsbD_maskOf (s.badAccLanes (x.bgu (s.cg.ureg f.a.toNat).toNat)) l
      (bitsOf_lt _ _ (State.mem_badAccLanes.1 hl).1)
    rw [h] at hbit
    simp [hl] at hbit
  exact ((ibread_inside hacts hx hi ha hb).1 hq).2 _ (by rw [State.readAccs_eq, if_pos hmask])

theorem ibread_parks {n : Nat} {c : CodePtr} (hq : x.queue = [.steps (n + 1) c]) :
    ∃ t, exec (.ibread f) s = .next t ∧ t.cg.v = s.cg.v ∧ t.cg.s = s.cg.s ∧ t.cg.p = s.cg.p ∧ t.mem = s.mem ∧
      t.cf.park = some .bankTurn ∧ t.cf.pc = s.cf.pc ∧
      (t.session s.cur.ref.team s.cur.ref.group).map (·.queue) =
        some (x.queue ++ [.read s.cur.ref f.d.toNat (s.cg.ureg f.a.toNat).toNat s.act]) := by
  obtain ⟨honly, hv, hs, hp, hpark, hpc⟩ := s.park_keeps .bankTurn (readRegs s.ct f.d.toNat)
  obtain ⟨hteam, hgroup⟩ := State.key_of_session hx
  have hown := session_of_groupOnly hx honly
  have hput := State.bankPut_waits (op := .read s.cur.ref f.d.toNat (s.cg.ureg f.a.toNat).toNat s.act) hown (by rw [hq]; rfl)
    (Nat.succ_ne_zero n)
  refine ⟨_, ((ibread_inside hacts hx hi ha hb).2 (by simp [hq])).trans (congrArg _ hput), hv, hs, hp,
    (congrArg State.mem honly.outside :), hpark, hpc, ?_⟩
  rw [← hteam, ← hgroup, State.session_enter _ hown]
  rfl

end

/-! ## Status (R351) -/

theorem Session.stat_eq (x : Session) :
    x.stat = (if x.error ≠ none then 4 else if 0 < x.pending then 2
        else if decodeBgu (Map.get 0 x.store x.pc) = some .halt then 3 else 1)
      + 2 ^ 9 * x.pc + 2 ^ 15 * x.error.elim 0 BitVec.toNat + 2 ^ 24 * x.pending := by
  simp only [Session.stat, beq_iff_eq, Option.isSome_iff_ne_none]
  cases x.error with
  | none | some => dsimp only [Option.elim]; ring

theorem ibstat_none {s : State} {f : FmtE} (hacts : s.actsAny = true) (hx : s.session s.cur.ref.team s.cur.ref.group = none) :
    UniformResult s (.ibstat f) { writes := [.s f.d.toNat] } f.d 0 := by
  intro hi
  have hstep := exec_acts (i := .ibstat f) rfl hacts hi
  rw [hx] at hstep
  exact ⟨_, hstep, s.writeU_all f.d _⟩

theorem ibstat_own {s : State} {f : FmtE} {x : Session} (hacts : s.actsAny = true)
    (hx : s.session s.cur.ref.team s.cur.ref.group = some x) :
    UniformResult s (.ibstat f) { writes := [.s f.d.toNat] } f.d (BitVec.ofNat 64 x.stat) := by
  intro hi
  have hstep := exec_acts (i := .ibstat f) rfl hacts hi
  rw [hx] at hstep
  exact ⟨_, hstep, s.writeU_all f.d _⟩

/-! ## The statement -/

/-- Settles O43: each instruction by the lemma that says what its slot does. -/
theorem sessionInstructions : Obligations.SessionInstructions := by
  unfold Obligations.SessionInstructions
  intro s f hacts g a bank
  refine ⟨refused_of_withSession rfl rfl hacts, refused_of_withSession rfl rfl hacts, refused_of_withSession rfl rfl hacts,
    refused_of_withSession rfl rfl hacts, refused_of_withSession rfl rfl hacts, refused_of_withSession rfl rfl hacts,
    fun x hx => ⟨?prog, ?vec, ?scale, ?steps, fun ha hi => ibstepReg_refuses hacts hx ha hi⟩, fun x hx => ?read, ?stat⟩
  case prog =>
    intro n k bf ixs hoff hsent r hr hc ws hi hgood
    exact ibprog_turn hacts hx hoff hsent hr hc hgood hi
  case vec =>
    intro k u
    refine ⟨fun hk hi => ibvec_refuses hacts hx hk hi, fun hk => ⟨_, ibvec_turn hacts hx hk, rfl, fun h hh => ?_⟩⟩
    rw [Session.bgu_putVec x _ hh]
    obtain ⟨hrest, hword⟩ := Bgu.putWords_lanes (g.vreg f.a.toNat) (16 * k) s.lanes (x.bgu h)
    exact ⟨hrest, fun r _ j hj => hword r j hj⟩
  case scale =>
    intro k b u scaled
    refine ⟨fun hb hi => ibscale_refuses hacts hx hb hi, fun hb hl => ⟨_, ibscale_turn hacts hx hb hl, rfl, fun h _ => ?_⟩,
      fun ha hi => ibscaleU_refuses hacts hx ha hi, fun ha => ⟨_, ibscaleU_turn hacts hx ha, rfl, fun h hh => ?_⟩⟩
    · exact x.bgu_putScales_lanes k b s.lanes (g.vreg f.a.toNat) h
    · exact x.bgu_putScales_uniform k (a.setWidth 32) hh
  case steps =>
    rintro i u n (⟨rfl, rfl, rfl⟩ | ⟨rfl, rfl, rfl, ha⟩)
    · exact ⟨bankStep_refused rfl rfl hacts hx, bankStep_none rfl rfl hacts hx, bankStep_turn rfl rfl hacts hx⟩
    · have hk := State.ibstepReg_steps hx ha
      exact ⟨bankStep_refused rfl hk hacts hx, bankStep_none rfl hk hacts hx, bankStep_turn rfl hk hacts hx⟩
  case read =>
    intro w u b fails hi
    refine ⟨ibread_refuses hacts hx hi, fun ha hb => ⟨fun hq hgood => ?_, fun hq ⟨l, hl, hfail⟩ => ?_,
      fun n c hq => ibread_parks hacts hx hi ha hb hq⟩⟩
    · exact ibread_reads hacts hx hi ha hb hq fun l hl hbad => hgood l hl (State.mem_badAccLanes.1 hbad).2
    · refine ⟨_, fun l' hl' => ?_, ibread_fails hacts hx hi ha hb hq (State.mem_badAccLanes.2 ⟨hl, hfail⟩)⟩
      rw [getLsbD_maskOf _ _ hl', decide_eq_true_iff]
      exact State.mem_badAccLanes
  case stat =>
    cases hx : s.session s.cur.ref.team s.cur.ref.group with
    | none => exact ibstat_none hacts hx
    | some x =>
      have hown := ibstat_own (f := f) hacts hx
      rw [Session.stat_eq] at hown
      cases herror : x.error with
      | none | some =>
        simp only [herror] at hown ⊢
        exact hown

end Sys2Proof.Machine
end
